-- ==== Sys2Proof/Word.lean ====
section
/-! DEFINITION. The word types of the HK-960 and the sparse table type used for memory and register files. -/

namespace Sys2Proof

/-- A byte of memory or of an instruction stream (R5). -/
abbrev Byte := BitVec 8

/-- A 32-bit register or instruction word. -/
abbrev Word := BitVec 32

/-- A 64-bit register pair, presentation time or queue word. -/
abbrev DWord := BitVec 64

/-- A table from numbers to values with a default: keys strictly rising, no entry equal to the
default (the canonical form is `Sparse.wf`). Memory, register files and slot tables are of this
type, so that equal contents are equal data. -/
abbrev Sparse (α : Type) := List (Nat × α)

/-- The time value "never" of R94. -/
def never : DWord := 0xFFFFFFFFFFFFFFFF#64

end Sys2Proof
end

