-- ==== Sys2Proof/Config.lean ====
section
/-! DEFINITION. What the spec leaves open, as opaque constants: nothing in Lean can evaluate them, so every claim holds
whatever they are (log 2). -/

namespace Sys2Proof.Config

/-- The fresh free values, applied to the state's counter (log 2). -/
opaque freeValue : Nat → DWord

/-- The choice of a `.fast` result among the codes within 2 ulp (R91): by function and operands. The device fixes it, the
spec gives no value (log 11). -/
opaque fastChoice : Nat → Nat → Nat → Nat

/-- The frequency correction that the servo keeps after a Sync measurement: by the correction so far and the offset (R96). The
spec gives no law of the servo (log 3). -/
opaque servo : Int → Int → Int

/-- The free device memory that firmware still has, in bytes, is short, so that it demotes pages (R248). The spec gives no bound
(log 88). -/
opaque framesShort : Nat → Bool

/-- The signature of a firmware image of so many bytes verifies under the key whose digest is fused (R445; log 75). -/
opaque imageSigned : Nat → List (Nat × Byte) → Bool

/-- The version of a firmware image of so many bytes (R445; log 75). -/
opaque imageVersion : Nat → List (Nat × Byte) → Word

/-- The signature r ‖ s by the identity key over bytes 0 to 199 of a report (R447), with the random number that the signature scheme
takes (log 75). -/
opaque signature : List Byte → DWord → BitVec 1056

/-- The fused minimum image version (R445, R447; log 75). -/
opaque minVersion : Word

/-- The words of the certificate chain of the identity key (R439, R447; log 75). -/
opaque idcert : Nat → DWord

end Sys2Proof.Config
end

