-- ==== Sys2Proof/Syntax.lean ====
section
/-! DEFINITION. The syntax of the HK-960: the decoded fields of a Waluno instruction (R15-R34), the data that outside
parties bring to a step, and `Instr`, one constructor per row of spec/opcode_table.json: 176 instruction opcodes, the
unassigned opcodes, and the steps of the device's other agents (95_what_each_step_holds). -/

namespace Sys2Proof

/-- The form of an instruction, fixed by `LEN` (R15). -/
inductive Form where
  | base | literal | extended | block
  deriving DecidableEq, Repr

/-- What a source number names in the extended form (R23): a vector register (or a bare number, kind 0b00), a scalar
register, a latch, or the expanded `IMM18`. -/
inductive Kind where
  | vec | sca | lat | imm
  deriving DecidableEq, Repr

/-- Rounding modes of R30: nearest-even, toward zero, toward plus infinity, toward minus infinity, nearest-away. -/
inductive Rnd where
  | ne | tz | up | dn | na
  deriving DecidableEq, Repr

/-- The decoded fields of one instruction (R18-R22, R40). In the base form the fields that the form does not carry hold
the defaults of R19; in the literal form `lit` replaces operand B (R20). `a` and `b` hold the 8-bit source numbers of
R23, with `AH` and `BH` as bit 7. -/
structure Enc where
  form : Form
  d    : BitVec 8
  a    : BitVec 8
  ak   : Kind
  b    : BitVec 8
  bk   : Kind
  c    : BitVec 8
  ck   : Kind
  ty   : BitVec 4
  rnd  : Rnd
  sat  : Bool
  opx  : BitVec 5
  mod  : BitVec 8
  le   : Bool
  ld   : BitVec 2
  nw   : Bool
  pg   : BitVec 3
  pn   : Bool
  imm  : BitVec 18
  lit  : BitVec 64
  p0   : Word
  p1   : Word
  p2   : Word
  p3   : Word
  deriving DecidableEq, Repr

/-- The instruction opcodes of R52, by mnemonic. -/
inductive Op where
  | nop | iadd | isub | imul | imulh | imad | imin | imax | iabs | ineg | and | or | xor | not | andn | shl | shr
  | sar | bfe | bfi | popc | clz | ctz | brev | bperm | icmp | sel | mov | dp4 | xset | ldx | stx | fadd | fsub
  | fmul | ffma | fmin | fmax | fcmp | fclass | frnd | fscl | fexp | faddp | fsubp | fmulp | ffmap | fminp | fmaxp
  | fcmpp | cvt | pkmx | upmx | pkq4 | upq4 | sfq | waitk | shfl | vote | ballot | redw | scanw | matchT | movs
  | sadd | ssub | smul | smulh | sand | sor | sxor | snot | sshl | sshr | ssar | smin | smax | scmp | ssel | smov
  | sbfe | spopc | sclz | srdl | pand | por | pxor | pnot | pmov | segw | actm | bra | brc | brx | join | call
  | callx | ret | exit | yield | loop | trap | eret | bkpt | csrrd | csrwr | halt | ld | st | ldfe | stfe | stn4
  | atom | red | pref | cinv | cwb | fence | fencesc | sld | sst | cpy | cpyq | gath | tlwait | tlrd | xlate
  | phint | twflush | acq | grel | binit | barv | bwait | barw | bxpct | btest | bdl | tnow | twait | setdl | dlget
  | mpost | aclr | acld | acst | mstat | mcncl | seedscan | seedgen | rsvi | rsvu | rsvm | rsvf | rsvget | rsvset
  | trace | beam | hitld | pxl | pxs | frmacq | fpres | frmst | qpost | qwait | qstat | kstat | rwr | rrd | rwrf
  | ratm | lred | rdva | rdvw | lstat
  deriving DecidableEq, Repr

/-- An ATS Translation Completion as the host sends it (R244): the translated host physical page base, log2 of the page
size, and the permissions granted. -/
structure AtsAnswer where
  pa   : Nat
  logSize : Nat
  read : Bool
  write : Bool
  exec : Bool
  deriving DecidableEq, Repr

/-- An RTP packet of a flow (R403): the path it came on, its IPv4 addresses, UDP ports, time to live and DSCP (R442), its extended
sequence number and timestamp, the first stored line it carries bytes of, the byte offset in that line, and its payload as
stored bytes. -/
structure RtpPacket where
  path   : Nat
  src    : Word
  dst    : Word
  sport  : Nat
  dport  : Nat
  ttl    : Nat
  dscp   : Nat
  ssrc   : Word
  payt   : Nat
  seq    : Nat
  ts     : Word
  line   : Nat
  offset : Nat
  bytes  : List Byte
  deriving DecidableEq, Repr

/-- A peer's answer to a link handshake (R413): its node number, its link number, whether its configuration names this
link and node, and the size of its aperture. -/
structure LinkAnswer where
  node  : Nat
  link  : Nat
  namesUs : Bool
  asize : Nat
  deriving DecidableEq, Repr

/-- A rendezvous report (R431, R435): the sender's timebase state code, servo offset, departure offset, whether it reports
a substitute or an ABSENT instant, and whether it sent anything. -/
structure RdvReport where
  tb   : Nat
  poff : Int
  doff : Int
  sub  : Bool
  sent : Bool
  deriving DecidableEq, Repr

/-- What an NRA operation does at its target (R421-R426); a ready message or a report of a rendezvous, with the node that it goes
to, the object, the instant and the sending member (R432). -/
inductive NraKind where
  | write | flagged | read | atomicAdd | lred (n : Nat)
  | ready (node va inst member : Nat)
  | report (node va inst member : Nat) (rep : RdvReport)
  deriving DecidableEq, Repr

/-- A message of a rendezvous, which accesses no memory (R432). -/
def NraKind.isMessage (k : NraKind) : Bool := match k with | .ready .. | .report .. => true | _ => false

/-- One thread's part of an NRA operation: the offset into the aperture and the data. -/
structure NraPart where
  thread : Nat
  off    : Nat
  data   : DWord
  deriving DecidableEq, Repr

/-- An NRA operation on the wire (R415): its sequence number, kind, access size in bytes, the parts of its threads in
ascending thread index, and for `LRED` the origin's block data and scales. -/
structure NraOp where
  seq   : Nat
  kind  : NraKind
  size  : Nat
  acq   : Bool
  parts : List NraPart
  blob  : List Byte
  deriving DecidableEq, Repr

/-- What the hardware answers when one bring-up step is run (R446): pass or fail, or that the start ends before the step does, and a
detail code. -/
structure StepOutcome where
  pass   : Bool
  cut    : Bool
  detail : Word
  deriving DecidableEq, Repr

/-- One constructor per row of the opcode table. The first 176 are the instruction opcodes, with their decoded fields.
`unassignedOpcode` is R58's. The others are steps of the device's other agents (first those that the
device takes by itself) and of outside parties; their arguments
name the object that takes the step and carry what the outside party brings. -/
inductive Instr where
  /-- NOP (R57): does nothing except advance the program counter, and leaves latches valid. -/
  | nop (e : Enc)
  /-- IADD (R149): adds integer elements per enabled thread, wrapping or saturating. -/
  | iadd (e : Enc)
  /-- ISUB (R149): subtracts integer elements per enabled thread, wrapping or saturating. -/
  | isub (e : Enc)
  /-- IMUL (R149): multiplies integer elements and keeps the low half, or saturates. -/
  | imul (e : Enc)
  /-- IMULH (R149): writes the high half of the exact integer product. -/
  | imulh (e : Enc)
  /-- IMAD (R149): computes a times b plus c per integer element; extended form only. -/
  | imad (e : Enc)
  /-- IMIN (R149): writes the smaller integer element, signed or unsigned by TYPE. -/
  | imin (e : Enc)
  /-- IMAX (R149): writes the larger integer element, signed or unsigned by TYPE. -/
  | imax (e : Enc)
  /-- IABS (R149): writes the absolute value of each signed element. -/
  | iabs (e : Enc)
  /-- INEG (R149): writes the negation of each signed element. -/
  | ineg (e : Enc)
  /-- AND (R149): bitwise and per enabled thread. -/
  | and (e : Enc)
  /-- OR (R149): bitwise or per enabled thread. -/
  | or (e : Enc)
  /-- XOR (R149): bitwise exclusive or per enabled thread. -/
  | xor (e : Enc)
  /-- NOT (R149): bitwise not per enabled thread. -/
  | not (e : Enc)
  /-- ANDN (R149): writes a and not b per enabled thread. -/
  | andn (e : Enc)
  /-- SHL (R149): shifts elements left, wrapping or saturating. -/
  | shl (e : Enc)
  /-- SHR (R149): shifts elements right as unsigned. -/
  | shr (e : Enc)
  /-- SAR (R149): shifts elements right as signed. -/
  | sar (e : Enc)
  /-- BFE (R150): extracts a bit field per thread as SBFE does. -/
  | bfe (e : Enc)
  /-- BFI (R150): inserts a bit field per thread; extended form only. -/
  | bfi (e : Enc)
  /-- POPC (R149): counts the ones of each thread's value. -/
  | popc (e : Enc)
  /-- CLZ (R149): counts the leading zeros of each thread's value. -/
  | clz (e : Enc)
  /-- CTZ (R149): counts the trailing zeros of each thread's value. -/
  | ctz (e : Enc)
  /-- BREV (R149): reverses the bits of each thread's value. -/
  | brev (e : Enc)
  /-- BPERM (R151): selects bytes of a and b by nibble selectors in c; extended form only. -/
  | bperm (e : Enc)
  /-- ICMP (R153): compares integers and writes a predicate per enabled thread. -/
  | icmp (e : Enc)
  /-- SEL (R154): writes a or b per thread according to predicate C; extended form only. -/
  | sel (e : Enc)
  /-- MOV (R155): writes source B to the destination per enabled thread. -/
  | mov (e : Enc)
  /-- DP4 (R152): adds the four-byte dot product to c, wrapping or saturating; extended form only. -/
  | dp4 (e : Enc)
  /-- XSET (R157): writes base and limit into an index register of the issuing split. -/
  | xset (e : Enc)
  /-- LDX (R158): reads a thread's own register at a per-thread index, trapping BOUNDS on a bad index. -/
  | ldx (e : Enc)
  /-- STX (R158): writes a thread's own register at a per-thread index, trapping BOUNDS on a bad index. -/
  | stx (e : Enc)
  /-- FADD (R159): adds FP32 values with one rounding. -/
  | fadd (e : Enc)
  /-- FSUB (R159): subtracts FP32 values with one rounding. -/
  | fsub (e : Enc)
  /-- FMUL (R159): multiplies FP32 values with one rounding. -/
  | fmul (e : Enc)
  /-- FFMA (R159): fused multiply-add in FP32 with one rounding; extended form only. -/
  | ffma (e : Enc)
  /-- FMIN (R160): writes the smaller FP32 operand, NaN rules applied. -/
  | fmin (e : Enc)
  /-- FMAX (R160): writes the larger FP32 operand, NaN rules applied. -/
  | fmax (e : Enc)
  /-- FCMP (R161): compares FP32 values and writes a predicate. -/
  | fcmp (e : Enc)
  /-- FCLASS (R162): writes a one-hot class mask of an FP32 value. -/
  | fclass (e : Enc)
  /-- FRND (R163): rounds an FP32 value to an integral value by the rounding mode. -/
  | frnd (e : Enc)
  /-- FSCL (R164): scales an FP32 value by a power of two and rounds once. -/
  | fscl (e : Enc)
  /-- FEXP (R165): writes floor of log2 of the magnitude as s32. -/
  | fexp (e : Enc)
  /-- FADDP (R159): adds packed 16-bit floating elements. -/
  | faddp (e : Enc)
  /-- FSUBP (R159): subtracts packed 16-bit floating elements. -/
  | fsubp (e : Enc)
  /-- FMULP (R159): multiplies packed 16-bit floating elements. -/
  | fmulp (e : Enc)
  /-- FFMAP (R159): fused multiply-add of packed 16-bit elements; extended form only. -/
  | ffmap (e : Enc)
  /-- FMINP (R160): writes the smaller of packed 16-bit floating elements. -/
  | fminp (e : Enc)
  /-- FMAXP (R160): writes the larger of packed 16-bit floating elements. -/
  | fmaxp (e : Enc)
  /-- FCMPP (R161): compares packed 16-bit elements and writes element masks. -/
  | fcmpp (e : Enc)
  /-- CVT (R166): converts between integer and floating types with packing by element ratio. -/
  | cvt (e : Enc)
  /-- PKMX (R167): packs a thread's share of an MX block with a given scale. -/
  | pkmx (e : Enc)
  /-- UPMX (R167): unpacks a thread's share of an MX block to FP32. -/
  | upmx (e : Enc)
  /-- PKQ4 (R168): packs eight values into Q4X slots with a given scale. -/
  | pkq4 (e : Enc)
  /-- UPQ4 (R168): decodes eight Q4X slots to FP32. -/
  | upq4 (e : Enc)
  /-- SFQ (R169): posts a special-function request per enabled thread under a token. -/
  | sfq (e : Enc)
  /-- WAITK (R172): blocks the split until the writes of a token, of loads, or of everything complete. -/
  | waitk (e : Enc)
  /-- SHFL (R175): moves values between threads of a segment by index, up, down or xor. -/
  | shfl (e : Enc)
  /-- VOTE (R176): writes one all, any or uniform predicate per segment. -/
  | vote (e : Enc)
  /-- BALLOT (R176): writes a scalar mask of contributing threads whose predicate is true. -/
  | ballot (e : Enc)
  /-- REDW (R177): reduces a segment in a fixed tree and gives the result to every contributor. -/
  | redw (e : Enc)
  /-- SCANW (R177): computes an inclusive or exclusive fixed-tree scan per segment. -/
  | scanw (e : Enc)
  /-- MATCH (R178): writes masks of threads holding equal bit patterns in the segment. -/
  | matchT (e : Enc)
  /-- MOVS (R179): writes a special value such as tid, lane, groupid, ptime or fpstat. -/
  | movs (e : Enc)
  /-- SADD (R138): adds scalars in the issuing split's copy. -/
  | sadd (e : Enc)
  /-- SSUB (R138): subtracts scalars. -/
  | ssub (e : Enc)
  /-- SMUL (R138): multiplies scalars, keeping the low half. -/
  | smul (e : Enc)
  /-- SMULH (R138): writes the high half of a scalar product. -/
  | smulh (e : Enc)
  /-- SAND (R138): scalar bitwise and. -/
  | sand (e : Enc)
  /-- SOR (R138): scalar bitwise or. -/
  | sor (e : Enc)
  /-- SXOR (R138): scalar bitwise exclusive or. -/
  | sxor (e : Enc)
  /-- SNOT (R138): scalar bitwise not. -/
  | snot (e : Enc)
  /-- SSHL (R138): scalar shift left. -/
  | sshl (e : Enc)
  /-- SSHR (R138): scalar logical shift right. -/
  | sshr (e : Enc)
  /-- SSAR (R138): scalar arithmetic shift right. -/
  | ssar (e : Enc)
  /-- SMIN (R138): scalar minimum. -/
  | smin (e : Enc)
  /-- SMAX (R138): scalar maximum. -/
  | smax (e : Enc)
  /-- SCMP (R139): compares scalars and writes one predicate into every active thread of the split. -/
  | scmp (e : Enc)
  /-- SSEL (R140): selects a scalar by a predicate true in any active thread. -/
  | ssel (e : Enc)
  /-- SMOV (R138): copies source B into a scalar register. -/
  | smov (e : Enc)
  /-- SBFE (R141): extracts a scalar bit field. -/
  | sbfe (e : Enc)
  /-- SPOPC (R138): scalar population count. -/
  | spopc (e : Enc)
  /-- SCLZ (R138): scalar count of leading zeros. -/
  | sclz (e : Enc)
  /-- SRDL (R142): reads one thread's vector register into the split's scalar copy. -/
  | srdl (e : Enc)
  /-- PAND (R143): predicate and per thread. -/
  | pand (e : Enc)
  /-- POR (R143): predicate or per thread. -/
  | por (e : Enc)
  /-- PXOR (R143): predicate exclusive or per thread. -/
  | pxor (e : Enc)
  /-- PNOT (R143): predicate not per thread. -/
  | pnot (e : Enc)
  /-- PMOV (R143): copies a predicate, or bits of a scalar, into a predicate per thread. -/
  | pmov (e : Enc)
  /-- SEGW (R144): sets the issuing split's segment width. -/
  | segw (e : Enc)
  /-- ACTM (R145): writes the split's active mask into a scalar register. -/
  | actm (e : Enc)
  /-- BRA (R130): transfers the split to its target. -/
  | bra (e : Enc)
  /-- BRC (R131): branches per thread, dividing the split or pushing a stack entry on divergence. -/
  | brc (e : Enc)
  /-- BRX (R130): transfers the split to the address in a scalar pair. -/
  | brx (e : Enc)
  /-- JOIN (R132): merges splits at this PC and waits in JWAIT while other splits run. -/
  | join (e : Enc)
  /-- CALL (R133): writes the return address into a scalar pair and transfers to the target. -/
  | call (e : Enc)
  /-- CALLX (R133): calls the address held in a scalar pair. -/
  | callx (e : Enc)
  /-- RET (R130): returns to the address in a scalar pair. -/
  | ret (e : Enc)
  /-- EXIT (R134): ends active threads of the split, ending splits and the wave when none remain. -/
  | exit (e : Enc)
  /-- YIELD (R135): ends the lane's greedy run for the split. -/
  | yield (e : Enc)
  /-- LOOP (R136): decrements a scalar counter and branches while it is non-zero. -/
  | loop (e : Enc)
  /-- TRAP (R339): raises cause TRAP with a code. -/
  | trap (e : Enc)
  /-- ERET (R339): ends the handler, restoring the trapped split and replaying for tmask when RPL is set. -/
  | eret (e : Enc)
  /-- BKPT (R339): raises cause BKPT with a code. -/
  | bkpt (e : Enc)
  /-- CSRRD (R339): reads a control register into a scalar register or pair. -/
  | csrrd (e : Enc)
  /-- CSRWR (R339): writes a scalar register or pair into a control register; supervisor only. -/
  | csrwr (e : Enc)
  /-- HALT (R340): completes and issues the context's PREEMPT; supervisor only. -/
  | halt (e : Enc)
  /-- LD (R209): loads bytes per enabled thread into v[D], pending until WAITK. -/
  | ld (e : Enc)
  /-- ST (R210): stores bytes per enabled thread, or multicasts in space grp. -/
  | st (e : Enc)
  /-- LDFE (R211): waits until granules are full, then reads and optionally empties them; extended form only. -/
  | ldfe (e : Enc)
  /-- STFE (R211): writes data and sets the touched granules full; extended form only. -/
  | stfe (e : Enc)
  /-- STN4 (R214): writes one nibble atomically at the home slice or scratchpad. -/
  | stn4 (e : Enc)
  /-- ATOM (R213): performs a read-modify-write per thread in ascending thread order and returns old values. -/
  | atom (e : Enc)
  /-- RED (R213): performs a read-modify-write per thread without a result. -/
  | red (e : Enc)
  /-- PREF (R216): prefetches lines by scope without trapping. -/
  | pref (e : Enc)
  /-- CINV (R216): drops lines from L1s, or host lines from the home slice at system scope. -/
  | cinv (e : Enc)
  /-- CWB (R216): writes home-slice data to memory at system scope. -/
  | cwb (e : Enc)
  /-- FENCE (R217): orders the thread's accesses as acquire, release or sc; extended form only. -/
  | fence (e : Enc)
  /-- FENCESC (R217): drains every memory operation of the wave and takes a place in S at a heartbeat tick; extended form only. -/
  | fencesc (e : Enc)
  /-- SLD (R215): loads into the split's scalar copy on behalf of the lowest enabled thread. -/
  | sld (e : Enc)
  /-- SST (R215): stores a scalar on behalf of the lowest enabled thread. -/
  | sst (e : Enc)
  /-- CPY (R227): checks a tensor copy block and posts the copy on a copy timeline. -/
  | cpy (e : Enc)
  /-- CPYQ (R228): posts a quantising copy that folds the source maximum into a word. -/
  | cpyq (e : Enc)
  /-- GATH (R229): posts one indexed element fetch per thread to a copy engine under a token. -/
  | gath (e : Enc)
  /-- TLWAIT (R230): blocks the split until a timeline's completed count reaches the target, as an acquire. -/
  | tlwait (e : Enc)
  /-- TLRD (R231): reads a timeline's posted or completed count into a scalar pair. -/
  | tlrd (e : Enc)
  /-- XLATE (R251): probes a translation without faulting. -/
  | xlate (e : Enc)
  /-- PHINT (R253): asks firmware to pin or unpin a page in the home slices. -/
  | phint (e : Enc)
  /-- TWFLUSH (R254): invalidates translations of a range of the context; privileged. -/
  | twflush (e : Enc)
  /-- ACQ (R272): requests the group's full allotment and waits for the grant. -/
  | acq (e : Enc)
  /-- GREL (R273): gives up registers of the wave and scratchpad of the group for good. -/
  | grel (e : Enc)
  /-- BINIT (R285): sets a barrier object up with an expected count and scope; extended form only. -/
  | binit (e : Enc)
  /-- BARV (R286): arrives at a barrier and continues; extended form only. -/
  | barv (e : Enc)
  /-- BWAIT (R286): waits for a barrier phase without arriving; extended form only. -/
  | bwait (e : Enc)
  /-- BARW (R286): arrives at a barrier and waits for the phase; extended form only. -/
  | barw (e : Enc)
  /-- BXPCT (R287): changes IN, OUT or EXP and HC of the current phase; extended form only. -/
  | bxpct (e : Enc)
  /-- BTEST (R289): tests a barrier's record, LATE or generation into a predicate; extended form only. -/
  | btest (e : Enc)
  /-- BDL (R288): sets the deadline of a barrier's current phase; extended form only. -/
  | bdl (e : Enc)
  /-- TNOW (R106): writes the PT at issue into a scalar pair. -/
  | tnow (e : Enc)
  /-- TWAIT (R107): blocks the split until a PT target is reached. -/
  | twait (e : Enc)
  /-- SETDL (R108): sets the wave's deadline and class, limited to the launch class. -/
  | setdl (e : Enc)
  /-- DLGET (R108): reads the wave's deadline or effective class. -/
  | dlget (e : Enc)
  /-- MPOST (R348): team instruction that posts a matrix task accumulating A times B into a tile. -/
  | mpost (e : Enc)
  /-- ACLR (R360): team task that clears an accumulator tile. -/
  | aclr (e : Enc)
  /-- ACLD (R360): team task that loads a tile from an FP32 scratchpad image. -/
  | acld (e : Enc)
  /-- ACST (R360): team task that stores a tile to scratchpad, rounded to a format. -/
  | acst (e : Enc)
  /-- MSTAT (R362): reads a matrix task's state and engine flags, or its progress. -/
  | mstat (e : Enc)
  /-- MCNCL (R363): cancels a matrix task of the issuing wave's team. -/
  | mcncl (e : Enc)
  /-- SEEDSCAN (R372): posts an engine task that scores 16 seeds against a target column. -/
  | seedscan (e : Enc)
  /-- SEEDGEN (R374): posts an engine task that materialises a seeded weight tile. -/
  | seedgen (e : Enc)
  /-- RSVI (R379): clears a reservoir per enabled thread. -/
  | rsvi (e : Enc)
  /-- RSVU (R380): offers one weighted candidate to a reservoir with an exact acceptance test. -/
  | rsvu (e : Enc)
  /-- RSVM (R381): merges a source reservoir into a destination reservoir. -/
  | rsvm (e : Enc)
  /-- RSVF (R382): writes a reservoir's contribution weight. -/
  | rsvf (e : Enc)
  /-- RSVGET (R383): copies a reservoir's four words to vector registers. -/
  | rsvget (e : Enc)
  /-- RSVSET (R383): copies four vector registers into a reservoir. -/
  | rsvset (e : Enc)
  /-- TRACE (R391): sends one ray per enabled thread to the ray/beam unit under a token. -/
  | trace (e : Enc)
  /-- BEAM (R394): posts a task that resolves the 64 pixel-centre rays of an 8x8 tile. -/
  | beam (e : Enc)
  /-- HITLD (R396): reads one hit record per thread from the own scratchpad. -/
  | hitld (e : Enc)
  /-- PXL (R407): reads one pixel per thread, decoded to FP16, waiting for its line or the deadline. -/
  | pxl (e : Enc)
  /-- PXS (R408): writes one pixel per thread into the current transmit frame. -/
  | pxs (e : Enc)
  /-- FRMACQ (R409): makes a descriptor the current frame of a stream register and returns its state. -/
  | frmacq (e : Enc)
  /-- FPRES (R410): presents the current transmit frame of a stream register, taking a tl6 number. -/
  | fpres (e : Enc)
  /-- FRMST (R411): reads the state, lines or PT of the current frame. -/
  | frmst (e : Enc)
  /-- QPOST (R320): sends a queue command as a release; extended form only. -/
  | qpost (e : Enc)
  /-- QWAIT (R321): blocks the split until a queue's state or completion count meets the condition. -/
  | qwait (e : Enc)
  /-- QSTAT (R322): reads a snapshot of a queue's state, indices or error slot. -/
  | qstat (e : Enc)
  /-- KSTAT (R301): reads a kernel's state, done or shed counts live or from its completion record. -/
  | kstat (e : Enc)
  /-- RWR (R422): writes to a peer's aperture over a link; extended form only. -/
  | rwr (e : Enc)
  /-- RRD (R423): reads from a peer's aperture over a link; extended form only. -/
  | rrd (e : Enc)
  /-- RWRF (R422): flagged write that releases earlier link operations and bumps the completion count; extended form only. -/
  | rwrf (e : Enc)
  /-- RATM (R424): atomic add at the peer returning the old value; extended form only. -/
  | ratm (e : Enc)
  /-- LRED (R425): sends MXFP8 blocks to be added into FP32 addends at the peer; extended form only. -/
  | lred (e : Enc)
  /-- RDVA (R436): arrives at a rendezvous with a transmit frame for its instant. -/
  | rdva (e : Enc)
  /-- RDVW (R437): reads one word of a rendezvous record. -/
  | rdvw (e : Enc)
  /-- LSTAT (R428): reads a link's state, retransmissions, completion count or peer. -/
  | lstat (e : Enc)
  /-- UNASSIGNED_OPCODE (R58): an instruction whose OP is one of the 80 unassigned values traps ILLEGAL in every form, with its length still taken from LEN. -/
  | unassignedOpcode (op : BitVec 8) (len : BitVec 2)
  /-- HOME_SLICE_PERFORM (R187): A store or read-modify-write performs at its line's home slice, target scratchpad or host. -/
  | homeSlicePerform (seq : Nat)
  /-- LOAD_RETURN (R209): data of an issued load returns and is written to its destination. -/
  | loadReturn (w seq : Nat) (threads : Word)
  /-- SFQ_REQUEST_COMPLETE (R170): A special-function request completes, writing its result and flags. -/
  | sfqRequestComplete (w seq thread : Nat)
  /-- LDFE_SERVE (R211): A waiting LDFE finds its granules full and reads, emptying them under clear. -/
  | ldfeServe (w sp : Nat)
  /-- SC_DRAIN_DONE (R198): the operations covered by an sc operation are performed and it begins waiting for the next tick. -/
  | scDrainDone (w sp : Nat)
  /-- DEVICE_HEARTBEAT_TICK (R101): every 64 arithmetic clocks the device heartbeat ticks and orders waiting sc operations. -/
  | deviceHeartbeatTick
  /-- PT_TICK (R101): at each PT multiple of 1,000 ns the system and fabric heartbeat ticks. -/
  | ptTick
  /-- TWAIT_RELEASE (R107): PT reaches a TWAIT target and the split becomes ready within 100 ns. -/
  | twaitRelease (w sp : Nat)
  /-- GATH_RETURN (R229): A gather's elements return and its token completes or traps at WAITK. -/
  | gathReturn (w seq : Nat)
  /-- COPY_OPERATION_COMPLETE (R221): A copy-engine operation finishes or fails, advancing completed and any named barrier count. -/
  | copyOperationComplete (op : Nat)
  /-- REGWIN_HELD_WRITE (R224): A copy's held register-window write performs once the target wave is halted, parked, in a handler or waiting. -/
  | regwinHeldWrite (op : Nat)
  /-- BARRIER_DEADLINE (R280): PT reaches a barrier phase's deadline and the phase completes late. -/
  | barrierDeadline (g b : Nat)
  /-- FAULT_RECORD_DEFERRED (R242): A record waiting on a full ring is written once its slot has been answered. -/
  | faultRecordDeferred (slot : Nat)
  /-- PRI_REQUEST_RELEASE (R245): A page request waiting for the host's allocation is sent when room frees. -/
  | priRequestRelease
  /-- INVALIDATION_COMPLETE (R246): once accesses using old translations are performed, the invalidation completes. -/
  | invalidationComplete (id : Nat)
  /-- CONVOY_RESERVE (R264): the distributor selects the next convoy and reserves its members on an eligible place. -/
  | convoyReserve (part : Nat)
  /-- ACQ_GRANT (R259): A queued allotment request is granted when every pool has room, raising the group to its targets. -/
  | acqGrant (core : Nat)
  /-- GREL_COMPLETE (R273): GREL's waits end and registers or scratchpad are released. -/
  | grelComplete (w sp : Nat)
  /-- CONVOY_RETIRE (R263): the last member is DONE with no scratchpad access outstanding and the convoy retires. -/
  | convoyRetire (c : Nat)
  /-- PARAMETER_READ (R295): the parameter block is read once when the kernel's hazards clear. -/
  | parameterRead (k : Nat)
  /-- KERNEL_FINISH (R300): A DRAINING kernel with no engine operations left applies DET effects and writes its record. -/
  | kernelFinish (k : Nat)
  /-- PACKET_DISPATCH (R309): the command processor accepts the head header, checks the packet, enters its ranges and advances RDIDX. -/
  | packetDispatch (q : Nat)
  /-- PACKET_LAUNCH (R306): A LAUNCH packet creates a kernel in PENDING. -/
  | packetLaunch (q index : Nat)
  /-- PACKET_COPY (R306): A COPY packet starts a copy-engine copy of LEN bytes. -/
  | packetCopy (q index : Nat)
  /-- COPY_PACKET_COMPLETE (R306): every byte of a COPY packet is performed at system scope, or it fails with cause 6. -/
  | copyPacketComplete (op : Nat)
  /-- PACKET_SIGNAL (R306): A SIGNAL stores or adds a value as a system-scope release and may raise the queue interrupt. -/
  | packetSignal (q index : Nat)
  /-- PACKET_WAIT (R309): A WAIT holds dispatch of the queue until its condition holds. -/
  | packetWait (q index : Nat)
  /-- WAIT_CONDITION_MET (R309): A dispatched WAIT's condition holds and it completes as an acquire. -/
  | waitConditionMet (q : Nat)
  /-- FRAME_ARM (R404): A FRAME arm packet reads the descriptor and arms the frame, or refuses it. -/
  | frameArm (q index : Nat)
  /-- FRAME_PRESENT (R404): A FRAME present packet acts as FPRES on the frame. -/
  | framePresent (q index : Nat)
  /-- PACKET_RDV (R436): an RDV packet arrives at a rendezvous with a frame. -/
  | packetRdv (q index : Nat)
  /-- HEAD_HEADER_TIMEOUT (R318): A head header unaccepted for 10 us makes an ACTIVE queue evictable. -/
  | headHeaderTimeout (q : Nat)
  /-- QUEUE_EVICT (R318): firmware evicts the least recently used eligible queue context and writes its descriptor back. -/
  | queueEvict (q : Nat)
  /-- QUEUE_RELOAD (R318): A parked queue context is reloaded and held commands and packets are applied in order. -/
  | queueReload (q : Nat)
  /-- PARTITION_HALTED (R327): every core of the partition has halted and the context is HALTED or FAULTED. -/
  | partitionHalted (slot : Nat)
  /-- HAMPER_EXCHANGE_COMPLETE (R329): the core and engine images have moved and the swap command reaches its next state. -/
  | hamperExchangeComplete (slot : Nat)
  /-- HAMPER_IMAGE_DISPLACE (R330): firmware moves another context's hamper image to GDDR7 in the background. -/
  | hamperImageDisplace (slot : Nat)
  /-- ROLL_CALL_FULL_SERVE (R343): A table entry frees and the oldest full roll call enters its task. -/
  | rollCallFullServe (cl : Nat)
  /-- TILE_BIND (R346): once 2n tiles are free, the engine binds them to a team's first task. -/
  | tileBind (cl : Nat)
  /-- MATRIX_PASS (R347): the arbiter grants a pass to one eligible engine task and begins its next step. -/
  | matrixPass (cl : Nat)
  /-- MATRIX_STEP_COMPLETE (R345): A k-step completes, PROG advances, and a finished task leaves posting flags and tl4 completion. -/
  | matrixStepComplete (cl : Nat)
  /-- MATRIX_CLASS_OWED (R347): A class waiting 64 passes without a grant is owed the next pass. -/
  | matrixClassOwed (cl cls : Nat)
  /-- MATRIX_OPERAND_AVAILABLE (R355): A parked task's operand becomes available and the task returns to QUEUED. -/
  | matrixOperandAvailable (cl task : Nat)
  /-- RAY_COMPLETE (R392): A traced ray finishes and its hit record is written under its token. -/
  | rayComplete (w seq thread : Nat)
  /-- BEAM_COMPLETE (R395): all 64 rays of a beam finish and the records are written, or the task fails. -/
  | beamComplete (op : Nat)
  /-- FRAME_DEADLINE (R401): PT reaches a FILLING frame's deadline and it becomes LATE. -/
  | frameDeadline (f : Nat)
  /-- FRAME_PRESENTATION (R401): PT reaches a transmit frame's PT and transmission of the buffer or substitute begins. -/
  | framePresentation (f : Nat)
  /-- RTP_PACKET_TRANSMIT (R403): the port sends the next packet of a presenting frame as its sender type requires. -/
  | rtpPacketTransmit (f : Nat)
  /-- PXL_RETURN (R407): A waiting pixel read finds its MAP bit set or the frame LATE and returns data or substitute. -/
  | pxlReturn (w seq thread : Nat)
  /-- FPRES_APPLY (R410): the frame engine applies a present, marking the frame COMPLETE or counting LATEP. -/
  | fpresApply (id : Nat)
  /-- RDV_GUARD (R431): at T minus guard a rendezvous instant becomes READY, LATE or ABSENT and sends ready messages. -/
  | rdvGuard (r : Nat)
  /-- RDV_HALF_GUARD (R431): at T minus half the guard the instant goes to GO or HELD. -/
  | rdvHalfGuard (r : Nat)
  /-- RDV_INSTANT (R431): at T the instant presents, measures departure and sends reports. -/
  | rdvInstant (r : Nat) (doff : Int)
  /-- RDV_RECORD_DEADLINE (R431): at T plus one period the record is written with the reports received. -/
  | rdvRecordDeadline (r : Nat)
  /-- BACKWARD_STEP (R99): A staged PT target is applied once no context of any partition is RUNNING or HALTING. -/
  | backwardStep
  /-- SECTOR_OWED_ISSUE (R126): A class's starvation count in a sector reaches 64 and the sector owes it an issue. -/
  | sectorOwedIssue (core sector cls : Nat)
  /-- ROTATION_LIMIT (R127): A split reaching 256 consecutive issues is marked to rank last in its class. -/
  | rotationLimit (w sp : Nat)
  /-- WAVE_FREE (R113): an EXITED wave whose outstanding variable-latency writes are complete becomes EMPTY and frees its registers and slot. -/
  | waveFree (w : Nat)
  /-- CONTEXT_PREEMPT (R327): starts pre-emption, halting every core of the partition within 0.15 us. -/
  | contextPreempt (slot : Nat)
  /-- QUEUE_DOORBELL (R310): raises WRIDX or puts the queue in ERROR when beyond the ring. -/
  | queueDoorbell (q index : Nat)
  /-- MIGRATION_COMMIT (R249): after copying, firmware swaps the leaf by compare-and-swap or abandons the migration. -/
  | migrationCommit (slot va : Nat)
  /-- PTP_ANNOUNCE (R96): A PTP Announce on an enabled port runs best-master selection and may move the timebase to ACQUIRING. -/
  | ptpAnnounce (port : Nat) (selected : Bool)
  /-- ONE_PPS_EDGE (R96): an edge on the enabled 1PPS input selects it as source or serves as a Sync measurement. -/
  | onePpsEdge
  /-- SYNC_MEASUREMENT (R96): A Sync measurement updates the servo and moves the timebase among its states. -/
  | syncMeasurement (offset : Int)
  /-- ANNOUNCE_TIMEOUT (R96): three announce intervals, or three seconds without a 1PPS edge, move the timebase to FREERUN or HOLDOVER. -/
  | announceTimeout
  /-- PTSET_WRITE (R99): A write to ptset stages, replaces or withdraws a software PT target. -/
  | ptsetWrite (v : DWord)
  /-- PTPEN_WRITE (R96): A write to ptpen enables or disables PTP, 1PPS and 10 MHz inputs, and disabling all returns the timebase to FREERUN. -/
  | ptpenWrite (v : DWord)
  /-- FAULT_RESPONSE_RETRY (R243): A RETRY response makes every agent parked on the record replay. -/
  | faultResponseRetry (slot seq : Nat)
  /-- FAULT_RESPONSE_FAIL (R243): A FAIL response makes parked waves trap PAGE and parked engine operations fail. -/
  | faultResponseFail (slot seq : Nat)
  /-- ATS_TRANSLATION_COMPLETION (R244): an ATS completion returns and is cached, or denies the access kind. -/
  | atsTranslationCompletion (slot va : Nat) (ans : AtsAnswer)
  /-- PRG_RESPONSE_SUCCESS (R245): the device retranslates and the parked agents replay. -/
  | prgResponseSuccess (slot va : Nat)
  /-- PRG_RESPONSE_INVALID_REQUEST (R245): the parked agents trap or fail with PAGE. -/
  | prgResponseInvalidRequest (slot va : Nat)
  /-- PRG_RESPONSE_FAILURE (R245): all outstanding page requests are abandoned and later ones fail until PRI is re-enabled. -/
  | prgResponseFailure (slot va : Nat)
  /-- PRI_REENABLE (R245): the host clears and sets PRI Enable, and page requests are sent again. -/
  | priReenable (alloc : Nat)
  /-- ATS_INVALIDATE_REQUEST (R246): an ATS Invalidate Request drops cached translations of a range. -/
  | atsInvalidateRequest (slot va len : Nat)
  /-- INVALIDATION_START (R440): A write of 1 to ivgo starts the device-table invalidation of a range. -/
  | invalidationStart (slot : Nat)
  /-- MIGRATION_START (R249): firmware starts migrating an unpinned page, which enters MIGRATING. -/
  | migrationStart (slot va frame : Nat)
  /-- PLACEMENT_EPOCH (R248): at the end of a counter pool's epoch firmware promotes or demotes pages. -/
  | placementEpoch (pool : Nat)
  /-- QUEUE_RESUME (R310): in ERROR or DISABLED, completes skipped packets as NOPs and resumes dispatch at a new read index. -/
  | queueResume (q index : Nat)
  /-- QUEUE_DISABLE (R310): the queue enters DISABLED and stops dispatching. -/
  | queueDisable (q : Nat)
  /-- QUEUE_BIND (R439): A qbind write with bit 31 clear binds a queue from its descriptor. -/
  | queueBind (v : DWord)
  /-- QUEUE_UNBIND (R439): A qbind write with bit 31 set unbinds a queue after writing its state back. -/
  | queueUnbind (v : DWord)
  /-- CONTEXT_LOAD (R325): loads a context slot from a 128-byte descriptor, or refuses with FORMAT. -/
  | contextLoad (slot : Nat)
  /-- CONTEXT_RUN (R325): runs a LOADED context in a free partition. -/
  | contextRun (slot : Nat)
  /-- CONTEXT_SWAPOUT (R329): exchanges a HALTED or FAULTED context out to the hampers. -/
  | contextSwapout (slot : Nat)
  /-- CONTEXT_RESUME (R328): resumes a HALTED, FAULTED or SWAPPED context, handling passed deadlines first. -/
  | contextResume (slot : Nat)
  /-- CONTEXT_SWITCH (R325): halts the running context and exchanges it out while a swapped context comes in. -/
  | contextSwitch (slot b : Nat)
  /-- CONTEXT_TERMINATE (R325): discards the context's waves, groups, kernels and requests and disables its queues. -/
  | contextTerminate (slot : Nat)
  /-- CONTEXT_UNLOAD (R325): frees a TERMINATED or LOADED slot. -/
  | contextUnload (slot : Nat)
  /-- RTP_PACKET_RECEIVE (R403): A received packet is attached to a frame, merged across paths and stored, setting arrival bits. -/
  | rtpPacketReceive (flow : Nat) (pkt : RtpPacket)
  /-- FLOW_ENABLE (R442): A write of EN 1 takes the flow configuration and starts the flow. -/
  | flowEnable (flow : Nat) (v : Word)
  /-- FLOW_DISABLE (R442): A write of EN 0 stops the flow. -/
  | flowDisable (flow : Nat) (v : Word)
  /-- LINK_ENABLE (R443): in DOWN, starts training with a handshake to the peer. -/
  | linkEnable (l : Nat)
  /-- LINK_DRAIN (R443): in UP or DEGRADED, enters DRAIN so new posts fail. -/
  | linkDrain (l : Nat)
  /-- LINK_RESET (R443): in FAILED, discards the replay window and returns to DOWN. -/
  | linkReset (l : Nat)
  /-- LINK_HANDSHAKE (R413): A handshake answer that matches brings the link UP and learns the peer aperture. -/
  | linkHandshake (l : Nat) (ans : LinkAnswer)
  /-- LINK_DEGRADE (R413): the retransmission rate over 1 ms or a fallback rate moves the link to DEGRADED. -/
  | linkDegrade (l : Nat)
  /-- LINK_RECOVER (R413): 1 ms of low retransmission at full rate returns the link to UP. -/
  | linkRecover (l : Nat)
  /-- PORT_DOWN (R413): A port going down fails its links and affects the timebase's grandmaster link. -/
  | portDown (p : Nat)
  /-- NRA_RETRANSMIT (R415): A missing acknowledgement retransmits an operation, failing the link after 16. -/
  | nraRetransmit (l seq : Nat)
  /-- NRA_OPERATION_RECEIVE (R416): an incoming operation is checked against the replay window and performed at most once. -/
  | nraOperationReceive (l : Nat) (op : NraOp)
  /-- NRA_ACK (R415): an acknowledgement completes operations and frees the send window. -/
  | nraAck (l seq : Nat)
  /-- NRA_RECEIVER_NOT_READY (R415): the sender retries an operation that the target could not accept. -/
  | nraReceiverNotReady (l seq : Nat)
  /-- NRA_FINAL_NACK (R418): an operation fails with REMOTE at the origin. -/
  | nraFinalNack (l seq : Nat)
  /-- NRA_READ_RESPONSE (R420): an RRD or RATM result arrives and is written, or held while the wave is halted. -/
  | nraReadResponse (l seq : Nat) (data : List DWord)
  /-- RDV_READY_MESSAGE (R431): A COHERENT ready message from a member is recorded. -/
  | rdvReadyMessage (r inst member : Nat)
  /-- RDV_REPORT (R435): A member's report arrives and, when all have, the record is written. -/
  | rdvReport (r inst member : Nat) (rep : RdvReport)
  /-- RDV_DETACH (R440): A write to rdvdet stops a rendezvous after its current instant. -/
  | rdvDetach (slot va : Nat)
  /-- PARTN_WRITE (R439): sets the partition count while no context runs, halts or faults. -/
  | partnWrite (v : DWord)
  /-- PWRCAP_WRITE (R449): sets the module power limit. -/
  | pwrcapWrite (v : DWord)
  /-- CLOCK_ADJUST (R449): the device lowers or raises the arithmetic clock in steps to keep within the limit. -/
  | clockAdjust (mhz : Nat)
  /-- STGLEN_WRITE (R445): writing the staged length starts verification of a staged firmware image. -/
  | stglenWrite (v : DWord)
  /-- BCLR_WRITE (R446): clears every failure count and fallback level in the boot record. -/
  | bclrWrite (v : DWord)
  /-- ATTN_WRITE (R447): requests an attestation report signed by the identity key. -/
  | attnWrite (v : DWord)
  /-- RWDATA_READ (R440): A read of rwdata makes a register-window load at rwaddr. -/
  | rwdataRead (slot size : Nat)
  /-- RWDATA_WRITE (R440): A write of rwdata makes a register-window store at rwaddr. -/
  | rwdataWrite (slot size : Nat) (v : DWord)
  /-- APERTURE_READ (R444): reads device memory through the aperture after earlier writes are performed. -/
  | apertureRead (off size : Nat)
  /-- APERTURE_WRITE (R444): writes device memory through the aperture in arrival order. -/
  | apertureWrite (off size : Nat) (v : DWord)
  /-- REGISTER_WRITE (R438): A write to a function register without behaviour of its own stores its value. -/
  | registerWrite (off size : Nat) (v : DWord)
  /-- POWER_UP (R446): at power-up or reset the boot ROM runs bring-up steps with recorded fallbacks. -/
  | powerUp (outcomes : List StepOutcome)
  /-- D3HOT_ENTRY (R448): firmware pre-empts running contexts, GDDR7 self-refreshes and ports go down. -/
  | d3hotEntry
  /-- D0_RETURN (R448): return to D0 leaves contexts HALTED until RESUME. -/
  | d0Return
  /-- POWER_LOSS (R448): D3cold or loss of main power loses all state but flash. -/
  | powerLoss
  /-- PORT_UP (R413): an Ethernet port comes up, which lets a link ENABLE proceed and PTP Announce and Sync traffic reach the timebase again. -/
  | portUp (p : Nat)
  /-- ATTESTATION_REPORT_READY (R447): the signed attestation report is complete in report, and attn reads 0 again. -/
  | attestationReportReady (answer : DWord)
  /-- IMAGE_VERIFICATION_DONE (R445): verification of a staged firmware image ends: a failing image leaves phase 1, and a passing image runs or is written to flash for the next reset. -/
  | imageVerificationDone (pass : Bool)
  deriving DecidableEq, Repr

/-- The instruction of an opcode with given fields. -/
def Instr.ofOp (e : Enc) : Op → Instr
  | .nop => .nop e
  | .iadd => .iadd e
  | .isub => .isub e
  | .imul => .imul e
  | .imulh => .imulh e
  | .imad => .imad e
  | .imin => .imin e
  | .imax => .imax e
  | .iabs => .iabs e
  | .ineg => .ineg e
  | .and => .and e
  | .or => .or e
  | .xor => .xor e
  | .not => .not e
  | .andn => .andn e
  | .shl => .shl e
  | .shr => .shr e
  | .sar => .sar e
  | .bfe => .bfe e
  | .bfi => .bfi e
  | .popc => .popc e
  | .clz => .clz e
  | .ctz => .ctz e
  | .brev => .brev e
  | .bperm => .bperm e
  | .icmp => .icmp e
  | .sel => .sel e
  | .mov => .mov e
  | .dp4 => .dp4 e
  | .xset => .xset e
  | .ldx => .ldx e
  | .stx => .stx e
  | .fadd => .fadd e
  | .fsub => .fsub e
  | .fmul => .fmul e
  | .ffma => .ffma e
  | .fmin => .fmin e
  | .fmax => .fmax e
  | .fcmp => .fcmp e
  | .fclass => .fclass e
  | .frnd => .frnd e
  | .fscl => .fscl e
  | .fexp => .fexp e
  | .faddp => .faddp e
  | .fsubp => .fsubp e
  | .fmulp => .fmulp e
  | .ffmap => .ffmap e
  | .fminp => .fminp e
  | .fmaxp => .fmaxp e
  | .fcmpp => .fcmpp e
  | .cvt => .cvt e
  | .pkmx => .pkmx e
  | .upmx => .upmx e
  | .pkq4 => .pkq4 e
  | .upq4 => .upq4 e
  | .sfq => .sfq e
  | .waitk => .waitk e
  | .shfl => .shfl e
  | .vote => .vote e
  | .ballot => .ballot e
  | .redw => .redw e
  | .scanw => .scanw e
  | .matchT => .matchT e
  | .movs => .movs e
  | .sadd => .sadd e
  | .ssub => .ssub e
  | .smul => .smul e
  | .smulh => .smulh e
  | .sand => .sand e
  | .sor => .sor e
  | .sxor => .sxor e
  | .snot => .snot e
  | .sshl => .sshl e
  | .sshr => .sshr e
  | .ssar => .ssar e
  | .smin => .smin e
  | .smax => .smax e
  | .scmp => .scmp e
  | .ssel => .ssel e
  | .smov => .smov e
  | .sbfe => .sbfe e
  | .spopc => .spopc e
  | .sclz => .sclz e
  | .srdl => .srdl e
  | .pand => .pand e
  | .por => .por e
  | .pxor => .pxor e
  | .pnot => .pnot e
  | .pmov => .pmov e
  | .segw => .segw e
  | .actm => .actm e
  | .bra => .bra e
  | .brc => .brc e
  | .brx => .brx e
  | .join => .join e
  | .call => .call e
  | .callx => .callx e
  | .ret => .ret e
  | .exit => .exit e
  | .yield => .yield e
  | .loop => .loop e
  | .trap => .trap e
  | .eret => .eret e
  | .bkpt => .bkpt e
  | .csrrd => .csrrd e
  | .csrwr => .csrwr e
  | .halt => .halt e
  | .ld => .ld e
  | .st => .st e
  | .ldfe => .ldfe e
  | .stfe => .stfe e
  | .stn4 => .stn4 e
  | .atom => .atom e
  | .red => .red e
  | .pref => .pref e
  | .cinv => .cinv e
  | .cwb => .cwb e
  | .fence => .fence e
  | .fencesc => .fencesc e
  | .sld => .sld e
  | .sst => .sst e
  | .cpy => .cpy e
  | .cpyq => .cpyq e
  | .gath => .gath e
  | .tlwait => .tlwait e
  | .tlrd => .tlrd e
  | .xlate => .xlate e
  | .phint => .phint e
  | .twflush => .twflush e
  | .acq => .acq e
  | .grel => .grel e
  | .binit => .binit e
  | .barv => .barv e
  | .bwait => .bwait e
  | .barw => .barw e
  | .bxpct => .bxpct e
  | .btest => .btest e
  | .bdl => .bdl e
  | .tnow => .tnow e
  | .twait => .twait e
  | .setdl => .setdl e
  | .dlget => .dlget e
  | .mpost => .mpost e
  | .aclr => .aclr e
  | .acld => .acld e
  | .acst => .acst e
  | .mstat => .mstat e
  | .mcncl => .mcncl e
  | .seedscan => .seedscan e
  | .seedgen => .seedgen e
  | .rsvi => .rsvi e
  | .rsvu => .rsvu e
  | .rsvm => .rsvm e
  | .rsvf => .rsvf e
  | .rsvget => .rsvget e
  | .rsvset => .rsvset e
  | .trace => .trace e
  | .beam => .beam e
  | .hitld => .hitld e
  | .pxl => .pxl e
  | .pxs => .pxs e
  | .frmacq => .frmacq e
  | .fpres => .fpres e
  | .frmst => .frmst e
  | .qpost => .qpost e
  | .qwait => .qwait e
  | .qstat => .qstat e
  | .kstat => .kstat e
  | .rwr => .rwr e
  | .rrd => .rrd e
  | .rwrf => .rwrf e
  | .ratm => .ratm e
  | .lred => .lred e
  | .rdva => .rdva e
  | .rdvw => .rdvw e
  | .lstat => .lstat e

/-- The opcode and fields of an instruction opcode's constructor; none for the others. -/
def Instr.parts : Instr → Option (Op × Enc)
  | .nop e => some (.nop, e)
  | .iadd e => some (.iadd, e)
  | .isub e => some (.isub, e)
  | .imul e => some (.imul, e)
  | .imulh e => some (.imulh, e)
  | .imad e => some (.imad, e)
  | .imin e => some (.imin, e)
  | .imax e => some (.imax, e)
  | .iabs e => some (.iabs, e)
  | .ineg e => some (.ineg, e)
  | .and e => some (.and, e)
  | .or e => some (.or, e)
  | .xor e => some (.xor, e)
  | .not e => some (.not, e)
  | .andn e => some (.andn, e)
  | .shl e => some (.shl, e)
  | .shr e => some (.shr, e)
  | .sar e => some (.sar, e)
  | .bfe e => some (.bfe, e)
  | .bfi e => some (.bfi, e)
  | .popc e => some (.popc, e)
  | .clz e => some (.clz, e)
  | .ctz e => some (.ctz, e)
  | .brev e => some (.brev, e)
  | .bperm e => some (.bperm, e)
  | .icmp e => some (.icmp, e)
  | .sel e => some (.sel, e)
  | .mov e => some (.mov, e)
  | .dp4 e => some (.dp4, e)
  | .xset e => some (.xset, e)
  | .ldx e => some (.ldx, e)
  | .stx e => some (.stx, e)
  | .fadd e => some (.fadd, e)
  | .fsub e => some (.fsub, e)
  | .fmul e => some (.fmul, e)
  | .ffma e => some (.ffma, e)
  | .fmin e => some (.fmin, e)
  | .fmax e => some (.fmax, e)
  | .fcmp e => some (.fcmp, e)
  | .fclass e => some (.fclass, e)
  | .frnd e => some (.frnd, e)
  | .fscl e => some (.fscl, e)
  | .fexp e => some (.fexp, e)
  | .faddp e => some (.faddp, e)
  | .fsubp e => some (.fsubp, e)
  | .fmulp e => some (.fmulp, e)
  | .ffmap e => some (.ffmap, e)
  | .fminp e => some (.fminp, e)
  | .fmaxp e => some (.fmaxp, e)
  | .fcmpp e => some (.fcmpp, e)
  | .cvt e => some (.cvt, e)
  | .pkmx e => some (.pkmx, e)
  | .upmx e => some (.upmx, e)
  | .pkq4 e => some (.pkq4, e)
  | .upq4 e => some (.upq4, e)
  | .sfq e => some (.sfq, e)
  | .waitk e => some (.waitk, e)
  | .shfl e => some (.shfl, e)
  | .vote e => some (.vote, e)
  | .ballot e => some (.ballot, e)
  | .redw e => some (.redw, e)
  | .scanw e => some (.scanw, e)
  | .matchT e => some (.matchT, e)
  | .movs e => some (.movs, e)
  | .sadd e => some (.sadd, e)
  | .ssub e => some (.ssub, e)
  | .smul e => some (.smul, e)
  | .smulh e => some (.smulh, e)
  | .sand e => some (.sand, e)
  | .sor e => some (.sor, e)
  | .sxor e => some (.sxor, e)
  | .snot e => some (.snot, e)
  | .sshl e => some (.sshl, e)
  | .sshr e => some (.sshr, e)
  | .ssar e => some (.ssar, e)
  | .smin e => some (.smin, e)
  | .smax e => some (.smax, e)
  | .scmp e => some (.scmp, e)
  | .ssel e => some (.ssel, e)
  | .smov e => some (.smov, e)
  | .sbfe e => some (.sbfe, e)
  | .spopc e => some (.spopc, e)
  | .sclz e => some (.sclz, e)
  | .srdl e => some (.srdl, e)
  | .pand e => some (.pand, e)
  | .por e => some (.por, e)
  | .pxor e => some (.pxor, e)
  | .pnot e => some (.pnot, e)
  | .pmov e => some (.pmov, e)
  | .segw e => some (.segw, e)
  | .actm e => some (.actm, e)
  | .bra e => some (.bra, e)
  | .brc e => some (.brc, e)
  | .brx e => some (.brx, e)
  | .join e => some (.join, e)
  | .call e => some (.call, e)
  | .callx e => some (.callx, e)
  | .ret e => some (.ret, e)
  | .exit e => some (.exit, e)
  | .yield e => some (.yield, e)
  | .loop e => some (.loop, e)
  | .trap e => some (.trap, e)
  | .eret e => some (.eret, e)
  | .bkpt e => some (.bkpt, e)
  | .csrrd e => some (.csrrd, e)
  | .csrwr e => some (.csrwr, e)
  | .halt e => some (.halt, e)
  | .ld e => some (.ld, e)
  | .st e => some (.st, e)
  | .ldfe e => some (.ldfe, e)
  | .stfe e => some (.stfe, e)
  | .stn4 e => some (.stn4, e)
  | .atom e => some (.atom, e)
  | .red e => some (.red, e)
  | .pref e => some (.pref, e)
  | .cinv e => some (.cinv, e)
  | .cwb e => some (.cwb, e)
  | .fence e => some (.fence, e)
  | .fencesc e => some (.fencesc, e)
  | .sld e => some (.sld, e)
  | .sst e => some (.sst, e)
  | .cpy e => some (.cpy, e)
  | .cpyq e => some (.cpyq, e)
  | .gath e => some (.gath, e)
  | .tlwait e => some (.tlwait, e)
  | .tlrd e => some (.tlrd, e)
  | .xlate e => some (.xlate, e)
  | .phint e => some (.phint, e)
  | .twflush e => some (.twflush, e)
  | .acq e => some (.acq, e)
  | .grel e => some (.grel, e)
  | .binit e => some (.binit, e)
  | .barv e => some (.barv, e)
  | .bwait e => some (.bwait, e)
  | .barw e => some (.barw, e)
  | .bxpct e => some (.bxpct, e)
  | .btest e => some (.btest, e)
  | .bdl e => some (.bdl, e)
  | .tnow e => some (.tnow, e)
  | .twait e => some (.twait, e)
  | .setdl e => some (.setdl, e)
  | .dlget e => some (.dlget, e)
  | .mpost e => some (.mpost, e)
  | .aclr e => some (.aclr, e)
  | .acld e => some (.acld, e)
  | .acst e => some (.acst, e)
  | .mstat e => some (.mstat, e)
  | .mcncl e => some (.mcncl, e)
  | .seedscan e => some (.seedscan, e)
  | .seedgen e => some (.seedgen, e)
  | .rsvi e => some (.rsvi, e)
  | .rsvu e => some (.rsvu, e)
  | .rsvm e => some (.rsvm, e)
  | .rsvf e => some (.rsvf, e)
  | .rsvget e => some (.rsvget, e)
  | .rsvset e => some (.rsvset, e)
  | .trace e => some (.trace, e)
  | .beam e => some (.beam, e)
  | .hitld e => some (.hitld, e)
  | .pxl e => some (.pxl, e)
  | .pxs e => some (.pxs, e)
  | .frmacq e => some (.frmacq, e)
  | .fpres e => some (.fpres, e)
  | .frmst e => some (.frmst, e)
  | .qpost e => some (.qpost, e)
  | .qwait e => some (.qwait, e)
  | .qstat e => some (.qstat, e)
  | .kstat e => some (.kstat, e)
  | .rwr e => some (.rwr, e)
  | .rrd e => some (.rrd, e)
  | .rwrf e => some (.rwrf, e)
  | .ratm e => some (.ratm, e)
  | .lred e => some (.lred, e)
  | .rdva e => some (.rdva, e)
  | .rdvw e => some (.rdvw, e)
  | .lstat e => some (.lstat, e)
  | _ => none

end Sys2Proof
end

