-- ==== Sys2Proof/Machine/Float.lean ====
section
/-! DEFINITION. Floating-point formats, exact values, rounding, flags, conversions and orders of sums (R66-R88). A value is
exact: a NaN, an infinity, or a signed dyadic number; an instruction rounds it once. -/

namespace Sys2Proof.Machine

/-- A floating-point format (R66): exponent bits, fraction bits, bias, whether it has infinities, and whether it has NaNs. -/
structure Fmt where
  eb : Nat
  fb : Nat
  bias : Nat
  hasInf : Bool
  hasNan : Bool
  deriving DecidableEq, Repr

def fp32 : Fmt := ⟨8, 23, 127, true, true⟩
def fp16 : Fmt := ⟨5, 10, 15, true, true⟩
def bf16 : Fmt := ⟨8, 7, 127, true, true⟩
def e4m3 : Fmt := ⟨4, 3, 7, false, true⟩
def e5m2 : Fmt := ⟨5, 2, 15, true, true⟩
def e2m1 : Fmt := ⟨2, 1, 1, false, false⟩

/-- The format of a `TYPE` code in the floating table (R29). -/
def fmtOf : Nat → Fmt
  | 1 => fp16 | 2 => bf16 | 3 => e4m3 | 4 => e5m2 | 5 => e2m1 | _ => fp32

/-- Width in bits. -/
def Fmt.width (f : Fmt) : Nat := 1 + f.eb + f.fb

/-- An exact value: `fin neg m e` is (−1)^neg × m × 2^e, with a signed zero when m = 0. -/
inductive Val where
  | nan
  | inf (neg : Bool)
  | fin (neg : Bool) (m : Nat) (e : Int)
  deriving DecidableEq, Repr

/-- The sign bit's weight. -/
def Fmt.signBit (f : Fmt) : Nat := 2 ^ (f.eb + f.fb)
/-- The magnitude code of infinity, where there is one (R66). -/
def Fmt.infCode (f : Fmt) : Nat := (2 ^ f.eb - 1) * 2 ^ f.fb
/-- The largest finite magnitude code (R66). -/
def Fmt.maxCode (f : Fmt) : Nat :=
  if f.hasInf then f.infCode - 1 else if f.hasNan then 2 ^ (f.eb + f.fb) - 2 else 2 ^ (f.eb + f.fb) - 1
/-- The canonical NaN (R66). -/
def Fmt.nanCode (f : Fmt) : Nat :=
  if f.hasInf then f.infCode + 2 ^ (f.fb - 1) else if f.hasNan then 2 ^ (f.eb + f.fb) - 1 else 0
/-- Exponent of the least normal value. -/
def Fmt.emin (f : Fmt) : Int := 1 - (f.bias : Int)
/-- Exponent of the least subnormal value: the spacing below min normal. -/
def Fmt.qmin (f : Fmt) : Int := f.emin - (f.fb : Int)

/-- The flags of `fpstat` (R83). -/
def flNV : Byte := 1
def flDZ : Byte := 2
def flOF : Byte := 4
def flUF : Byte := 8
def flNX : Byte := 16
def flIS : Byte := 32
def flFMTX : Byte := 64
def flRSVW : Byte := 128

/-- A result's bits and the flags it raises. -/
structure FRes where
  bits : Nat
  fl : Byte
  deriving DecidableEq, Repr

/-- The value of a code (R67). -/
def decodeF (f : Fmt) (bits : Nat) : Val :=
  let neg := bits / f.signBit % 2 == 1
  let mag := bits % f.signBit
  let ex := mag / 2 ^ f.fb
  let fr := mag % 2 ^ f.fb
  if f.hasInf && mag == f.infCode then .inf neg
  else if f.hasInf && decide (f.infCode < mag) then .nan
  else if !f.hasInf && f.hasNan && mag == f.nanCode then .nan
  else if ex == 0 then .fin neg fr f.qmin
  else .fin neg (2 ^ f.fb + fr) ((ex : Int) - (f.bias : Int) - (f.fb : Int))

/-- A signed magnitude code. -/
def withSign (f : Fmt) (neg : Bool) (mag : Nat) : Nat := if neg then f.signBit + mag else mag

/-- Whether a discarded part rounds the magnitude up: `odd` is the least kept bit, `rem` of `2^s` the discarded part. -/
def roundUp (r : Rnd) (neg odd : Bool) (rem s : Nat) : Bool :=
  match r with
  | .ne => decide (2 ^ s < 2 * rem) || (2 * rem == 2 ^ s && odd)
  | .na => decide (2 ^ s ≤ 2 * rem)
  | .tz => false
  | .up => !neg && rem != 0
  | .dn => neg && rem != 0

/-- A magnitude m × 2^e expressed in units of 2^q, rounded, with whether it was inexact (R76). -/
def quantize (r : Rnd) (neg : Bool) (m : Nat) (e q : Int) : Nat × Bool :=
  if q ≤ e then (m * 2 ^ (e - q).toNat, false)
  else
    let s := (q - e).toNat
    let k := m / 2 ^ s
    let rem := m % 2 ^ s
    (if roundUp r neg (k % 2 == 1) rem s then k + 1 else k, rem != 0)

/-- What an overflow delivers (R77): `satm` asks for saturation. -/
def overflow (f : Fmt) (r : Rnd) (satm neg : Bool) : Nat :=
  let toMax := satm || (!f.hasNan) || (match r with
    | .ne | .na => false
    | .tz => true
    | .up => neg
    | .dn => !neg)
  if toMax then withSign f neg f.maxCode
  else if f.hasInf then withSign f neg f.infCode else f.nanCode

/-- Rounding an exact value into a format (R76, R77, R79, R80). -/
def roundF (f : Fmt) (r : Rnd) (satm : Bool) (v : Val) : FRes :=
  match v with
  | .nan => if f.hasNan then ⟨f.nanCode, 0⟩ else ⟨0, flNV⟩
  | .inf neg =>
    if f.hasInf then ⟨withSign f neg (if satm then f.maxCode else f.infCode), 0⟩
    else if satm || !f.hasNan then ⟨withSign f neg f.maxCode, flNV⟩ else ⟨f.nanCode, flNV⟩
  | .fin neg 0 _ => ⟨withSign f neg 0, 0⟩
  | .fin neg (m + 1) e =>
    let ex : Int := (Nat.log2 (m + 1) : Int) + e
    let q := max ex f.emin - (f.fb : Int)
    let kx := quantize r neg (m + 1) e q
    let mag := (q - f.qmin).toNat * 2 ^ f.fb + kx.1
    if f.maxCode < mag then ⟨overflow f r satm neg, flOF ||| flNX⟩
    else ⟨withSign f neg mag, (if kx.2 then flNX else 0) ||| (if kx.2 && decide (ex < f.emin) then flUF else 0)⟩

/-- `round_ne` without saturation. -/
def roundNe (f : Fmt) (v : Val) : FRes := roundF f .ne false v

/-- The sign of a value; a NaN counts as positive. -/
def Val.neg? : Val → Bool
  | .nan => false
  | .inf n => n
  | .fin n _ _ => n

/-- The value is a NaN. -/
def Val.isNan : Val → Bool
  | .nan => true
  | _ => false

/-- The value is an infinity. -/
def Val.isInf : Val → Bool
  | .inf _ => true
  | _ => false

/-- The value is a zero. -/
def Val.isZero : Val → Bool
  | .fin _ 0 _ => true
  | _ => false

/-- Negation. -/
def Val.negate : Val → Val
  | .nan => .nan
  | .inf n => .inf (!n)
  | .fin n m e => .fin (!n) m e

/-- Magnitude. -/
def Val.abs : Val → Val
  | .nan => .nan
  | .inf _ => .inf false
  | .fin _ m e => .fin false m e

/-- The exact product, with whether it makes a NaN from operands that are none (R148). -/
def Val.mul (a b : Val) : Val × Bool :=
  match a, b with
  | .nan, _ => (.nan, false)
  | _, .nan => (.nan, false)
  | .inf n, .inf k => (.inf (n != k), false)
  | .inf n, .fin k m _ => if m = 0 then (.nan, true) else (.inf (n != k), false)
  | .fin n m _, .inf k => if m = 0 then (.nan, true) else (.inf (n != k), false)
  | .fin n m e, .fin k m' e' => (.fin (n != k) (m * m') (e + e'), false)

/-- The least exponent of a list of finite values. -/
def minExp : List Val → Int → Int
  | [], acc => acc
  | .fin _ 0 _ :: r, acc => minExp r acc
  | .fin _ _ e :: r, acc => minExp r (min acc e)
  | _ :: r, acc => minExp r acc

/-- The signed sum of finite values in units of 2^q, for q at or below every exponent. -/
def sumAt (q : Int) : List Val → Int
  | [] => 0
  | .fin n m e :: r =>
    let k : Int := if m = 0 then 0 else (m * 2 ^ (e - q).toNat : Nat)
    (if n then -k else k) + sumAt q r
  | _ :: r => sumAt q r

/-- The exponent of the first non-zero finite value. -/
def firstExp : List Val → Int
  | [] => 0
  | .fin _ 0 _ :: r => firstExp r
  | .fin _ _ e :: _ => e
  | _ :: r => firstExp r

/-- `exact_sum` of R85, with its `NV`; the mode decides the sign of an exact zero. -/
def exactSum (r : Rnd) (l : List Val) : Val × Bool :=
  if l.any Val.isNan then (.nan, false)
  else
    let pos := l.any fun v => v == .inf false
    let neg := l.any fun v => v == .inf true
    if pos && neg then (.nan, true)
    else if pos then (.inf false, false)
    else if neg then (.inf true, false)
    else
      let q := minExp l (firstExp l)
      let t := sumAt q l
      if t = 0 then
        (.fin (match r with
          | .dn => !(l.all fun v => !v.neg?)  -- not all +0
          | _ => l.all Val.neg?) 0 0, false)
      else (.fin (decide (t < 0)) t.natAbs q, false)

/-- The order of two values that are no NaNs, with −0 below +0 when `signed` (R160, R161): −1, 0 or 1. -/
def cmpVal (signedZero : Bool) (a b : Val) : Int :=
  let key (v : Val) : Option Int :=
    match v with
    | .inf true => some (-1)
    | .inf false => some 1
    | _ => none
  match key a, key b with
  | some x, some y => if x < y then -1 else if x = y then 0 else 1
  | some x, none => x
  | none, some y => -y
  | none, none =>
    let q := minExp [a, b] (firstExp [a, b])
    let x := sumAt q [a]
    let y := sumAt q [b]
    if x < y then -1 else if y < x then 1
    else if signedZero && a.isZero && b.isZero then
      (if a.neg? && !b.neg? then -1 else if !a.neg? && b.neg? then 1 else 0)
    else 0

/-- `FMIN` and `FMAX` of R160 on codes of one format. -/
def fminmax (f : Fmt) (wantMax : Bool) (a b : Nat) : Nat :=
  let va := decodeF f a
  let vb := decodeF f b
  if va.isNan && vb.isNan then f.nanCode
  else if va.isNan then b
  else if vb.isNan then a
  else if (cmpVal true va vb < 0) != wantMax then a else b

/-- The comparison of `FCMP` (R60, R161). -/
def fcmp (opx : Nat) (a b : Val) : Bool :=
  let un := a.isNan || b.isNan
  let c := cmpVal false a b
  let rel (k : Nat) : Bool :=
    match k with
    | 0 => c == 0
    | 1 => c != 0
    | 2 => decide (c < 0)
    | 3 => decide (c ≤ 0)
    | 4 => decide (0 < c)
    | _ => decide (0 ≤ c)
  if opx < 6 then !un && rel opx
  else if opx = 6 then !un
  else if opx = 7 then un
  else un || rel (opx - 8)

/-- The rounding of a finite value to an integer, with whether it was inexact (R81, R163). -/
def roundInt (r : Rnd) (neg : Bool) (m : Nat) (e : Int) : Int × Bool :=
  let kx := quantize r neg m e 0
  (if neg then -(kx.1 : Int) else (kx.1 : Int), kx.2)

/-- The range of an integer type of a width (R69). -/
def intMin (signed : Bool) (w : Nat) : Int := if signed then -(2 ^ (w - 1) : Nat) else 0
def intMax (signed : Bool) (w : Nat) : Int := if signed then (2 ^ (w - 1) : Nat) - 1 else (2 ^ w : Nat) - 1

/-- Clamping to an integer range (R79). -/
def clampInt (signed : Bool) (w : Nat) (x : Int) : Int := max (intMin signed w) (min (intMax signed w) x)

/-- An integer modulo 2^w as a code. -/
def wrapInt (w : Nat) (x : Int) : Nat := (x % (2 ^ w : Nat)).toNat

/-- A code read as a signed or unsigned integer. -/
def readInt (signed : Bool) (w bits : Nat) : Int :=
  if signed && decide (2 ^ (w - 1) ≤ bits) then (bits : Int) - (2 ^ w : Nat) else bits

/-- An integer as an exact value. -/
def Val.ofInt (x : Int) : Val := .fin (decide (x < 0)) x.natAbs 0

/-- A floating-to-integer conversion (R81): one that is clamped raises `NV`, and not the `IS` of integer arithmetic (log 96). -/
def floatToInt (r : Rnd) (signed : Bool) (w : Nat) (v : Val) : FRes :=
  match v with
  | .nan => ⟨0, flNV⟩
  | .inf neg => ⟨wrapInt w (if neg then intMin signed w else intMax signed w), flNV⟩
  | .fin neg m e =>
    let kx := roundInt r neg m e
    let y := clampInt signed w kx.1
    if y = kx.1 then ⟨wrapInt w y, if kx.2 then flNX else 0⟩ else ⟨wrapInt w y, flNV⟩

/-- `FRND` (R163). -/
def frnd (r : Rnd) (bits : Nat) : Nat :=
  match decodeF fp32 bits with
  | .nan => fp32.nanCode
  | .inf neg => withSign fp32 neg fp32.infCode
  | .fin neg m e =>
    let k := (roundInt r neg m e).1
    if k = 0 then withSign fp32 neg 0 else (roundF fp32 .ne false (.ofInt k)).bits

/-- floor(log2 |v|) of a non-zero finite value (R165). -/
def ilog2 (m : Nat) (e : Int) : Int := (Nat.log2 m : Int) + e

/-- `FEXP` (R165). -/
def fexp (bits : Nat) : FRes :=
  match decodeF fp32 bits with
  | .nan | .inf _ => ⟨0x7FFFFFFF, flNV⟩
  | .fin _ 0 _ => ⟨0x80000000, flDZ⟩
  | .fin _ m e => ⟨wrapInt 32 (ilog2 m e), 0⟩

/-- `FCLASS` (R162). -/
def fclass (bits : Nat) : Nat :=
  match decodeF fp32 bits with
  | .nan => 2 ^ 8
  | .inf neg => if neg then 1 else 2 ^ 7
  | .fin neg 0 _ => if neg then 2 ^ 3 else 2 ^ 4
  | .fin neg m e =>
    if ilog2 m e < fp32.emin then (if neg then 2 ^ 2 else 2 ^ 5) else (if neg then 2 ^ 1 else 2 ^ 6)

/-- Multiplying a value by a power of two. -/
def Val.scale (v : Val) (k : Int) : Val :=
  match v with
  | .fin n m e => .fin n m (e + k)
  | v => v

/-- `tree` of R86, with flags or-ed over the nodes; `fuel` bounds the levels. -/
def treeLevel (node : Nat → Nat → FRes) : List Nat → List Nat × Byte
  | a :: b :: r =>
    let x := node a b
    let t := treeLevel node r
    (x.bits :: t.1, x.fl ||| t.2)
  | l => (l, 0)

/-- The tree over at most 2^fuel elements. -/
def tree (node : Nat → Nat → FRes) : Nat → List Nat → FRes
  | 0, l => ⟨l.headD 0, 0⟩
  | fuel + 1, l =>
    match l with
    | [] => ⟨0, 0⟩
    | [a] => ⟨a, 0⟩
    | l =>
      let t := treeLevel node l
      let r := tree node fuel t.1
      ⟨r.bits, t.2 ||| r.fl⟩

/-- The floating add node of R87 and R88. -/
def addNode (f : Fmt) (a b : Nat) : FRes :=
  let s := exactSum .ne [decodeF f a, decodeF f b]
  let r := roundF f .ne false s.1
  ⟨r.bits, r.fl ||| (if s.2 then flNV else 0)⟩

/-- Element `i` of width `w` of a packed register (R68). -/
def elem (w bits i : Nat) : Nat := bits / 2 ^ (w * i) % 2 ^ w

/-- A packed register from its elements, the first in the low bits. -/
def packElems (w : Nat) : List Nat → Nat
  | [] => 0
  | x :: r => x % 2 ^ w + 2 ^ w * packElems w r

/-- The scale value 2^(X − 127) of an E8M0 code applied to a value; 0xFF makes a NaN (R70, R71). -/
def Val.e8m0 (v : Val) (x : Nat) : Val := if x = 0xFF then .nan else v.scale ((x : Int) - 127)

/-- Formats of an MX mode (R60, R71): the element format, or none for MXINT8. -/
def mxFmt : Nat → Option Fmt
  | 0 => some e4m3 | 1 => some e5m2 | 2 => some e2m1 | _ => none

/-- The width of an MX mode's elements. -/
def mxWidth (mode : Nat) : Nat := if mode = 2 then 4 else 8

/-- The value of an MX element code under a scale (R71). -/
def mxDecode (mode code x : Nat) : Val :=
  match mxFmt mode with
  | some f => (decodeF f code).e8m0 x
  | none =>
    let i := readInt true 8 code
    (Val.fin (decide (i < 0)) i.natAbs (-6)).e8m0 x

/-- One element of `PKMX` under a scale code (R72 step 4, R167). Saturation sets `OF` and `NX`, other inexactness `NX`. -/
def mxEncode (mode x : Nat) (v : Val) : FRes :=
  if x = 0xFF then ⟨0, flNV⟩
  else match mxFmt mode, v with
    | _, .nan => ⟨0, flNV⟩
    | some f, .inf neg => ⟨withSign f neg f.maxCode, flNV⟩
    | none, .inf neg => ⟨if neg then wrapInt 8 (-127) else 127, flNV⟩
    | some f, .fin n m e =>
      let r := roundF f .ne true (.fin n m (e + 127 - (x : Int)))
      ⟨r.bits, r.fl &&& (flOF ||| flNX)⟩
    | none, .fin n m e =>
      let kx := roundInt .ne n m (e + 6 + 127 - (x : Int))
      let y := max (-127) (min 127 kx.1)
      ⟨wrapInt 8 y, if y = kx.1 then (if kx.2 then flNX else 0) else flOF ||| flNX⟩

/-- Decoding the pair of Q4X slots (even, odd) (R73): the two values and whether an odd escape was met. -/
def q4Pair (x s0 s1 : Nat) : Val × Val × Bool :=
  let sm (k : Nat) : Val := let i := readInt true 4 k; (Val.fin (decide (i < 0)) i.natAbs 0).e8m0 x
  if x = 0xFF then (.nan, .nan, false)
  else if s0 = 8 then
    ((Val.fin (s1 / 8 == 1) (8 * 2 ^ (s1 % 8)) 0).e8m0 x, Val.fin false 0 0, false)
  else if s1 = 8 then (sm s0, Val.fin false 0 0, true)
  else (sm s0, sm s1, false)

/-- The wide exponent e in 0 to 7 that minimises ||q| − 8 × 2^e|, the smaller on ties (R74). -/
def q4Wide (m : Nat) (e : Int) : Nat :=
  let dist (k : Nat) : Val := Val.abs (exactSum .ne [.fin false m e, .fin true (8 * 2 ^ k) 0]).1
  (List.range 8).foldl (fun best k => if cmpVal false (dist k) (dist best) < 0 then k else best) 0

/-- The exact value of a finite pair member under R74, or a zero with `NV` for a NaN or an infinity. -/
def q4Clean (v : Val) : Val × Byte :=
  match v with
  | .fin n m e => (.fin n m e, 0)
  | _ => (.fin false 0 0, flNV)

/-- One narrow slot of R74. -/
def q4Narrow (v : Val) : Nat × Byte :=
  match v with
  | .fin n m e =>
    let kx := roundInt .ne n m e
    let y := max (-7) (min 7 kx.1)
    (wrapInt 4 y, (if kx.2 || y != kx.1 then flNX else 0) ||| (if y != kx.1 then flOF else 0))
  | _ => (0, 0)

/-- Encoding a pair of values into Q4X slots with a scale code below 0xFF (R74). -/
def q4Encode (x : Nat) (v0 v1 : Val) : Nat × Nat × Byte :=
  let c0 := q4Clean v0
  let c1 := q4Clean v1
  let s0 := c0.1.scale (127 - (x : Int))
  let s1 := c1.1.scale (127 - (x : Int))
  match s0 with
  | .fin n m e =>
    if 7 < (roundInt .ne false m e).1 then
      let k := q4Wide m e
      let big := cmpVal false (.fin false m e) (.fin false 1024 0) > 0
      let inex := cmpVal false (.fin false m e) (.fin false (8 * 2 ^ k) 0) != 0
      let lost := !s1.isZero
      (8, (if n then 8 else 0) + k,
        c0.2 ||| c1.2 ||| (if big then flOF else 0) ||| (if inex || lost then flNX else 0))
    else
      let a := q4Narrow s0
      let b := q4Narrow s1
      (a.1, b.1, c0.2 ||| c1.2 ||| a.2 ||| b.2)
  | _ => (0, 0, 0)

end Sys2Proof.Machine
end

