-- ==== Sys2Proof/Machine/OpTable.lean ====
section
/-! DEFINITION. The opcode map as data: for every opcode its code, forms, unit, destination kind and operand slots (R52-R56),
its TYPE, RND, SAT, OPX and MOD values (R60-R64 and the instructions' entries), and the checks that decide ILLEGAL from
the encoding alone (R44). The decoder, the encoder and `WellFormed` all read this one table. -/

namespace Sys2Proof

/-- The units of R54. -/
inductive ExecUnit where
  | lane | queue | scalar | control | memory | engine
  deriving DecidableEq, Repr

/-- Destination kinds of R53. -/
inductive DKind where
  | vec | sca | pred | index | tile | rsv | none
  deriving DecidableEq, Repr

/-- Whether an operand names an even register (R25): never, always, or for a 64-bit `TYPE`. -/
inductive PairRule where
  | never | always | byType
  deriving DecidableEq, Repr

/-- How the base form reads a source field (R19): a bare number, a vector register, a scalar register, or `B` of a vector
opcode with its vector and scalar halves. -/
inductive BaseKind where
  | num | vec | sca | split
  deriving DecidableEq, Repr

/-- One source operand of an opcode: its base-form reading, the kinds it accepts in the extended form, the highest number
of kind 0b00, and its pair rule. -/
structure Slot where
  base  : BaseKind
  kinds : List Kind
  max   : Nat
  pair  : PairRule
  deriving DecidableEq, Repr

/-- The accepted values of `MOD` (R63, R64): only zero; space, scope and order of R32; a scope in [5:3]; a token in
[3:0]; or exactly the listed bytes. -/
inductive ModRule where
  | zero
  | mem (spaces orders : List Nat) (maxScope : Nat)
  | scope (lo hi : Nat)
  | token
  | oneOf (vals : List Nat)
  deriving DecidableEq, Repr

/-- The encoding rules of one opcode. `wide` lists the 64-bit `TYPE` codes; `flt` says that `TYPE` is read in the
floating table (R29); `immZero` that `IMM18` must be zero (R57, R128, R338). -/
structure OpSpec where
  code  : Nat
  forms : List Form
  unit  : ExecUnit
  dk    : DKind
  dpair : PairRule := .never
  sa    : Slot
  sb    : Slot
  sc    : Slot
  types : List Nat := [0]
  dty   : Nat := 0
  wide  : List Nat := []
  flt   : Bool := false
  rnd   : Bool := false
  sat   : Bool := false
  opx   : List Nat := [0]
  mod   : ModRule := .zero
  immZero : Bool := false

/-- An unused source: number 0 and kind 0b00 (R19, R23). -/
def slotNone : Slot := ⟨.num, [.vec], 0, .never⟩
/-- Operand A of a vector opcode. -/
def slotA (p : PairRule) : Slot := ⟨.vec, [.vec, .sca, .lat, .imm], 255, p⟩
/-- Operand B of a vector opcode: vector and scalar halves in the base form. -/
def slotB (p : PairRule) : Slot := ⟨.split, [.vec, .sca, .lat, .imm], 255, p⟩
/-- A scalar operand: a register, or the immediate in the extended form. -/
def slotS (p : PairRule) : Slot := ⟨.sca, [.sca, .imm], 255, p⟩
/-- A scalar register only. -/
def slotSR (p : PairRule) : Slot := ⟨.sca, [.sca], 255, p⟩
/-- A number with the kind 0b00: a predicate, tile, stream register or reservoir. -/
def slotNum (max : Nat) : Slot := ⟨.num, [.vec], max, .never⟩
/-- A field with a meaning of its own, checked by `extraCheck`. -/
def slotRaw : Slot := ⟨.num, [.vec], 255, .never⟩

/-- Kyoset forms B and E. -/
def formsBE : List Form := [.base, .extended]
/-- Kyoset forms B, L and E. -/
def formsBLE : List Form := [.base, .literal, .extended]

/-- A two-source vector instruction whose operands are all of the operand `TYPE`. -/
def specV2 (code : Nat) (forms : List Form) (types : List Nat) : OpSpec :=
  { code, forms, unit := .lane, dk := .vec, dpair := .byType, sa := slotA .byType, sb := slotB .byType,
    sc := slotNone, types, wide := [2, 3] }

/-- A one-source vector instruction. -/
def specV1 (code : Nat) (types : List Nat) : OpSpec :=
  { code, forms := formsBE, unit := .lane, dk := .vec, dpair := .byType, sa := slotA .byType, sb := slotNone,
    sc := slotNone, types, wide := [2, 3] }

/-- A two-source floating-point vector instruction. -/
def specF2 (code : Nat) (forms : List Form) (types : List Nat) (dty : Nat) (rounded : Bool) : OpSpec :=
  { code, forms, unit := .lane, dk := .vec, sa := slotA .never, sb := slotB .never, sc := slotNone, types, dty,
    flt := true, rnd := rounded, sat := rounded }

/-- A scalar instruction of R138 with sources A and B. -/
def specS2 (code : Nat) (forms : List Form) : OpSpec :=
  { code, forms, unit := .scalar, dk := .sca, dpair := .byType, sa := slotS .byType, sb := slotS .byType,
    sc := slotNone, types := [0, 1, 2, 3], wide := [2, 3] }

/-- A predicate operation of R143. -/
def specP2 (code : Nat) : OpSpec :=
  { code, forms := formsBE, unit := .scalar, dk := .pred, sa := slotNum 7, sb := slotNum 7, sc := slotNone }

/-- A control instruction without register operands of its own kind; its fields are checked by `extraCheck`. -/
def specC (code : Nat) (forms : List Form) (dk : DKind) : OpSpec :=
  { code, forms, unit := .control, dk, sa := slotRaw, sb := slotRaw, sc := slotNone }

/-- A barrier instruction of R283. -/
def specBar (code : Nat) (sb : Slot) : OpSpec :=
  { code, forms := formsBE, unit := .scalar, dk := .none, sa := slotS .never, sb, sc := slotNone,
    mod := .scope 1 2 }

/-- The encoding rules of every opcode (R52 to R64, and the encoding tables of the chapters' instruction entries). C of
`CPY` is a scalar register or absent, and any other kind traps ILLEGAL (log 97). -/
def opSpec : Op → OpSpec
  | .nop => { code := 0x00, forms := formsBE, unit := .scalar, dk := .none, sa := slotNone, sb := slotNone,
              sc := slotNone, immZero := true }
  | .iadd => { specV2 0x01 formsBLE [0,1,2,3,4,5,6,7] with sat := true }
  | .isub => { specV2 0x02 formsBLE [0,1,2,3,4,5,6,7] with sat := true }
  | .imul => { specV2 0x03 formsBLE [0,1,2,3,4,5,6,7] with sat := true }
  | .imulh => specV2 0x04 formsBLE [0,1,2,3,4,5]
  | .imad => { specV2 0x05 [.extended] [0,1,2,3,4,5,6,7] with sc := slotA .byType, sat := true }
  | .imin => specV2 0x06 formsBLE [0,1,2,3,4,5,6,7]
  | .imax => specV2 0x07 formsBLE [0,1,2,3,4,5,6,7]
  | .iabs => { specV1 0x08 [0,2,4,6] with sat := true }
  | .ineg => { specV1 0x09 [0,2,4,6] with sat := true }
  | .and => specV2 0x0A formsBLE [0,2]
  | .or => specV2 0x0B formsBLE [0,2]
  | .xor => specV2 0x0C formsBLE [0,2]
  | .not => specV1 0x0D [0,2]
  | .andn => specV2 0x0E formsBLE [0,2]
  | .shl => { specV2 0x0F formsBLE [0,1,2,3,4,5,6,7] with sat := true }
  | .shr => specV2 0x10 formsBLE [0,1,2,3,4,5,6,7]
  | .sar => specV2 0x11 formsBLE [0,1,2,3,4,5,6,7]
  | .bfe => { specV2 0x12 formsBE [0,1] with wide := [] }
  | .bfi => { specV2 0x13 [.extended] [0] with sc := slotA .never, wide := [] }
  | .popc => { specV1 0x14 [0,2] with dpair := .never }
  | .clz => { specV1 0x15 [0,2] with dpair := .never }
  | .ctz => { specV1 0x16 [0,2] with dpair := .never }
  | .brev => specV1 0x17 [0,2]
  | .bperm => { specV2 0x18 [.extended] [0] with sc := slotA .never, wide := [] }
  | .icmp => { specV2 0x19 formsBLE [0,1,2,3] with dk := .pred, dpair := .never, opx := [0,1,2,3,4,5] }
  | .sel => { specV2 0x1A [.extended] [0,2] with sc := slotNum 7 }
  | .mov => { specV2 0x1B formsBLE [0,2] with sa := slotNone }
  | .dp4 => { specV2 0x1C [.extended] [6,7] with sc := slotA .never, sat := true, wide := [] }
  | .xset => { code := 0x1D, forms := formsBE, unit := .lane, dk := .index, sa := ⟨.num, [.vec, .sca], 255, .never⟩,
               sb := ⟨.num, [.vec, .sca], 255, .never⟩, sc := slotNone }
  | .ldx => { specV2 0x1E formsBE [0,2] with sa := slotNone, sb := slotB .never, opx := [0,1,2,3] }
  | .stx => { specV2 0x1F formsBE [0,2] with dk := .none, dpair := .never, sb := slotB .never, opx := [0,1,2,3] }
  | .fadd => specF2 0x20 formsBLE [0] 0 true
  | .fsub => specF2 0x21 formsBLE [0] 0 true
  | .fmul => specF2 0x22 formsBLE [0] 0 true
  | .ffma => { specF2 0x23 [.extended] [0] 0 true with sc := slotA .never }
  | .fmin => specF2 0x24 formsBLE [0] 0 false
  | .fmax => specF2 0x25 formsBLE [0] 0 false
  | .fcmp => { specF2 0x26 formsBLE [0] 0 false with dk := .pred, opx := [0,1,2,3,4,5,6,7,8,9,10,11,12,13] }
  | .fclass => { specF2 0x27 formsBE [0] 0 false with sb := slotNone }
  | .frnd => { specF2 0x28 formsBE [0] 0 false with sb := slotNone, rnd := true }
  | .fscl => specF2 0x29 formsBE [0] 0 true
  | .fexp => { specF2 0x2A formsBE [0] 0 false with sb := slotNone }
  | .faddp => specF2 0x2B formsBLE [1,2] 1 true
  | .fsubp => specF2 0x2C formsBLE [1,2] 1 true
  | .fmulp => specF2 0x2D formsBLE [1,2] 1 true
  | .ffmap => { specF2 0x2E [.extended] [1,2] 1 true with sc := slotA .never }
  | .fminp => specF2 0x2F formsBLE [1,2] 1 false
  | .fmaxp => specF2 0x30 formsBLE [1,2] 1 false
  | .fcmpp => { specF2 0x31 formsBLE [1,2] 1 false with opx := [0,1,2,3,4,5,6,7,8,9,10,11,12,13] }
  | .cvt => { code := 0x32, forms := formsBE, unit := .lane, dk := .vec, sa := slotA .never, sb := slotB .never,
              sc := slotNone, types := [0,1,2,3,4,5,6,7], rnd := true, sat := true,
              opx := [0,1,2,3,4,5,6,7,8,9,10,11,12,13,14,15,16,17,18,19,20,21,24,25,26,27,28,29] }
  | .pkmx => { specF2 0x33 formsBE [0] 0 false with sa := ⟨.vec, [.vec], 255, .never⟩, opx := [0,1,2,3] }
  | .upmx => { specF2 0x34 formsBE [0] 0 false with rnd := true, opx := [0,1,2,3] }
  | .pkq4 => { specF2 0x35 formsBE [0] 0 false with sa := ⟨.vec, [.vec], 255, .never⟩ }
  | .upq4 => { specF2 0x36 formsBE [0] 0 false with rnd := true }
  | .sfq => { specF2 0x37 formsBE [0] 0 false with
              unit := .queue, opx := [0,1,2,3,4,5,6,7,8,9,10,16,17,18,19,20,21,22,23,24,25,26], mod := .token }
  | .waitk => { code := 0x38, forms := formsBE, unit := .scalar, dk := .none, sa := slotNone, sb := slotNone,
                sc := slotNone, opx := [0,1,2], mod := .token }
  | .shfl => { specV2 0x40 formsBE [0,2] with sb := slotB .never, sc := slotNum 7, opx := [0,1,2,3] }
  | .vote => { code := 0x41, forms := formsBE, unit := .lane, dk := .pred, sa := slotNum 7, sb := slotNone,
               sc := slotNone, opx := [0,1,2] }
  | .ballot => { code := 0x42, forms := formsBE, unit := .lane, dk := .sca, sa := slotNum 7, sb := slotNone,
                 sc := slotNone }
  | .redw => { specV1 0x43 [0,1,2,3,4,5,6,7] with opx := [0,1,2,3,4,5,6,7,8] }
  | .scanw => { specV1 0x44 [0,1,2,3,4,5,6,7] with
                opx := [0,1,2,3,4,5,6,7,8,16,17,18,19,20,21,22,23,24] }
  | .matchT => { specV1 0x45 [0,2] with dpair := .never, opx := [0,1] }
  | .movs => { code := 0x46, forms := formsBE, unit := .lane, dk := .vec, sa := slotNone, sb := slotNone,
               sc := slotNone, opx := [0,1,2,3,4,5,6,7,8,9,10] }
  | .sadd => specS2 0x50 formsBLE
  | .ssub => specS2 0x51 formsBLE
  | .smul => specS2 0x52 formsBLE
  | .smulh => specS2 0x53 formsBLE
  | .sand => specS2 0x54 formsBLE
  | .sor => specS2 0x55 formsBLE
  | .sxor => specS2 0x56 formsBLE
  | .snot => { specS2 0x57 formsBE with sb := slotNone }
  | .sshl => specS2 0x58 formsBLE
  | .sshr => specS2 0x59 formsBLE
  | .ssar => specS2 0x5A formsBLE
  | .smin => specS2 0x5B formsBLE
  | .smax => specS2 0x5C formsBLE
  | .scmp => { specS2 0x5D formsBLE with dk := .pred, dpair := .never, opx := [0,1,2,3,4,5] }
  | .ssel => { specS2 0x5E formsBE with sc := slotNum 7 }
  | .smov => { specS2 0x5F formsBLE with sa := slotNone }
  | .sbfe => { specS2 0x60 formsBE with types := [0,1], wide := [] }
  | .spopc => { specS2 0x61 formsBE with sb := slotNone, dpair := .never }
  | .sclz => { specS2 0x62 formsBE with sb := slotNone, dpair := .never }
  | .srdl => { specS2 0x63 formsBE with sa := ⟨.vec, [.vec], 255, .byType⟩, sb := slotS .never, types := [0,2] }
  | .pand => specP2 0x65
  | .por => specP2 0x66
  | .pxor => specP2 0x67
  | .pnot => { specP2 0x68 with sb := slotNone }
  | .pmov => { specP2 0x69 with sa := ⟨.num, [.vec, .sca], 7, .never⟩, sb := slotNone }
  | .segw => { code := 0x6A, forms := formsBE, unit := .scalar, dk := .none, sa := slotS .never, sb := slotNone,
               sc := slotNone }
  | .actm => { code := 0x6B, forms := formsBE, unit := .scalar, dk := .sca, sa := slotNone, sb := slotNone,
               sc := slotNone }
  | .bra => specC 0x70 formsBLE .none
  | .brc => specC 0x71 formsBE .none
  | .brx => { specC 0x72 formsBE .none with sa := slotSR .always, sb := slotNone, immZero := true }
  | .join => { specC 0x73 formsBE .none with sa := slotNone, sb := slotNone, immZero := true }
  | .call => { specC 0x74 formsBLE .sca with dpair := .always }
  | .callx => { specC 0x75 formsBE .sca with dpair := .always, sa := slotSR .always, sb := slotNone, immZero := true }
  | .ret => { specC 0x76 formsBE .none with sa := slotSR .always, sb := slotNone, immZero := true }
  | .exit => { specC 0x77 formsBE .none with sa := slotNone, sb := slotNone, immZero := true }
  | .yield => { specC 0x78 formsBE .none with sa := slotNone, sb := slotNone, immZero := true }
  | .loop => specC 0x79 formsBE .sca
  | .trap => specC 0x7A formsBE .none
  | .eret => { specC 0x7B formsBE .none with sa := slotNone, sb := slotNone, immZero := true }
  | .bkpt => specC 0x7C formsBE .none
  | .csrrd => { specC 0x7D formsBE .sca with immZero := true }
  | .csrwr => { specC 0x7E formsBE .none with immZero := true }
  | .halt => { specC 0x7F formsBE .none with sa := slotNone, sb := slotNone, immZero := true }
  | .ld => { code := 0x80, forms := formsBE, unit := .memory, dk := .vec, sa := slotA .never, sb := slotB .never,
             sc := slotNone, types := [0,2],
             opx := [0,1,2,3,4,5,6,8,9,10,11,12,13,14,16,17,18,19,20,21,22,24,25,26,27,28,29,30],
             mod := .mem [0,1,2,3] [0,1,4] 5 }
  | .st => { code := 0x81, forms := formsBE, unit := .memory, dk := .none, sa := slotA .never, sb := slotB .never,
             sc := slotA .never, types := [0,2],
             opx := [0,1,2,3,5,8,9,10,11,13,16,17,18,19,21,24,25,26,27,29], mod := .mem [0,1,2,3] [0,2,4] 5 }
  | .ldfe => { code := 0x82, forms := formsBE, unit := .memory, dk := .vec, sa := slotA .never, sb := slotB .never,
               sc := slotNone, opx := [0,1,2,8,9,10], mod := .mem [1,2] [0,1] 5 }
  | .stfe => { code := 0x83, forms := formsBE, unit := .memory, dk := .none, sa := slotA .never, sb := slotB .never,
               sc := slotA .never, opx := [0,1,2], mod := .mem [1,2] [0,2] 5 }
  | .stn4 => { code := 0x84, forms := formsBE, unit := .memory, dk := .none, sa := slotA .never, sb := slotB .never,
               sc := slotNone, mod := .mem [0,1,2] [0,2] 5 }
  | .atom => { code := 0x85, forms := formsBE, unit := .memory, dk := .vec, sa := slotA .never, sb := slotB .never,
               sc := slotA .never, types := [0,1,2,3], opx := [0,1,2,3,4,5,6,7,8,9,10,11,12],
               mod := .mem [0,1,2] [0,1,2,3,4] 5 }
  | .red => { code := 0x86, forms := formsBE, unit := .memory, dk := .none, sa := slotA .never, sb := slotB .never,
              sc := slotNone, types := [0,1,2,3], opx := [0,1,2,3,4,5,8,9,10,11,12], mod := .mem [0,1,2] [0,2] 5 }
  | .pref => { code := 0x87, forms := formsBE, unit := .memory, dk := .none, sa := slotA .never, sb := slotB .never,
               sc := slotNone, types := [0,2], mod := .mem [0] [0] 4 }
  | .cinv => { code := 0x88, forms := formsBE, unit := .memory, dk := .none, sa := slotA .never, sb := slotB .never,
               sc := slotNone, types := [0,2], mod := .mem [0] [0] 4 }
  | .cwb => { code := 0x89, forms := formsBE, unit := .memory, dk := .none, sa := slotA .never, sb := slotB .never,
              sc := slotNone, types := [0,2], mod := .mem [0] [0] 4 }
  | .fence => { code := 0x8A, forms := formsBE, unit := .memory, dk := .none, sa := slotNone, sb := slotNone,
                sc := slotNone, mod := .mem [0] [1,2,3,4] 5 }
  | .fencesc => { code := 0x8B, forms := formsBE, unit := .memory, dk := .none, sa := slotNone, sb := slotNone,
                  sc := slotNone, mod := .mem [0] [4] 5 }
  | .sld => { code := 0x8C, forms := formsBE, unit := .memory, dk := .sca, dpair := .byType, sa := slotSR .never,
              sb := slotS .never, sc := slotNone, types := [0,2], wide := [2], mod := .mem [0,1] [0,1] 5 }
  | .sst => { code := 0x8D, forms := formsBE, unit := .memory, dk := .none, sa := slotSR .never,
              sb := slotS .byType, sc := ⟨.num, [.vec, .sca, .imm], 0, .never⟩, types := [0,2], wide := [2],
              mod := .mem [0,1] [0,2] 5 }
  | .cpy => { code := 0x8E, forms := [.block], unit := .engine, dk := .none, sa := slotSR .never, sb := slotSR .never,
              sc := ⟨.num, [.vec, .sca], 0, .never⟩, mod := .scope 1 5 }
  | .cpyq => { code := 0x8F, forms := [.block], unit := .engine, dk := .none, sa := slotSR .never, sb := slotSR .never,
               sc := slotSR .always, rnd := true, sat := true, mod := .scope 1 5 }
  | .gath => { code := 0x90, forms := formsBE, unit := .engine, dk := .vec, dpair := .byType, sa := slotA .never,
               sb := ⟨.split, [.vec, .sca], 255, .always⟩, sc := slotNone, types := [0,2], wide := [2], mod := .token }
  | .tlwait => { code := 0x91, forms := formsBE, unit := .scalar, dk := .none, sa := slotSR .always, sb := slotS .never,
                 sc := slotNone, mod := .scope 0 5 }
  | .tlrd => { code := 0x92, forms := formsBE, unit := .scalar, dk := .sca, dpair := .always, sa := slotNone,
               sb := slotS .never, sc := slotNone }
  | .xlate => { code := 0x93, forms := formsBE, unit := .memory, dk := .sca, dpair := .always, sa := slotSR .always,
                sb := slotS .never, sc := slotNone }
  | .phint => { code := 0x94, forms := formsBE, unit := .memory, dk := .none, sa := ⟨.vec, [.vec, .sca], 255, .always⟩,
                sb := slotNone, sc := slotNone, opx := [0,1] }
  | .twflush => { code := 0x95, forms := formsBE, unit := .scalar, dk := .none, sa := slotSR .always,
                  sb := slotSR .always, sc := slotNone }
  | .acq => { code := 0xA0, forms := formsBE, unit := .scalar, dk := .none, sa := slotNone, sb := slotNone,
              sc := slotNone }
  | .grel => { code := 0xA1, forms := formsBE, unit := .scalar, dk := .none, sa := slotSR .never, sb := slotSR .never,
               sc := slotNone }
  | .binit => specBar 0xA2 (slotS .never)
  | .barv => specBar 0xA3 slotNone
  | .bwait => specBar 0xA4 slotNone
  | .barw => specBar 0xA5 slotNone
  | .bxpct => specBar 0xA6 (slotS .never)
  | .btest => { specBar 0xA7 (slotS .never) with dk := .pred }
  | .bdl => specBar 0xA8 (slotSR .always)
  | .tnow => { code := 0xA9, forms := formsBE, unit := .scalar, dk := .sca, dpair := .always, sa := slotNone,
               sb := slotNone, sc := slotNone }
  | .twait => { code := 0xAA, forms := formsBE, unit := .scalar, dk := .none, sa := slotSR .always, sb := slotNone,
                sc := slotNone }
  | .setdl => { code := 0xAB, forms := formsBE, unit := .scalar, dk := .none, sa := slotSR .always, sb := slotNone,
                sc := slotNone, opx := [0,1,2,3] }
  | .dlget => { code := 0xAC, forms := formsBE, unit := .scalar, dk := .sca, sa := slotNone, sb := slotNone,
                sc := slotNone, opx := [0,1] }
  | .mpost => { code := 0xB0, forms := [.block], unit := .engine, dk := .tile, sa := slotS .never, sb := slotNone,
                sc := slotNone, types := [0,1,2,3,4,5] }
  | .aclr => { code := 0xB1, forms := formsBE, unit := .engine, dk := .tile, sa := slotNone, sb := slotNone,
               sc := slotNone }
  | .acld => { code := 0xB2, forms := formsBE, unit := .engine, dk := .tile, sa := slotNone, sb := slotSR .never,
               sc := slotNone }
  | .acst => { code := 0xB3, forms := formsBE, unit := .engine, dk := .none, sa := slotNum 15, sb := slotSR .never,
               sc := slotNone, types := [0,1,2,3,4], rnd := true, sat := true }
  | .mstat => { code := 0xB4, forms := formsBE, unit := .engine, dk := .sca, sa := slotNone, sb := slotSR .always,
                sc := slotNone, opx := [0,1] }
  | .mcncl => { code := 0xB5, forms := formsBE, unit := .engine, dk := .none, sa := slotNone, sb := slotSR .always,
                sc := slotNone }
  | .seedscan => { code := 0xB6, forms := [.block], unit := .engine, dk := .none, sa := slotS .never,
                   sb := slotSR .always, sc := slotNone, types := [0,2] }
  | .seedgen => { code := 0xB7, forms := [.block], unit := .engine, dk := .none, sa := slotS .never,
                  sb := slotSR .always, sc := slotNone, types := [0,1,2,3,4], rnd := true, sat := true }
  | .rsvi => { code := 0xC0, forms := formsBE, unit := .lane, dk := .rsv, sa := slotNone, sb := slotNone,
               sc := slotNone }
  | .rsvu => { code := 0xC1, forms := formsBE, unit := .lane, dk := .rsv, sa := ⟨.vec, [.vec, .sca, .lat], 255, .always⟩,
               sb := slotB .never, sc := slotA .never }
  | .rsvm => { code := 0xC2, forms := formsBE, unit := .lane, dk := .rsv, sa := slotNum 7, sb := slotB .never,
               sc := ⟨.vec, [.vec, .sca], 255, .always⟩ }
  | .rsvf => { code := 0xC3, forms := formsBE, unit := .lane, dk := .vec, sa := slotNum 7, sb := slotNone,
               sc := slotNone }
  | .rsvget => { code := 0xC4, forms := formsBE, unit := .lane, dk := .vec, sa := slotNum 7, sb := slotNone,
                 sc := slotNone }
  | .rsvset => { code := 0xC5, forms := formsBE, unit := .lane, dk := .rsv, sa := ⟨.vec, [.vec], 255, .never⟩,
                 sb := slotNone, sc := slotNone }
  | .trace => { code := 0xC8, forms := formsBE, unit := .engine, dk := .vec, dpair := .always,
                sa := ⟨.vec, [.vec], 248, .never⟩, sb := ⟨.split, [.sca], 255, .always⟩, sc := slotNone,
                opx := [0,1], mod := .token }
  | .beam => { code := 0xC9, forms := [.block], unit := .engine, dk := .none, sa := slotSR .always, sb := slotSR .never,
               sc := slotNone }
  | .hitld => { code := 0xCA, forms := formsBE, unit := .memory, dk := .vec, dpair := .always,
                sa := ⟨.vec, [.vec, .sca], 255, .never⟩, sb := ⟨.split, [.vec, .sca, .imm], 255, .never⟩,
                sc := slotNone }
  | .pxl => { code := 0xD0, forms := formsBE, unit := .memory, dk := .vec, dpair := .always,
              sa := ⟨.vec, [.vec, .sca, .lat], 255, .never⟩, sb := slotNone, sc := slotNum 7 }
  | .pxs => { code := 0xD1, forms := formsBE, unit := .memory, dk := .none,
              sa := ⟨.vec, [.vec, .sca, .lat], 255, .never⟩, sb := ⟨.split, [.vec], 255, .always⟩, sc := slotNone }
  | .frmacq => { code := 0xD2, forms := formsBE, unit := .scalar, dk := .sca, sa := slotNum 15, sb := slotSR .always,
                 sc := slotNone }
  | .fpres => { code := 0xD3, forms := formsBE, unit := .scalar, dk := .none, sa := slotNum 15, sb := slotNone,
                sc := slotNone }
  | .frmst => { code := 0xD4, forms := formsBE, unit := .scalar, dk := .sca, sa := slotNum 15, sb := slotNone,
                sc := slotNone, opx := [0,1,2] }
  | .qpost => { code := 0xD8, forms := formsBE, unit := .scalar, dk := .none, sa := slotS .never, sb := slotSR .always,
                sc := slotNone, mod := .scope 3 4 }
  | .qwait => { code := 0xD9, forms := formsBE, unit := .scalar, dk := .none, sa := slotS .never, sb := slotS .never,
                sc := slotNone, opx := [0,1] }
  | .qstat => { code := 0xDA, forms := formsBE, unit := .scalar, dk := .sca, sa := slotNone, sb := slotS .never,
                sc := slotNone, opx := [0,1,2,3,4] }
  | .kstat => { code := 0xDB, forms := formsBE, unit := .scalar, dk := .sca, sa := ⟨.num, [.vec, .sca, .imm], 0, .never⟩,
                sb := slotSR .always, sc := slotNone, opx := [0,1,2,3] }
  | .rwr => { code := 0xE0, forms := formsBE, unit := .engine, dk := .none, sa := ⟨.vec, [.vec, .sca], 255, .always⟩,
              sb := slotB .byType, sc := slotNone, types := [0,2], wide := [2], mod := .oneOf [0x28] }
  | .rrd => { code := 0xE1, forms := formsBE, unit := .engine, dk := .vec, dpair := .byType,
              sa := ⟨.vec, [.vec, .sca], 255, .always⟩, sb := slotNone, sc := slotNone, types := [0,2], wide := [2],
              mod := .oneOf [0x28, 0x29] }
  | .rwrf => { code := 0xE2, forms := formsBE, unit := .engine, dk := .none, sa := ⟨.vec, [.vec, .sca], 255, .always⟩,
               sb := slotB .byType, sc := slotNone, types := [0,2], wide := [2], mod := .oneOf [0x2A] }
  | .ratm => { code := 0xE3, forms := formsBE, unit := .engine, dk := .vec, dpair := .byType,
               sa := ⟨.vec, [.vec, .sca], 255, .always⟩, sb := slotB .byType, sc := slotNone, types := [0,1,2,3],
               wide := [2, 3], mod := .oneOf [0x28, 0x2B] }
  | .lred => { code := 0xE4, forms := formsBE, unit := .engine, dk := .none, sa := slotSR .always, sb := slotSR .always,
               sc := slotS .never, mod := .oneOf [0x28] }
  | .rdva => { code := 0xE5, forms := formsBE, unit := .engine, dk := .none, sa := slotSR .always, sb := slotSR .always,
               sc := slotNone }
  | .rdvw => { code := 0xE6, forms := formsBE, unit := .engine, dk := .sca, sa := slotSR .always, sb := slotSR .always,
               sc := slotS .never }
  | .lstat => { code := 0xE7, forms := formsBE, unit := .scalar, dk := .sca, sa := slotNone, sb := slotS .never,
                sc := slotNone, opx := [0,1,2,3] }

/-- Part 0 of the opcode list. -/
def opList0 : List Op :=
  [.nop, .iadd, .isub, .imul, .imulh, .imad, .imin, .imax, .iabs, .ineg, .and, .or, .xor, .not, .andn, .shl, .shr, .sar, .bfe, .bfi, .popc, .clz]
/-- Part 1 of the opcode list. -/
def opList1 : List Op :=
  [.ctz, .brev, .bperm, .icmp, .sel, .mov, .dp4, .xset, .ldx, .stx, .fadd, .fsub, .fmul, .ffma, .fmin, .fmax, .fcmp, .fclass, .frnd, .fscl, .fexp, .faddp]
/-- Part 2 of the opcode list. -/
def opList2 : List Op :=
  [.fsubp, .fmulp, .ffmap, .fminp, .fmaxp, .fcmpp, .cvt, .pkmx, .upmx, .pkq4, .upq4, .sfq, .waitk, .shfl, .vote, .ballot, .redw, .scanw, .matchT, .movs, .sadd, .ssub]
/-- Part 3 of the opcode list. -/
def opList3 : List Op :=
  [.smul, .smulh, .sand, .sor, .sxor, .snot, .sshl, .sshr, .ssar, .smin, .smax, .scmp, .ssel, .smov, .sbfe, .spopc, .sclz, .srdl, .pand, .por, .pxor, .pnot]
/-- Part 4 of the opcode list. -/
def opList4 : List Op :=
  [.pmov, .segw, .actm, .bra, .brc, .brx, .join, .call, .callx, .ret, .exit, .yield, .loop, .trap, .eret, .bkpt, .csrrd, .csrwr, .halt, .ld, .st, .ldfe]
/-- Part 5 of the opcode list. -/
def opList5 : List Op :=
  [.stfe, .stn4, .atom, .red, .pref, .cinv, .cwb, .fence, .fencesc, .sld, .sst, .cpy, .cpyq, .gath, .tlwait, .tlrd, .xlate, .phint, .twflush, .acq, .grel, .binit]
/-- Part 6 of the opcode list. -/
def opList6 : List Op :=
  [.barv, .bwait, .barw, .bxpct, .btest, .bdl, .tnow, .twait, .setdl, .dlget, .mpost, .aclr, .acld, .acst, .mstat, .mcncl, .seedscan, .seedgen, .rsvi, .rsvu, .rsvm, .rsvf]
/-- Part 7 of the opcode list. -/
def opList7 : List Op :=
  [.rsvget, .rsvset, .trace, .beam, .hitld, .pxl, .pxs, .frmacq, .fpres, .frmst, .qpost, .qwait, .qstat, .kstat, .rwr, .rrd, .rwrf, .ratm, .lred, .rdva, .rdvw, .lstat]
/-- Every opcode, in the order of the opcode map (R52). -/
def Op.all : List Op :=
  opList0 ++ opList1 ++ opList2 ++ opList3 ++ opList4 ++ opList5 ++ opList6 ++ opList7

/-- Why an encoding is refused as ILLEGAL (R44), by name. -/
inductive DecodeErr where
  | truncated     -- the stream ends before the instruction does
  | badLen        -- a LEN the opcode does not accept (R17)
  | reservedBit   -- a reserved bit of a base, literal or extended word
  | badType       -- a TYPE the opcode does not accept (R29)
  | badRnd        -- a reserved RND, or RND on an opcode that never rounds (R30)
  | badSat        -- SAT on an opcode without saturation (R31)
  | badOpx        -- an unlisted OPX (R60)
  | badMod        -- an unlisted MOD (R63, R64)
  | badKind       -- a kind the operand does not accept (R23)
  | badNumber     -- a register number beyond its kind's range (R23, R25, R53)
  | oddPair       -- an odd number for a pair (R25)
  | badLatch      -- misuse of LE or NW (R34)
  | badImm        -- a bit of IMM18 that must be zero (R24, R128)
  | badField      -- a field that the opcode's own entry refuses
  deriving DecidableEq, Repr

/-- `MOD` is one of the accepted values (R32, R63, R64). -/
def modOk (r : ModRule) (m : BitVec 8) : Bool :=
  let space := (m.extractLsb' 6 2).toNat
  let scope := (m.extractLsb' 3 3).toNat
  let order := (m.extractLsb' 0 3).toNat
  match r with
  | .zero => m == 0
  | .mem spaces orders hi =>
    spaces.contains space && orders.contains order && decide (scope ≤ hi) && (space == 0 || decide (scope ≤ 2))
  | .scope lo hi => space == 0 && order == 0 && decide (lo ≤ scope) && decide (scope ≤ hi)
  | .token => m.extractLsb' 4 4 == 0
  | .oneOf vs => vs.contains m.toNat

/-- Whether a number must be even under a pair rule and a `TYPE`. -/
def mustPair (p : PairRule) (wide : List Nat) (ty : Nat) : Bool :=
  match p with
  | .never => false
  | .always => true
  | .byType => wide.contains ty

/-- The number is even. -/
def evenNum (n : BitVec 8) : Bool := n.toNat % 2 == 0

/-- The checks of one source operand (R19, R23, R25). `vecBase` bounds the base form's 7-bit fields. -/
def slotErr (sp : OpSpec) (sl : Slot) (f : Form) (k : Kind) (n : BitVec 8) (ty : Nat) : Option DecodeErr :=
  let kindOk :=
    match f with
    | .base => match sl.base with
      | .num => k == .vec
      | .vec => k == .vec
      | .sca => k == .sca
      | .split => (k == .vec || k == .sca) && (sl.kinds.contains k)
    | _ => sl.kinds.contains k
  let numOk :=
    match k with
    | .vec => decide (n.toNat ≤ sl.max)
    | .sca => decide (n.toNat ≤ 127)
    | .lat => decide (n.toNat ≤ 3)
    | .imm => n == 0
  let baseOk :=
    match f with
    | .base => match sl.base with
      | .split => decide (n.toNat ≤ 63)
      | _ => decide (n.toNat ≤ 127)
    | _ => true
  if !kindOk then some .badKind
  else if !numOk || !baseOk then some .badNumber
  else if (k == .vec || k == .sca) && mustPair sl.pair sp.wide ty && !evenNum n then some .oddPair
  else none

/-- The highest destination number of a kind (R53). -/
def dMax : DKind → Nat
  | .vec => 255 | .sca => 127 | .pred => 7 | .index => 3 | .tile => 15 | .rsv => 7 | .none => 0

/-- The bits of `IMM18` that the expansion by a floating `TYPE` requires to be zero are zero (R24). -/
def immFltOk (e : Enc) : Bool :=
  match e.ty.toNat with
  | 1 | 2 => e.imm.extractLsb' 16 2 == 0
  | 3 | 4 => e.imm.extractLsb' 8 10 == 0
  | 5 => e.imm.extractLsb' 4 14 == 0
  | _ => true

/-- The bits of `IMM18` that the expansion of R24 requires to be zero are zero. -/
def immOk (sp : OpSpec) (e : Enc) : Bool :=
  let used := e.ak == .imm || (e.bk == .imm && e.form != .literal) || e.ck == .imm
  if sp.immZero then e.imm == 0
  else !(used && sp.flt) || immFltOk e

/-- The space, scope and order fields of `MOD` (R32). -/
def Enc.space (e : Enc) : Nat := (e.mod.extractLsb' 6 2).toNat
def Enc.scope (e : Enc) : Nat := (e.mod.extractLsb' 3 3).toNat
def Enc.order (e : Enc) : Nat := (e.mod.extractLsb' 0 3).toNat
/-- `SZ` and `POL` of R61. -/
def Enc.sz (e : Enc) : Nat := (e.opx.extractLsb' 0 3).toNat
def Enc.pol (e : Enc) : Nat := (e.opx.extractLsb' 3 2).toNat

/-- The access size in bytes of R61's `SZ`. -/
def szBytes : Nat → Nat
  | 0 => 4 | 1 => 8 | 2 => 16 | 3 => 1 | 4 => 1 | 5 => 2 | 6 => 2 | _ => 4

/-- Element count and kind of a `TYPE` code in the integer and floating tables (R29, R166). -/
def intCount : Nat → Nat
  | 4 | 5 => 2 | 6 | 7 => 4 | _ => 1
def fltCount : Nat → Nat
  | 1 | 2 => 2 | 3 | 4 => 4 | 5 => 8 | _ => 1

/-- The destination of `CVT` is floating, and its source is floating (R62). -/
def cvtDstFlt (e : Enc) : Bool := e.opx.getLsbD 3
def cvtSrcFlt (e : Enc) : Bool := e.opx.getLsbD 4
/-- The source code of `CVT`. -/
def cvtSrc (e : Enc) : Nat := (e.opx.extractLsb' 0 3).toNat
/-- Element counts of `CVT`'s source and destination. -/
def cvtCA (e : Enc) : Nat := if cvtSrcFlt e then fltCount (cvtSrc e) else intCount (cvtSrc e)
def cvtCD (e : Enc) : Nat := if cvtDstFlt e then fltCount e.ty.toNat else intCount e.ty.toNat
/-- The source and destination are pairs. -/
def cvtSrcWide (e : Enc) : Bool := !cvtSrcFlt e && (cvtSrc e == 2 || cvtSrc e == 3)
def cvtDstWide (e : Enc) : Bool := !cvtDstFlt e && (e.ty.toNat == 2 || e.ty.toNat == 3)

/-- An even number is needed of a register operand. -/
def evenReg (k : Kind) (n : BitVec 8) : Bool := !(k == .vec || k == .sca) || evenNum n

/-- The operand is absent: number 0 and kind 0b00. -/
def absent (k : Kind) (n : BitVec 8) : Bool := k == .vec && n == 0

/-- The address parts of `LD`, `ST`, `LDFE`, `STFE`, `PREF`, `CINV`, `CWB` (R206): in `glb` the 64-bit part is a pair,
and `TYPE` 2 is accepted in `glb` alone. `hasQ` says that Q is present. -/
def addrOk (e : Enc) (qk : Kind) (q : BitVec 8) (hasQ : Bool) : Bool :=
  if e.space == 0 then
    if e.ty == 2 then evenReg e.ak e.a else !hasQ || evenReg qk q
  else e.ty == 0

/-- The atomic's data are 64-bit: an integer mode with `TYPE` 2 or 3 (R212). -/
def atomWide (e : Enc) : Bool := decide (e.opx.toNat < 10) && (e.ty.toNat == 2 || e.ty.toNat == 3)

/-- The `TYPE`s an atomic mode accepts (R212). -/
def atomTypeOk (e : Enc) : Bool :=
  if e.opx.toNat == 8 || e.opx.toNat == 9 then e.ty == 1 || e.ty == 3
  else if decide (10 ≤ e.opx.toNat) then decide (e.ty.toNat ≤ 2)
  else decide (e.ty.toNat ≤ 3)

/-- The guard is "always" (R28). -/
def Enc.always (e : Enc) : Bool := e.pg == 7 && !e.pn

/-- A segment width of R122. -/
def segwOk (n : Nat) : Bool := n == 2 || n == 4 || n == 8 || n == 16 || n == 32

/-- The control registers of R336: number, 64-bit wide, readable, writable, supervisor only. -/
def csrTable : List (Nat × Bool × Bool × Bool × Bool) :=
  [(0x000, false, true, false, false), (0x010, false, true, false, false), (0x011, true, false, true, true),
   (0x020, true, true, false, false), (0x021, true, true, false, false), (0x022, true, true, false, false),
   (0x030, false, true, false, false), (0x040, false, true, true, true), (0x041, true, true, true, true),
   (0x042, true, true, true, true), (0x043, true, true, false, true), (0x050, true, true, true, true),
   (0x051, true, true, true, true), (0x052, true, true, true, true), (0x053, true, true, true, true),
   (0x054, false, true, true, true), (0x060, false, false, true, true)]

/-- The row of a control register. -/
def csrRow (n : Nat) : Option (Nat × Bool × Bool × Bool × Bool) := csrTable.find? (fun r => r.1 == n)

/-- The register number of `CSRRD` and `CSRWR`, bits [29:18] of the base word (R338). -/
def Enc.csr (e : Enc) : Nat := ((e.b.extractLsb' 0 5) ++ (e.a.extractLsb' 0 7)).toNat

/-- The number of registers of a multi-register operand is a multiple (R167, R168, R378). -/
def multOf (n : BitVec 8) (m : Nat) : Bool := n.toNat % m == 0

/-- Elements per thread of an MX mode (R167). -/
def mxCount (opx : Nat) : Nat := if opx == 2 then 8 else 4

/-- The checks that an opcode's own entry makes beyond the table. -/
def extraOk (op : Op) (e : Enc) : Bool :=
  match op with
  | .cvt =>
    decide (cvtSrc e ≤ (if cvtSrcFlt e then 5 else 7)) && decide (e.ty.toNat ≤ (if cvtDstFlt e then 5 else 7)) &&
    (e.rnd == .ne || cvtDstFlt e || cvtSrcFlt e) &&
    (!cvtSrcWide e || evenReg e.ak e.a) && (!cvtDstWide e || evenNum e.d) &&
    (cvtCA e != cvtCD e || absent e.bk e.b) &&
    (cvtCD e != 2 * cvtCA e || !cvtSrcWide e || evenReg e.bk e.b) &&
    (!cvtDstFlt e || !(e.ak == .imm || (e.bk == .imm && cvtCD e == 2 * cvtCA e)) || immFltOk e) &&
    (cvtCA e == cvtCD e || (decide (cvtCA e < cvtCD e) && cvtCD e % cvtCA e == 0) ||
      (decide (cvtCD e < cvtCA e) && cvtCA e % cvtCD e == 0))
  | .pkmx => multOf e.a (mxCount e.opx.toNat)
  | .upmx => multOf e.d (mxCount e.opx.toNat)
  | .pkq4 => multOf e.a 8
  | .upq4 => multOf e.d 8
  | .sfq => e.opx == 3 || e.opx == 19 || absent e.bk e.b
  | .waitk => e.opx == 0 || e.mod == 0
  | .redw | .scanw =>
    let m := (e.opx.extractLsb' 0 4).toNat
    if decide (6 ≤ m) then decide (e.ty.toNat ≤ 2) && immPk e else (!(e.ty == 2 || e.ty == 3) || (evenReg e.ak e.a && evenNum e.d))
  | .movs => !(e.opx == 8 || e.opx == 9) || evenNum e.d
  | .ssel => e.form != .base || e.c == 0
  | .segw => e.ak != .imm || segwOk e.imm.toNat
  | .bra =>
    match e.form with
    | .base => e.ak == .vec && e.bk == .vec
    | .literal => e.ty == 3 && e.a == 0 && e.d == 0
    | _ => e.a == 0 && e.b == 0 && e.d == 0
  | .brc =>
    match e.form with
    | .base => e.d.extractLsb' 4 4 == 0
    | _ => e.d.extractLsb' 4 4 == 0 && e.always
  | .join => e.always
  | .call =>
    match e.form with
    | .base => true
    | .literal => e.ty == 3 && e.a == 0
    | _ => e.a == 0 && e.b == 0
  | .loop => e.form == .base || (e.a == 0 && e.b == 0)
  | .nop | .halt => e.ld == 0
  | .trap | .bkpt =>
    match e.form with
    | .base => true
    | _ => e.a == 0 && e.b == 0 && e.imm.extractLsb' 14 4 == 0 && e.ld == 0
  | .eret => e.always && e.ld == 0
  | .csrrd =>
    e.ld == 0 && decide (e.a.toNat ≤ 127) && decide (e.b.toNat ≤ 31) &&
    (match csrRow e.csr with
     | some (_, wide, rd, _, _) => rd && (!wide || evenNum e.d)
     | none => false)
  | .csrwr =>
    e.ld == 0 && decide (e.a.toNat ≤ 127) && decide (e.b.toNat ≤ 31) && !e.d.getLsbD 7 &&
    (match csrRow e.csr with
     | some (_, wide, _, wr, _) => wr && (!wide || evenNum e.d)
     | none => false)
  | .ld =>
    addrOk e e.bk e.b true && multOf e.d (max 1 (szBytes e.sz / 4)) && (e.space != 3 || e.opx == 0)
  | .st =>
    addrOk e e.ck e.c (!absent e.ck e.c) && (!(e.bk == .vec || e.bk == .sca) || multOf e.b (max 1 (szBytes e.sz / 4))) &&
    (e.space != 3 || e.opx == 0)
  | .ldfe => addrOk e e.bk e.b true && multOf e.d (max 1 (szBytes e.sz / 4))
  | .stfe =>
    addrOk e e.ck e.c (!absent e.ck e.c) && (!(e.bk == .vec || e.bk == .sca) || multOf e.b (max 1 (szBytes e.sz / 4)))
  | .stn4 => e.space != 0 || evenReg e.ak e.a
  | .atom =>
    atomTypeOk e && (e.space != 0 || evenReg e.ak e.a) &&
    (!atomWide e || (evenNum e.d && evenReg e.bk e.b && (e.opx != 7 || evenReg e.ck e.c))) &&
    (e.opx == 7 || absent e.ck e.c)
  | .red =>
    atomTypeOk e && (e.space != 0 || evenReg e.ak e.a) && (!atomWide e || evenReg e.bk e.b)
  | .pref | .cinv | .cwb => addrOk e e.bk e.b true
  | .sld | .sst => e.space != 0 || evenNum e.a
  | .cpy => e.ck != .sca || decide (e.c.toNat ≤ 123)
  | .cpyq => decide (e.c.toNat ≤ 124)
  | .dlget => e.opx == 1 || evenNum e.d
  | .pxl | .pxs | .frmacq | .fpres => e.imm == 0 && e.ld == 0
  | .frmst => (e.opx != 2 || evenNum e.d) && e.imm == 0 && e.ld == 0
  | .qwait => e.opx == 0 || (e.ak == .sca && evenNum e.a)
  | .qstat => !(e.opx == 1 || e.opx == 2 || e.opx == 3) || evenNum e.d
  | .kstat => if e.opx == 3 then e.ak != .vec else absent e.ak e.a
  | .rsvget => multOf e.d 4
  | .rsvset => multOf e.a 4
  | .lstat => e.opx != 2 || evenNum e.d
  | _ => true
where
  /-- The immediate of a floating reduction is expanded by the floating table (R24). -/
  immPk (e : Enc) : Bool := e.ak != .imm || e.ty == 0 || e.imm.extractLsb' 16 2 == 0

/-- The `TYPE` by which register numbers are pairs (R25): in a floating reduction, whose `TYPE` names no 64-bit elements, none is
(R177). -/
def pairType (op : Op) (e : Enc) : Nat :=
  if (op = .redw || op = .scanw) && decide (6 ≤ (e.opx.extractLsb' 0 4).toNat) then 0 else e.ty.toNat

/-- The first ILLEGAL condition of R44 that the fields of an opcode meet, by name; none when the encoding is accepted. -/
def encErr (op : Op) (e : Enc) : Option DecodeErr :=
  let sp := opSpec op
  let ty := e.ty.toNat
  if !sp.forms.contains e.form then some .badLen
  else if !sp.types.contains ty && !((op == .bra || op == .call) && e.form == .literal) then some .badType
  else if e.rnd != .ne && !sp.rnd then some .badRnd
  else if e.sat && !sp.sat then some .badSat
  else if !sp.opx.contains e.opx.toNat then some .badOpx
  else if !modOk sp.mod e.mod then some .badMod
  else if e.nw && (!e.le || e.d != 0) then some .badLatch
  else if e.le && !(sp.unit == .lane && sp.dk == .vec) then some .badLatch
  else if decide (dMax sp.dk < e.d.toNat) && !(op == .bra || op == .brc || op == .csrwr) then some .badNumber
  else if (sp.dk == .vec || sp.dk == .sca) && mustPair sp.dpair sp.wide (pairType op e) && !evenNum e.d then some .oddPair
  else if !immOk sp e then some .badImm
  else
    (slotErr sp sp.sa e.form e.ak e.a (pairType op e)).orElse fun _ =>
    (if e.form == .literal then (if e.b == 0 && e.bk == .imm then none else some .badKind)
     else slotErr sp sp.sb e.form e.bk e.b (pairType op e)).orElse fun _ =>
    (if e.form == .base then (if absent e.ck e.c then none else some .badKind)
     else if e.form == .literal then (if absent e.ck e.c then none else some .badKind)
     else slotErr sp sp.sc e.form e.ck e.c (pairType op e)).orElse fun _ =>
    if extraOk op e then none else some .badField

end Sys2Proof
end

