-- ==== Sys2Proof/Machine/Sparse.lean ====
section
/-! DEFINITION. Reading and writing sparse tables: keys strictly rising, no entry equal to the default. Memory, register
files and granule bits are such tables. -/

namespace Sys2Proof.Machine

/-- The value at a key; the default where the table lists nothing. -/
def sget {α : Type} (d : α) : Sparse α → Nat → α
  | [], _ => d
  | (k, x) :: r, i => if k = i then x else sget d r i

/-- Listing a value at a key, in the order of the keys. -/
def sput {α : Type} (m : Sparse α) (i : Nat) (v : α) : Sparse α :=
  match m with
  | [] => [(i, v)]
  | (k, x) :: r => if i < k then (i, v) :: (k, x) :: r else if i = k then (i, v) :: r else (k, x) :: sput r i v

/-- Writing a value at a key, keeping the canonical form: the default is not listed. -/
def sset {α : Type} [DecidableEq α] (d : α) (m : Sparse α) (i : Nat) (v : α) : Sparse α :=
  if v = d then m.filter fun kv => kv.1 != i else sput m i v

/-- The canonical form: keys strictly rising, no listed default. -/
def swf {α : Type} [DecidableEq α] (d : α) : Sparse α → Bool
  | [] => true
  | [(_, x)] => x != d
  | (k, x) :: (k', x') :: r => decide (k < k') && x != d && swf d ((k', x') :: r)

/-- Dropping every entry whose key a test rejects. -/
def sfilter {α : Type} (keep : Nat → Bool) (m : Sparse α) : Sparse α := m.filter fun kv => keep kv.1

/-- What an unlisted byte of memory reads as: zero (log 4). -/
def memDefault : Byte := 0

/-- One byte of a memory image. -/
def byteAt (m : Sparse Byte) (a : Nat) : Byte := sget memDefault m a

/-- Writing one byte of a memory image. -/
def setByte (m : Sparse Byte) (a : Nat) (b : Byte) : Sparse Byte := sset memDefault m a b

/-- The canonical form of a memory image. -/
abbrev Memory.wf (m : Sparse Byte) : Bool := swf memDefault m

/-- The little-endian number of `n` bytes from an address (R5). -/
def readLe (m : Sparse Byte) (a : Nat) : Nat → Nat
  | 0 => 0
  | n + 1 => (byteAt m a).toNat + 256 * readLe m (a + 1) n

/-- Writing the low `n` bytes of a number from an address, lowest byte first (R5). -/
def writeLe (m : Sparse Byte) (a : Nat) : Nat → Nat → Sparse Byte
  | 0, _ => m
  | n + 1, v => writeLe (setByte m a (BitVec.ofNat 8 v)) (a + 1) n (v / 256)

/-- A stable sort by a key. -/
def sortBy {α : Type} (key : α → Nat) : List α → List α
  | [] => []
  | x :: r => insertFirst key x (sortBy key r)
where
  /-- Inserting before equal keys, for the element came first. -/
  insertFirst (key : α → Nat) (x : α) : List α → List α
    | [] => [x]
    | y :: r => if key x ≤ key y then x :: y :: r else y :: insertFirst key x r

end Sys2Proof.Machine
end

