-- ==== Sys2Proof/Machine/State.lean ====
section
/-! DEFINITION. The state of the HK-960 as plain data: every object that the spec gives the device, and the model's own
bookkeeping (agenda, numbering, free-value counter), with the state after reset. -/

namespace Sys2Proof.Machine

/-- The trap causes of R65. -/
inductive Cause where
  | illegal | priv | latch | bounds | align | page | perm | ecc | space | team | format | stream | barrier | remote
  | trap | bkpt | watch
  deriving DecidableEq, Repr

/-- Kinds of access for the page check and the fault record (R236, R241). -/
inductive AccKind where
  | read | write | rmw | fetch
  deriving DecidableEq, Repr

/-- What an access reaches after its address is resolved (R180-R184, R236): physical memory of the device or the spill pool,
host memory, a byte of a group's scratchpad, a word of a convoy's group-reduction window, a register byte, or a virtual
address of a `DET` page seen through a group's buffer, with the memory behind it (R201). Groups and convoys are named by their unique numbers. -/
inductive Place where
  | phys (pa : Nat)
  | host (pa : Nat)
  | spd  (g off : Nat)
  | grp  (c ty op off : Nat)
  | reg  (core lane slot thread reg byte : Nat)
  | det  (g va pa : Nat)
  deriving DecidableEq, Repr

/-- One thread's access: its address as computed, its resolved place, its size in bytes and its data (a store's bytes or
a read-modify-write's operands), little-endian. `page` is the virtual page it was translated through. -/
structure Acc where
  thread : Nat
  va     : Nat
  size   : Nat
  place  : Place
  data   : Nat
  data2  : Nat
  deriving DecidableEq, Repr

/-- What a queued memory operation does at its home (R187): a store, a nibble store, a write of the bits of a byte that a
mask names (R408), or a read-modify-write of a mode and type of R213. -/
inductive MemFn where
  | store
  | storeFull
  | stn4
  | masked
  | rmw (mode ty : Nat)
  deriving DecidableEq, Repr

/-- An issued store, nibble store or read-modify-write of one thread that is not yet performed (R187, R219). `ins` is the
number of its instruction; an `ATOM` names the pending entry that receives the old value. -/
structure MemOp where
  seq   : Nat
  ins   : Nat
  wave  : Nat
  kernel : Nat
  ctx   : Nat
  order : Nat
  scope : Nat
  fn    : MemFn
  acc   : Acc
  ret   : Option Nat
  deriving DecidableEq, Repr

/-- Why a split or an engine operation is parked (R240): on a fault record, on a migrating page, on an ATS translation, or on a page
request; it may go on, or its service has failed (R243). -/
inductive ParkOn where
  | record (seq : Nat)
  | migrating (va : Nat)
  | ats (va : Nat)
  | pri (va : Nat)
  | ready
  | failed
  deriving DecidableEq, Repr

/-- A register destination of a variable-latency write (R56): vector or scalar, first number and count. -/
inductive Dst where
  | vec (d n : Nat)
  | sca (d n : Nat)
  deriving DecidableEq, Repr

/-- Which `WAITK` completes a variable-latency write (R56, R172). -/
inductive WaitClass where
  | ld
  | token (k : Nat)
  deriving DecidableEq, Repr

/-- A pixel that `PXL` reads (R407): its thread and coordinates, the frame's descriptor address and bytes 0 to 63 of the
descriptor as the frame stood when the instruction issued. -/
structure Pix where
  thread : Nat
  x  : Nat
  y  : Nat
  va : Nat
  d  : Nat
  deriving DecidableEq, Repr

/-- What an outstanding variable-latency write waits for. Loads hold the accesses still to return; an `ATOM` holds the old
values performed so far; `SFQ` and `TRACE` hold their requests; `XLATE` its address; `PXL` its pixels and its predicate; a
link read waits for its link operations, as an acquire or not. The accesses of a waiting `LDFE` or sc load stand in its
split's wait. -/
inductive PendBody where
  | load (order scope sz : Nat) (accs : List Acc)
  | atom (order scope size : Nat) (vals : List (Nat × Nat))
  | sfq (fn : Nat) (args : List (Nat × Word × Word))
  | gath (accs : List Acc)
  | trace (any : Bool) (bvh sup : Nat) (rays : List (Nat × List Nat))
  | pxl (c sup : Nat) (pix : List Pix)
  | xlate (va : Nat)
  | remote (acq : Bool)
  | later
  deriving DecidableEq, Repr

/-- A variable-latency write (R39, R111): outstanding while `mask` is non-zero, unwaited (R36) while it stands in the wave's
list. `sps` names the copies of the scalar registers that a scalar write reaches (R116, log 83): split numbers, and 4 for
the copy of a handler (R332). `sup` is the mode of the issue (R324). A thread of `GATH`, `TRACE` or `PXL` that waits for service stands in `waits` with its address, and one that failed
stands in `fails` until a `WAITK` reports it (R229, R392, R418). -/
structure Pend where
  seq    : Nat
  sp     : Nat
  sps    : List Nat
  sup    : Bool
  mask   : Word
  all    : Word
  dst    : Dst
  wait   : WaitClass
  body   : PendBody
  waits  : List (Nat × ParkOn × Nat)
  fails  : List (Nat × Cause × Nat)
  deriving DecidableEq, Repr

/-- An entry of the reconvergence stack (R120). -/
structure StackEntry where
  ja    : DWord
  rest  : Word
  pc    : DWord
  phase : Nat
  done  : Word
  deriving DecidableEq, Repr

/-- The latches of a wave (R33): slots keyed by latch × 32 + thread, the valid bits, and the slots that hold an uncorrectable
error (R450). -/
structure LatchFile where
  slots : Sparse DWord
  valid : BitVec 4
  bad   : List Nat
  deriving DecidableEq, Repr

/-- What an sc operation does when it takes its place in S (R198): nothing for a fence, the reads of a load into v[d], or
stores and read-modify-writes, with the destination of an `ATOM`. -/
inductive ScWork where
  | fence
  | load (d sz : Nat) (accs : List Acc)
  | ops (order scope : Nat) (fn : MemFn) (dst : Option (Nat × Nat)) (accs : List Acc)
  deriving DecidableEq, Repr

/-- What a BLOCKED split waits for (R114, R35). The split executes its instruction again when the wait is over, except
where an event of the opcode table completes the instruction itself, or has met the condition for good (`over`). An sc
operation keeps the number of its issue (R199). -/
inductive Wait where
  | score (seqs : List Nat)
  | writes (seqs : List Nat)
  | timeline (tl : Nat) (target : Nat)
  | grant
  | barrier (scope g num phase : Nat) (onRecord : Bool)
  | queueState (q st : Nat)
  | queueDone (q : Nat) (n : Nat)
  | inval (id len : Nat)
  | grel (r s len was : Nat)
  | twait (target : DWord) (len : Nat)
  | migration (va : Nat)
  | ldfe (d sz : Nat) (clear : Bool) (len seq : Nat) (accs : List Acc)
  | scDrain (num : Nat) (seqs : List Nat) (sys : Bool) (len : Nat) (work : ScWork)
  | scTick (sys : Bool) (len num : Nat) (work : ScWork)
  | drain (seqs : List Nat)
  | copies (ops : List (Nat × Nat))
  | roomSfq
  | roomTl (tl : Nat)
  | roomLink (l n : Nat)
  | roomPark (q : Nat)
  | roomTable (cl : Nat)
  | rollCall
  | over
  deriving DecidableEq, Repr

/-- The states of a split (R114); JWAIT keeps the length of its `JOIN` in words. -/
inductive SplitState where
  | ready
  | blocked (w : Wait)
  | jwait (len : Nat)
  | parked (p : ParkOn)
  deriving DecidableEq, Repr

/-- A pending replay (R218): the threads for which the instruction at the PC executes again, and, after a park, the
accesses with the addresses and data read at the first issue and the number of their instruction, which is that of the
register write that they complete. -/
structure Replay where
  mask : Word
  accs : Option (List Acc)
  pend : Option Nat
  deriving DecidableEq, Repr

/-- A split (R115). `begun` says that it has begun the instruction at its PC (R117); `held` keeps the latches that a held
instruction has already read (R35), and `latchOff` says that an issue of another split has made them invalid since (log 22);
`yielded` is R135's rank;
`marked` is R127's, with the candidates that must issue before the mark is removed; `lost` is the page whose service failed
(R243); `waiting` is the wait of an issued instruction whose words have to be fetched again; `also` is what a parked split
waits for beside its state's, each for some of its threads (R218, R243); `badS` are the scalar registers that hold an
uncorrectable error (R450). -/
structure Split where
  num     : Nat
  pc      : DWord
  mask    : Word
  st      : SplitState
  replay  : Option Replay
  s       : Sparse Word
  x       : Sparse Word
  segw    : Nat
  stack   : List StackEntry
  begun   : Bool
  held    : Option LatchFile
  latchOff : Bool
  yielded : Bool
  marked  : Option (List (Nat × Nat))
  issues  : Nat
  lost    : Nat
  waiting : Option Wait
  also    : List ParkOn
  badS    : List Nat
  deriving DecidableEq, Repr

/-- The trap record of a wave in HANDLER (R336), with the trapped split and the latches that `ERET` restores (R332). `num`
says that `tmask` holds an operation number (R225); `again` are the accesses that a replay at `ERET` makes, as they were at the
first issue, and `ins` their instruction's number (R191, R205, R218). -/
structure TrapRec where
  cause : Cause
  code  : Nat
  len   : Nat
  rpl   : Bool
  spl   : Nat
  tpc   : DWord
  tmask : DWord
  taddr : DWord
  num   : Bool
  again : List Acc
  ins   : Option Nat
  saved : Split
  latch : LatchFile
  deriving DecidableEq, Repr

/-- A failure that a timeline still has to report (R225): operation number, cause, failing address, and `order` among the
failures of the device (R299). -/
structure TlFail where
  order : Nat
  num   : Nat
  cause : Cause
  addr  : Nat
  deriving DecidableEq, Repr

/-- A timeline (R221): the posted count, the numbers posted and not yet complete, the unreported failures, and the registers of
its own wave that its copies write, each with the copy's number, until a `TLWAIT` has covered it (R185). -/
structure Timeline where
  posted : Nat
  open_  : List Nat
  fails  : List TlFail
  regs   : List (Nat × Nat)
  deriving DecidableEq, Repr

/-- A barrier arrival record (R278): the object (scope code, owning group and number) and the complete bit. -/
structure ArrRec where
  scope : Nat
  g     : Nat
  num   : Nat
  complete : Bool
  deriving DecidableEq, Repr

/-- Who translates, and where a translation is cached (R239): a core with its L1 TLB, a die with its L2 TLB, and the engines
of the I/O die with theirs. -/
inductive TlbAt where
  | core (n : Nat)
  | die (n : Nat)
  | io
  deriving DecidableEq, Repr

/-- A cached translation (R238, R239, R244): its holder, context, first address and size of the page, whether it is a `HOST`
page, its frame base, the leaf, and the host's grants of Read [0], Write [1] and Execute [2]. An ATS translation that the
device caches has the grants and no leaf. -/
structure Tlb where
  holder : TlbAt
  ctx  : Nat
  va   : Nat
  size : Nat
  host : Bool
  pa   : Nat
  leaf : BitVec 64
  grant : BitVec 3
  deriving DecidableEq, Repr

/-- A wave (R112-R115). Its vector registers are keyed by register × 32 + thread, its predicates by number with one mask
each, its `fpstat` by thread; `badV` are the vector registers that hold an uncorrectable error (R450). `lastSp` is the split that
issued last; `stored` says that its latches lie in the latch store (R36), and `back` that it has not issued since a halt (R219). EXITED, HANDLER, PARKED and LIVE follow from the splits and the trap record. -/
structure Wave where
  uid    : Nat
  ctx    : Nat
  kernel : Nat
  group  : Nat
  core   : Nat
  lane   : Nat
  slot   : Nat
  idx    : Nat
  halted : Bool
  splits : List Split
  lastSp : Nat
  regs   : Nat
  target : Nat
  v      : Sparse Word
  badV   : List Nat
  p      : Sparse Word
  fp     : Sparse Byte
  latch  : LatchFile
  stored : Bool
  back   : Bool
  udiv   : Bool
  pend   : List Pend
  tls    : List Timeline
  tw     : List (Nat × Tlb)
  arr    : List ArrRec
  dl     : DWord
  cls    : Nat
  launchCls : Nat
  full   : Bool
  efl    : Byte
  trap   : Option TrapRec
  stuck  : Bool
  deriving DecidableEq, Repr

/-- A lane's record of its last issue (R125, R127): wave and split. -/
structure LaneLast where
  core : Nat
  lane : Nat
  wave : Nat
  split : Nat
  deriving DecidableEq, Repr

/-- A barrier object (R274), with the number of phases it has completed, by which waiting splits know a completion, and whether it
holds an uncorrectable error (R450). -/
structure Barrier where
  dl   : DWord
  gen  : Nat
  exp  : Nat
  hc   : Nat
  inn  : Int
  out  : Int
  late : Bool
  err  : Bool
  scp  : Nat
  phases : Nat
  bad  : Bool
  deriving DecidableEq, Repr

/-- A byte, with the number of the instruction that stored it, or a deferred `RED` of a group's `DET` buffer, by virtual
address (R201, R202). -/
inductive DetItem where
  | byte (tid ins va : Nat) (b : Byte) (merged : Bool)
  | red (tid va size mode ty data : Nat)
  deriving DecidableEq, Repr

/-- Group states of R262; FREED groups are removed. -/
inductive GroupState where
  | reserved | running | done
  deriving DecidableEq, Repr

/-- An open or full roll call of a team (R343): the content compared (opcode, fields as substituted, sources), the waves
that have arrived with their split numbers, and the order in which it became full. -/
structure RollCall where
  team    : Nat
  op      : Op
  e       : Enc
  srcs    : List DWord
  arrived : List (Nat × Nat)
  full    : Option Nat
  deriving DecidableEq, Repr

/-- A group (R255-R262): its scratchpad bytes and granule bits (R188), the 4-byte words of it that hold an uncorrectable error
(R250, log 37), allotments and targets, the lane and slot planned for
each wave while it is RESERVED, barriers and roll calls. -/
structure Group where
  uid    : Nat
  ctx    : Nat
  kernel : Nat
  convoy : Nat
  member : Nat
  core   : Nat
  idx    : Nat
  waves  : Nat
  st     : GroupState
  granted : Bool
  reservedAll : Bool
  scratch : Nat
  scratchTarget : Nat
  plan   : List (Nat × Nat)
  preRegs : Nat
  fullRegs : Nat
  mem    : Sparse Byte
  full   : Sparse Bool
  bad    : List Nat
  bars   : List Barrier
  det    : List DetItem
  team   : Nat
  calls  : List RollCall
  commitPT : DWord
  deriving DecidableEq, Repr

/-- Convoy states of R263; UNPLACED convoys are the kernel's remaining indices. -/
inductive ConvoyState where
  | reserving | resident
  deriving DecidableEq, Repr


/-- A kernel (R292-R300): the launch packet's fields, the state code of R296, progress and shedding, the first failure of R299 with
its place in the order of the device's failures, whether the distributor has passed it over since it last started from the first kernel
(R297), the die that homes most of its ranges, and the `DET` effects of its retired groups, by group index (R202). -/
structure Kernel where
  uid    : Nat
  ctx    : Nat
  q      : Nat
  index  : Nat
  st     : Nat
  cls    : Nat
  full   : Bool
  segw   : Nat
  conv   : Nat
  team   : Nat
  gthr   : Nat
  regs   : Nat
  pregs  : Nat
  bars   : Nat
  margin : Nat
  scr    : Nat
  pscr   : Nat
  code   : DWord
  nx     : Nat
  ny     : Nat
  nz     : Nat
  dl     : DWord
  sfirst : Nat
  slast  : Nat
  param  : DWord
  recA   : DWord
  params : List Word
  next   : Nat
  placed : Nat
  shed   : List Nat
  gdone  : Nat
  durSum : Nat
  retired : Nat
  readyNo : Nat
  fcause : Option (Nat × Cause)
  fcount : Nat
  donePT : DWord
  dieLast : Option Nat
  passed : Bool
  pref   : Option Nat
  det    : List (Nat × List DetItem)
  parkedOn : Option ParkOn
  deriving DecidableEq, Repr

/-- The acknowledgement queue entry of `ACQ` (R259): core, context and group, in the order made. -/
structure AcqReq where
  core : Nat
  ctx  : Nat
  group : Nat
  deriving DecidableEq, Repr

/-- The distributor's round-robin memory (R264): per die, the last core and the last quad used. -/
structure DistLast where
  die  : Nat
  core : Nat
  quad : Nat
  deriving DecidableEq, Repr

/-- A convoy (R255, R263). While it is RESERVING it keeps what the reservation changed of the choice of places (R264): the die of
the kernel's convoy before, and the core or quad used last on its own die. -/
structure Convoy where
  uid    : Nat
  ctx    : Nat
  kernel : Nat
  idx    : Nat
  st     : ConvoyState
  groups : List Nat
  dieWas : Option Nat
  distWas : Nat
  deriving DecidableEq, Repr

/-- Context states of R325. -/
inductive CtxState where
  | empty | loaded | running | halting | halted | faulted | swapped | terminated
  deriving DecidableEq, Repr

/-- Why a context is HALTING and what follows (R325): a plain halt, a fault, or a `SWITCH` to another slot. -/
inductive HaltWhy where
  | preempt | fault | switch (b : Nat)
  deriving DecidableEq, Repr

/-- A fault record of the ring (R241-R243): number, page, kind, level, agent word, and whether it is written to the ring. -/
structure FaultRec where
  seq   : Nat
  va    : Nat
  kind  : AccKind
  lvl   : Nat
  agent : Word
  written : Bool
  deriving DecidableEq, Repr

/-- Where the image of a SWAPPED context lies (R329, R330). -/
inductive ImagePlace where
  | cores | hampers | gddr
  deriving DecidableEq, Repr

/-- A context slot (R323-R340, R440). `binds` gives the flow of each bound stream register and `curs` its current frame, by
core × 16 + number: the descriptor's address and bytes 0 to 63 as `FRMACQ` read them (R398, R409). `pins` are the pinned
pages (R253). `cmd` is the command in progress, 0 for none, and `waitCmd` the one that waits; `blocks` are the first block
and the end of the blocks that a SWAPPED context was swapped from, and `saved` the length of what was written to its save
area with that area's bytes, by which the check codes are known (R331); `xagain` the accesses of the split of `xsplit`, and the
number of their instruction, which a RESUME replays (R205, R334); `xnum` says that `xmask` holds an operation number (R336); `badImage` says that its image holds an uncorrectable
error (R450). -/
structure Ctx where
  st     : CtxState
  ptroot : Nat
  pasen  : Bool
  pasid  : Nat
  pinbud : Nat
  frlog  : Nat
  part   : Nat
  hen    : Bool
  ksup   : Bool
  handler : DWord
  mbrwin : Nat
  grpwin : Nat
  regwin : Nat
  fring  : Nat
  save   : Nat
  savesz : Nat
  cdesc  : DWord
  status : Nat
  cmd    : Nat
  why    : HaltWhy
  waitCmd : Option Nat
  image  : ImagePlace
  blocks : Option (Nat × Nat)
  saved  : Option (Nat × Sparse Byte)
  badImage : Bool
  fseq   : DWord
  frNext : Nat
  frOpen : List FaultRec
  ivbase : DWord
  ivlen  : DWord
  ivgo   : Nat
  xcause : Word
  xpc    : DWord
  xmask  : DWord
  xnum   : Bool
  xaddr  : DWord
  xsplit : Option (Nat × Nat)
  xagain : List Acc × Option Nat
  stab   : DWord
  wch    : List DWord
  wctl   : Word
  rwaddr : DWord
  rdvdet : DWord
  pins   : List (Nat × Nat)
  binds  : List (Nat × Nat)
  curs   : List (Nat × Nat × Nat)
  deriving DecidableEq, Repr

/-- What an outstanding read of a thread still sees of an aligned 16-byte block that a later access of its thread has stored to or
read (R193, log 102): the wave, the read's number, the thread, the block by its owner, and its bytes as a number. -/
structure Shadow where
  wave   : Nat
  seq    : Nat
  thread : Nat
  kind   : Nat
  owner  : Nat
  block  : Nat
  val    : Nat
  deriving DecidableEq, Repr

/-- Who receives an invalidation's completion (R246): the host, a `TWFLUSH` split, or the context page. -/
inductive InvalFor where
  | host
  | split (w sp : Nat)
  | page
  deriving DecidableEq, Repr

/-- An invalidation in progress (R246): the numbers of the accesses that must be performed first. -/
structure Inval where
  id   : Nat
  ctx  : Nat
  base : Nat
  len  : Nat
  after : List Nat
  forWhom : InvalFor
  deriving DecidableEq, Repr

/-- An ATS Translation Request in flight (R244): context and page, whether an invalidation of the page has arrived since, so that it has
been made again, and the other ranges of the context that have been invalidated since (R246). -/
structure AtsReq where
  ctx   : Nat
  va    : Nat
  stale : Bool
  since : List (Nat × Nat)
  deriving DecidableEq, Repr

/-- A PRI page request (R245): context, page, and whether it asks for write; sent, waiting on the device, or failed. -/
structure PriReq where
  ctx  : Nat
  va   : Nat
  write : Bool
  sent : Bool
  deriving DecidableEq, Repr

/-- A migration in progress (R249): context, page, size, old leaf and new frame. -/
structure Migration where
  ctx  : Nat
  va   : Nat
  size : Nat
  entry : Nat
  old  : BitVec 64
  new  : BitVec 64
  deriving DecidableEq, Repr

/-- An operation of a copy engine, seeded task or beam (R221, R369, R395): the instruction with its substituted block and
the values of its sources, the poster with its class and deadline at the post (R103, R104), the timeline number, the progress in elements, the registers (wave, number) that it
writes through the register window (R224), the group barrier that it names (R261), the scratchpads that it writes, each
with the end of its last byte (R273), and whether it accesses a scratchpad at all (R263). `failNo` is the place of its failure in
the order of failures (R299). -/
structure EngOp where
  id    : Nat
  op    : Op
  e     : Enc
  srcs  : List DWord
  ctx   : Nat
  sup   : Bool
  wave  : Nat
  group : Nat
  kernel : Nat
  cls   : Nat
  dl    : DWord
  tl    : Nat
  num   : Nat
  prog  : Nat
  amax  : Word
  out   : List Word
  failed : Option (Cause × Nat)
  failNo : Nat
  parked : Option ParkOn
  parkVa : Nat
  after : List Nat
  win    : List (Nat × Nat)
  bar    : Option Nat
  spans  : List (Nat × Nat)
  scratch : Bool
  deriving DecidableEq, Repr

/-- A dispatched packet that has not completed (R306-R317): index, type, its 64 bytes as a number, `ORD`, whether it has started, what its
access waits for, and its dispatch order. -/
structure RPkt where
  index : Nat
  ty    : Nat
  body  : Nat
  ord   : Bool
  started : Bool
  parked : Option ParkOn
  order : Nat
  deriving DecidableEq, Repr

/-- A bound queue (R302-R318). `doneSet` holds completed indices at or above `done`; `idleSince` is the PT since which the head
header has not been accepted, `idle10` says that this was for 10 µs, `waitAt` is the dispatched `WAIT` that has not completed,
`used` orders the queues by use. -/
structure Queue where
  num    : Nat
  ctx    : Nat
  desc   : Nat
  ring   : Nat
  rngs   : Nat
  rd     : Nat
  wr     : Nat
  done   : Nat
  doneSet : List Nat
  ecause : Nat
  eslot  : Nat
  logn   : Nat
  st     : Nat
  mean   : Nat
  tag    : Nat
  onChip : Bool
  idleSince : Option DWord
  idle10 : Bool
  waitAt : Option Nat
  running : List RPkt
  used   : Nat
  parkedOn : Option ParkOn
  deriving DecidableEq, Repr

/-- An entry of the interval table (R314). -/
structure Interval where
  ctx   : Nat
  base  : Nat
  len   : Nat
  acc   : Nat
  q     : Nat
  index : Nat
  order : Nat
  deriving DecidableEq, Repr

/-- A `COPY` packet in progress (R306): bytes done, and the access mode of R313. -/
structure PktCopy where
  id    : Nat
  ctx   : Nat
  q     : Nat
  index : Nat
  src   : Nat
  dst   : Nat
  len   : Nat
  prog  : Nat
  failed : Bool
  parked : Option ParkOn
  deriving DecidableEq, Repr

/-- Task states of R345, with SUSPENDED remembering whether the task was parked. -/
inductive TaskState where
  | queued | running | parked | suspended (wasParked : Bool)
  deriving DecidableEq, Repr

/-- A task of a reservation table (R344, R369, R395): cluster, numbered in the order of the table's posts, team (none for a
task that one wave posts alone), member waves with their numbers on a timeline, substituted instruction and sources, class
and deadline, progress, flags raised so far, the snapshot of seeded coefficients (R354), the target elements that
`SEEDSCAN` has read (R372), and a cancel that waits for the step in progress (R363). `begun` says that a step has begun;
`after` are the memory operations that the post releases. -/
structure Task where
  id     : Nat
  cl     : Nat
  op     : Op
  e      : Enc
  srcs   : List DWord
  ctx    : Nat
  sup    : Bool
  kernel : Nat
  group  : Nat
  team   : Option Nat
  tl     : Nat
  members : List (Nat × Nat)
  cls    : Nat
  dl     : DWord
  st     : TaskState
  prog   : Nat
  begun  : Bool
  flags  : Byte
  coef   : Option (List Byte)
  vals   : List Nat
  cancel : Bool
  failed : Option (Cause × Nat)
  parked : Option ParkOn
  parkVa : Nat
  after  : List (Nat × Nat)
  spans  : List (Nat × Nat)
  deriving DecidableEq, Repr

/-- A team's bound tiles (R346): 2n tiles, elements keyed by tile × 4096 + row × 64 + column. -/
structure TileBind where
  cl    : Nat
  group : Nat
  team  : Nat
  count : Nat
  tiles : Sparse Word
  deriving DecidableEq, Repr

/-- Where an ECC error arrives (R250, R450; log 37): a corrected one, with the fields of its record; or an uncorrectable one of a
sector of device memory, of a dirty line of the stacked SRAM, of a scratchpad word, of a vector register of a thread, of a split's
scalar register, of a latch slot, of a barrier object, or of a hamper image. -/
inductive EccErr where
  | corrected (ctx va frame sector : Nat)
  | sector (k : Nat)
  | line (k : Nat)
  | scratch (group word : Nat)
  | vector (wave reg thread : Nat)
  | scalar (wave split reg : Nat)
  | latch (wave latch thread : Nat)
  | barrier (group num : Nat)
  | image (slot : Nat)
  deriving DecidableEq, Repr

/-- What moves next (the model's own; log 1): a step of another agent, the issue choice of a lane, the passing of time, a
translation cache giving up entries, one element of an engine operation, one element of a `COPY` packet, a context command that
waited (R440), or an ECC error. -/
inductive Action where
  | event (i : Instr)
  | issue (core lane : Nat)
  | elapse (ns : Nat)
  | evict (n : Nat)
  | engine (op : Nat)
  | packetCopy (op : Nat)
  | command (slot w : Nat)
  | ecc (e : EccErr)
  deriving DecidableEq, Repr

/-! ### Streams -/

/-- A flow (R397, R403, R442): its 64-byte configuration entry, the frame and the RTP timestamp that its packets attach to, the
packets that wait behind a parked store, the highest sequence number received with that timestamp, and the sequence number of
the next packet to send. -/
structure Flow where
  num   : Nat
  cfg   : Nat
  cur   : Option Nat
  curTs : Option Word
  inbox : List RtpPacket
  parked : Option ParkOn
  parkVa : Nat
  last   : Option Nat
  seq    : Nat
  deriving DecidableEq, Repr

/-- A frame that has been armed (R399-R403): its descriptor's address and the port engine's copy of bytes 0 to 55, `STATE`,
`MAP` as a number, the counters, the stored parts of lines (line, first byte, end), the sequence numbers received, the
first of its range where that is known, whether it was detached, and the next line to transmit with its packets' numbers. `cut`
says that its flow was stopped; `gone` that its descriptor was armed again, or forgotten, while it is still being sent or a
rendezvous names it; `dirty` that the descriptor is still to be written. -/
structure Frame where
  id    : Nat
  ctx   : Nat
  va    : Nat
  flow  : Nat
  d     : Nat
  tx    : Bool
  st    : Nat
  map   : Nat
  lines : Nat
  rtpts : Nat
  spt   : DWord
  lost  : Nat
  dup   : Nat
  refuse : Nat
  latep : Nat
  parts : List (Nat × Nat × Nat)
  seqs  : List Nat
  first : Option Nat
  detached : Bool
  txLine : Option Nat
  txSeq : Nat
  cut   : Bool
  gone  : Bool
  dirty : Option ParkOn
  deriving DecidableEq, Repr

/-! ### Ports, links and rendezvous -/

/-- A port in breakout numbering (R412): whether it is up, and whether it runs at a fallback rate (R413, R446). -/
structure Port where
  up : Bool
  fallback : Bool
  deriving DecidableEq, Repr

/-- What a target has answered (R416, R417): an acknowledgement with the values read, or a final NACK. -/
inductive NraAnswer where
  | done (vals : List DWord)
  | nack
  deriving DecidableEq, Repr

/-- An operation of the link engine at its origin (R415-R420, R425): its poster, its number on tl5, the register write that
it completes, the operation as it goes on the wire, its sequence number once it is sent, retransmissions, the origin address
and progress of an `LRED` whose block is still being read, and an answer held for a wave that does not run. -/
structure LinkOp where
  id    : Nat
  wave  : Nat
  kernel : Nat
  ctx   : Nat
  group : Nat
  sup   : Bool
  num   : Nat
  pend  : Option Nat
  op    : NraOp
  va    : Nat
  sent  : Bool
  acked : Bool
  tries : Nat
  src   : Option (Nat × Nat)
  after : List Nat
  parked : Option ParkOn
  parkVa : Nat
  answer : Option NraAnswer
  deriving DecidableEq, Repr

/-- A link (R412-R420, R443): its state code and the PT at which it entered the state, its configuration, the peer's aperture size,
the next sequence number, the operations posted here, the replay window of the peer's operations with the answers held, the
peer's operations that are parked here, the completion count, the retransmissions since UP, and the sends of the last
millisecond (their PT, and whether they were retransmissions). -/
structure Link where
  st    : Nat
  since : DWord
  port  : Nat
  octx  : Nat
  pnode : Nat
  plink : Nat
  tctx  : Nat
  abase : Nat
  asize : Nat
  paddr : Nat
  laddr : Nat
  uport : Nat
  resv  : Nat
  psize : Nat
  next  : Nat
  ops   : List LinkOp
  hi    : Option Nat
  window : List (Nat × NraAnswer)
  lparks : List (Nat × ParkOn × Nat)
  done  : Nat
  retx  : Nat
  sends : List (DWord × Bool)
  deriving DecidableEq, Repr

/-- The states of an instant of a rendezvous on this card (R431). -/
inductive InstState where
  | idle | arrived | late | absent | ready | go | held | sent | recorded
  deriving DecidableEq, Repr

/-- An instant of a rendezvous (R431, R435): its index, state, frame, the members whose ready message arrived in time, the
reports received, the kind that the record will show, whether it has passed T - g/2, and what the writing of its record waits for. -/
structure RdvInst where
  n     : Nat
  st    : InstState
  frame : Option Nat
  readies : List Nat
  reports : List (Nat × RdvReport)
  kind  : Nat
  half  : Bool
  parked : Option ParkOn
  deriving DecidableEq, Repr

/-- An active rendezvous (R429-R432): its object as 512 bytes, the instants in progress, the next instant to pass its guard,
the frame of the last instant that was not ABSENT, and whether it stops after the instant in progress. -/
structure Rdv where
  id    : Nat
  ctx   : Nat
  va    : Nat
  obj   : Nat
  insts : List RdvInst
  next  : Nat
  last  : Option Nat
  detach : Bool
  deriving DecidableEq, Repr

/-- What the device sends to the outside (the model's own record): NRA operations, rendezvous messages among them, and their
answers, link handshakes, RTP packets, IGMP membership, edges of the 1PPS output, invalidation
completions, MSI-X messages, the issuer of a `HALT` (R340), and the values of the host's reads. -/
inductive OutMsg where
  | handshake (link : Nat)
  | nra (link : Nat) (op : NraOp)
  | answer (link seq : Nat) (a : NraAnswer)
  | notReady (link seq : Nat)
  | rtp (flow : Nat) (pkt : RtpPacket)
  | igmp (port : Nat) (group source : Word) (join : Bool)
  | pps (pt : Nat)
  | invalidated (ctx base len : Nat)
  | msix (v : Nat)
  | halted (ctx core lane slot : Nat)
  | read (v : DWord)
  deriving DecidableEq, Repr

/-! ### Placement and power -/

/-- The counted accesses of a page in the present epoch of its pool, and the epochs for which its count has stayed zero
(R248). -/
structure PageCount where
  ctx  : Nat
  va   : Nat
  n    : Nat
  cold : Nat
  deriving DecidableEq, Repr

/-- Power states (R448). -/
inductive Power where
  | d0 | d3hot | off
  deriving DecidableEq, Repr

/-- A bring-up step's failure count and fallback level in the boot record (R446). -/
structure BootStep where
  count : Nat
  level : Nat
  deriving DecidableEq, Repr

/-- Boot and flash (R439, R445, R446): the phase of `bootst`, the last step run, the start number, the steps' records, the ring in
flash with the number of entries written, the images in flash and running with their lengths, the length of an image under
verification, the outcomes of the steps that wait for an image, the image that is being written to flash with its length, and whether
a loss of power has left the image in flash half written. -/
structure Boot where
  phase : Nat
  last  : Nat
  start : Nat
  steps : List BootStep
  ring  : Sparse Byte
  written : Nat
  flash : Sparse Byte
  flashLen : Nat
  image : Sparse Byte
  imageLen : Nat
  staged : Option Nat
  rest  : List StepOutcome
  writing : Option (Nat × Sparse Byte)
  torn  : Bool
  deriving DecidableEq, Repr

/-- The timebase (R96-R100). -/
structure Timebase where
  st     : Nat
  src    : Nat
  steps  : Nat
  back   : Bool
  good   : Nat
  offset : Int
  freq   : Int
  staged : DWord
  deriving DecidableEq, Repr

/-- The management registers (R439), with the attestation objects of R447; `idcert` is fixed for the device (`Config.idcert`). `attn` says that a report is
requested. -/
structure Mgmt where
  ident  : Word
  partn  : Nat
  node   : Nat
  spillb : Nat
  spills : Nat
  grantb : Nat
  grants : Nat
  pools  : List DWord
  qdesc  : Nat
  elog   : Nat
  elogn  : Nat
  pwrcap : Nat
  apbase : Nat
  attn   : Bool
  ptpen  : Word
  nonce  : Sparse Byte
  report : Sparse Byte
  staging : Sparse Byte
  deriving DecidableEq, Repr

/-- The state of the machine: every object of the spec's chapters, and the model's own agenda, issue cursor, alternation
flag, numbering and free-value counter. `lostLines` are the uncorrectable sectors whose error lies in a dirty line of the
stacked SRAM (R250). `atsPend` are the ATS requests in flight, oldest first; `wishes` the pages that firmware is
to promote (true) or may demote (R248), by context and address; `shadow` what outstanding reads have kept (log 102). -/
structure State where
  agenda  : List Action
  cur     : Option (Nat × Nat)
  turn    : Bool
  freeCtr : Nat
  nextUid : Nat
  pt      : DWord
  tb      : Timebase
  hbTicks : Nat
  ptTicks : Nat
  arithMHz : Nat
  mem     : Sparse Byte
  hostMem : Sparse Byte
  badSectors : List Nat
  badFill : List (Nat × Nat × Nat)
  lostLines : List Nat
  mgmt    : Mgmt
  stores  : List MemOp
  sOrder  : List (Nat × Nat × Nat)
  shadow  : List Shadow
  tlb     : List Tlb
  ats     : List Tlb
  atsPend : List AtsReq
  pri     : List PriReq
  priOff  : Bool
  priAlloc : Nat
  inval   : List Inval
  migrating : List Migration
  retired : List (Nat × Nat)
  ctxs    : List Ctx
  queues  : List Queue
  itable  : List Interval
  parkBuf : List (Nat × DWord)
  bellMap : List (Nat × Nat × Nat)
  pktCopies : List PktCopy
  kernels : List Kernel
  convoys : List Convoy
  groups  : List Group
  acqQ    : List AcqReq
  dist    : List DistLast
  waves   : List Wave
  lanes   : List LaneLast
  owed    : List (Nat × Nat × Nat)
  ops     : List EngOp
  tasks   : List Task
  tiles   : List TileBind
  mowed   : List (Nat × Nat)
  mcount  : List (Nat × Nat × Nat)
  starve  : List (Nat × Nat × Nat × Nat)
  flows   : List Flow
  frames  : List Frame
  breakout : Nat
  ports   : List Port
  links   : List Link
  rdvs    : List Rdv
  counts  : List PageCount
  epochs  : List DWord
  wishes  : List (Nat × Nat × Bool)
  placed  : List (Nat × Nat)
  power   : Power
  boot    : Boot
  msix    : List Nat
  out     : List OutMsg
  deriving DecidableEq, Repr

/-- Why the machine stops. No instruction of the spec stops the device: every trap, fault of a context, refused command and
park is a next state. -/
inductive Fault where
  /-- Raised by `step` when the main power is lost and no power-up follows (R448): nothing of the device runs. Safe: the
  hardware makes no step either. -/
  | noPower
  deriving DecidableEq, Repr

/-- Why a step has no meaning. -/
inductive Refusal where
  /-- Raised by `exec`'s arm of an instruction whose meaning is not written yet. Safe: no claim about it can be proved. -/
  | notModelled (mnemonic : String)
  /-- Raised by `exec` of an instruction word when no split is issuing: the state names no issuer, and `step` never makes
  such a call. Safe. -/
  | noIssuer
  deriving DecidableEq, Repr

/-- An EMPTY context slot (R325); reset values by log 6. -/
def Ctx.fresh : Ctx :=
  { st := .empty, ptroot := 0, pasen := false, pasid := 0, pinbud := 0, frlog := 0, part := 0, hen := false,
    ksup := false, handler := 0, mbrwin := 0, grpwin := 0, regwin := 0, fring := 0, save := 0, savesz := 0, cdesc := 0,
    status := 0, cmd := 0, why := .preempt, waitCmd := none, image := .cores, blocks := none, saved := none, badImage := false,
    fseq := 0, frNext := 1,
    frOpen := [], ivbase := 0, ivlen := 0, ivgo := 0, xcause := 0, xpc := 0, xmask := 0, xnum := false, xaddr := 0, xsplit := none, xagain := ([], none),
    stab := 0, wch := [0, 0, 0, 0], wctl := 0, rwaddr := 0, rdvdet := 0, pins := [], binds := [], curs := [] }

/-- The management registers after reset (R439; logs 6 and 9). -/
def Mgmt.fresh : Mgmt :=
  { ident := 0x09600000, partn := 1, node := 0, spillb := 0, spills := 0, grantb := 0, grants := 0,
    pools := List.replicate 16 0, qdesc := 0, elog := 0, elogn := 0, pwrcap := 1150, apbase := 0, attn := false,
    ptpen := 0, nonce := [], report := [], staging := [] }

/-- A link in DOWN without configuration (R413; log 6). -/
def Link.fresh : Link :=
  { st := 0, since := 0, port := 0, octx := 0, pnode := 0, plink := 0, tctx := 0, abase := 0, asize := 0, paddr := 0,
    laddr := 0, uport := 0, resv := 0, psize := 0, next := 0, ops := [], hi := none, window := [], lparks := [], done := 0,
    retx := 0, sends := [] }

/-- Boot after a start at which every step passed, with an empty boot record (log 10). -/
def Boot.fresh : Boot :=
  { phase := 3, last := 10, start := 0, steps := List.replicate 10 ⟨0, 0⟩, ring := [], written := 0, flash := [], flashLen := 0,
    image := [], imageLen := 0, staged := none, rest := [], writing := none, torn := false }

/-- The state right after reset. -/
def State.reset : State :=
  { agenda := [], cur := none, turn := false, freeCtr := 0, nextUid := 0, pt := 0,
    tb := { st := 0, src := 0xFF, steps := 0, back := false, good := 0, offset := 0, freq := 0, staged := never },
    hbTicks := 0, ptTicks := 0, arithMHz := 2600, mem := [], hostMem := [], badSectors := [], badFill := [], lostLines := [],
    mgmt := Mgmt.fresh, stores := [],
    sOrder := [], shadow := [], tlb := [], ats := [], atsPend := [], pri := [], priOff := false, priAlloc := 0, inval := [],
    migrating := [], retired := [], ctxs := List.replicate 64 Ctx.fresh, queues := [], itable := [], parkBuf := [],
    bellMap := [], pktCopies := [], kernels := [], convoys := [], groups := [], acqQ := [], dist := [], waves := [],
    lanes := [], owed := [], ops := [], tasks := [], tiles := [], mowed := [], mcount := [], starve := [],
    flows := [], frames := [], breakout := 16, ports := List.replicate 16 ⟨false, false⟩, links := List.replicate 16 Link.fresh, rdvs := [],
    counts := [], epochs := List.replicate 16 0, wishes := [], placed := [], power := .d0, boot := Boot.fresh, msix := [],
    out := [] }

end Sys2Proof.Machine
end

