-- ==== Sys2Proof/Machine/Operands.lean ====
section
/-! DEFINITION. Operands: thread masks, register reads, the expansion of immediates (R24), guards (R27, R28) and the registers that
an instruction reads and writes. -/

namespace Sys2Proof.Machine

/-! ### Thread masks -/

/-- The number whose bit `t` below `n` is `f t`. -/
def natMask (f : Nat → Bool) : Nat → Nat
  | 0 => 0
  | n + 1 => natMask f n + (if f n then 2 ^ n else 0)

/-- The mask of the threads that satisfy a test. -/
def maskOf (f : Nat → Bool) : Word := BitVec.ofNat 32 (natMask f 32)

/-- The threads of a mask, ascending. -/
def lanesOf (m : Word) : List Nat := (List.range 32).filter fun t => m.getLsbD t

/-- The mask of a list of threads. -/
def maskOfList (l : List Nat) : Word := maskOf fun t => l.contains t

/-- The lowest-numbered thread of a mask; 32 when the mask is empty. -/
def lowest (m : Word) : Nat := (lanesOf m).headD 32

/-- The number of threads of a mask. -/
def popMask (m : Word) : Nat := (lanesOf m).length

/-! ### Registers -/

/-- Key of a vector register of a thread. -/
def vkey (r t : Nat) : Nat := r * 32 + t

/-- A vector register of a thread. -/
def Wave.vreg (w : Wave) (r t : Nat) : Word := sget 0 w.v (vkey r t)

/-- A pair of vector registers, the even one in the low half (R68). -/
def Wave.vpair (w : Wave) (r t : Nat) : DWord := w.vreg (r + 1) t ++ w.vreg r t

/-- Writing a vector register of a thread, which ends an uncorrectable error in it (log 37). -/
def Wave.setV (w : Wave) (r t : Nat) (x : Word) : Wave :=
  { w with v := sset 0 w.v (vkey r t) x, badV := w.badV.filter (· != vkey r t) }

/-- A predicate's mask over the wave's threads; p7 reads as true in every thread (R123). -/
def Wave.pred (w : Wave) (n : Nat) : Word := if n = 7 then 0xFFFFFFFF else sget 0 w.p n

/-- Writing a predicate in the threads of a mask; a write to p7 is discarded (R25). -/
def Wave.setP (w : Wave) (n : Nat) (m v : Word) : Wave :=
  if n = 7 then w else { w with p := sset 0 w.p n ((w.pred n &&& ~~~m) ||| (v &&& m)) }

/-- A scalar register of a split. -/
def Split.sreg (sp : Split) (r : Nat) : Word := sget 0 sp.s r

/-- A scalar pair (R68). -/
def Split.spair (sp : Split) (r : Nat) : DWord := sp.sreg (r + 1) ++ sp.sreg r

/-- Writing a scalar register, which ends an uncorrectable error in it (log 37). -/
def Split.setS (sp : Split) (r : Nat) (x : Word) : Split :=
  { sp with s := sset 0 sp.s r x, badS := sp.badS.filter (· != r) }

/-- Writing a scalar register or an even pair. -/
def Split.setSW (sp : Split) (r : Nat) (wide : Bool) (x : Nat) : Split :=
  let sp := sp.setS r (BitVec.ofNat 32 x)
  if wide then sp.setS (r + 1) (BitVec.ofNat 32 (x / 2 ^ 32)) else sp

/-- Writing a vector register or an even pair of a thread. -/
def Wave.setVW (w : Wave) (r : Nat) (wide : Bool) (t x : Nat) : Wave :=
  let w := w.setV r t (BitVec.ofNat 32 x)
  if wide then w.setV (r + 1) t (BitVec.ofNat 32 (x / 2 ^ 32)) else w

/-! ### The issuing instruction -/

/-- An instruction at issue: the wave and split as they stand then, the opcode and fields, and the enabled threads (R109).
A held instruction's wave shows the latches that it read at its first attempt (R35). -/
structure Issue where
  w  : Wave
  sp : Split
  op : Op
  e  : Enc
  en : Word

/-- The length in words (R15). -/
def Issue.len (i : Issue) : Nat := match i.e.form with | .base => 1 | .literal => 3 | .extended => 3 | .block => 7

/-- `IMM18` sign-extended to a width, as a code. -/
def immSx (e : Enc) (w : Nat) : Nat := wrapInt w e.imm.toInt

/-- The expansion of `IMM18` for a floating `TYPE` (R24). -/
def immFlt (e : Enc) (ty : Nat) : Nat :=
  let x := e.imm.toNat
  match ty with
  | 0 => x * 2 ^ 14 % 2 ^ 32
  | 1 | 2 => x % 2 ^ 16 * 0x10001
  | 3 | 4 => x % 2 ^ 8 * 0x1010101
  | _ => x % 2 ^ 4 * 0x11111111

/-- The expansion of `IMM18` for an instruction's operands by its `TYPE` (R24), which is in the table of the destination's kind
on `CVT` (R62) and in the floating table for the floating modes of `REDW` and `SCANW`. -/
def Issue.imm (i : Issue) (wide : Bool) : Nat :=
  let flt := match i.op with
    | .cvt => cvtDstFlt i.e
    | .redw | .scanw => decide (6 ≤ (i.e.opx.extractLsb' 0 4).toNat)
    | op => (opSpec op).flt
  if flt then immFlt i.e i.e.ty.toNat else immSx i.e (if wide then 64 else 32)

/-- The value of a source for a thread, as a 32-bit or 64-bit number: a vector register or pair, a scalar register or pair,
a latch slot (R33), or a given immediate. -/
def Issue.src (i : Issue) (k : Kind) (n : BitVec 8) (wide : Bool) (imm : Nat) (t : Nat) : Nat :=
  match k with
  | .vec => if wide then (i.w.vpair n.toNat t).toNat else (i.w.vreg n.toNat t).toNat
  | .sca => if wide then (i.sp.spair n.toNat).toNat else (i.sp.sreg n.toNat).toNat
  | .lat =>
    let x := (sget 0 i.w.latch.slots (n.toNat * 32 + t)).toNat
    if wide then x else x % 2 ^ 32
  | .imm => imm

/-- Operand A, 32-bit or 64-bit. -/
def Issue.a (i : Issue) (wide : Bool) (t : Nat) : Nat := i.src i.e.ak i.e.a wide (i.imm wide) t

/-- Operand B; the literal in the literal form (R20). -/
def Issue.b (i : Issue) (wide : Bool) (t : Nat) : Nat :=
  if i.e.form = .literal then (if wide then i.e.lit.toNat else i.e.lit.toNat % 2 ^ 32)
  else i.src i.e.bk i.e.b wide (i.imm wide) t

/-- Operand B where an immediate is a plain signed number (a shift amount, an index, a scale, a byte offset). -/
def Issue.bNum (i : Issue) (t : Nat) : Nat :=
  if i.e.form = .literal then i.e.lit.toNat % 2 ^ 32 else i.src i.e.bk i.e.b false (immSx i.e 32) t

/-- Operand C. -/
def Issue.c (i : Issue) (wide : Bool) (t : Nat) : Nat := i.src i.e.ck i.e.c wide (i.imm wide) t

/-- A scalar source, once per split. -/
def Issue.sA (i : Issue) (wide : Bool) : Nat := i.src i.e.ak i.e.a wide (immSx i.e (if wide then 64 else 32)) 0
def Issue.sB (i : Issue) (wide : Bool) : Nat :=
  if i.e.form = .literal then (if wide then i.e.lit.toNat else i.e.lit.toNat % 2 ^ 32)
  else i.src i.e.bk i.e.b wide (immSx i.e (if wide then 64 else 32)) 0
def Issue.sC (i : Issue) (wide : Bool) : Nat := i.src i.e.ck i.e.c wide (immSx i.e (if wide then 64 else 32)) 0

/-- The 64-bit integer types make pairs. -/
def Issue.wideTy (i : Issue) : Bool := (opSpec i.op).wide.contains i.e.ty.toNat

/-! ### Guards -/

/-- The threads of a split whose guard is true (R27). -/
def guardMask (e : Enc) (w : Wave) (m : Word) : Word :=
  let p := w.pred e.pg.toNat
  m &&& (if e.pn then ~~~p else p)

/-- Opcodes whose guard is taken per thread (R54, R143, R134): units V, Q and M, and these engine opcodes. The others
execute once for the split (R28). -/
def perThread (op : Op) : Bool :=
  match (opSpec op).unit with
  | .lane | .queue => true
  | .memory => !(op == .sld || op == .sst || op == .xlate || op == .fencesc)
  | .engine => op == .gath || op == .trace || op == .rwr || op == .rrd || op == .rwrf || op == .ratm
  | .scalar => op == .pand || op == .por || op == .pxor || op == .pnot || op == .pmov
  | .control => op == .exit

/-- Opcodes whose guard field does not gate them: `NOP` ignores it (R57). -/
def ignoresGuard (op : Op) : Bool := op == .nop

/-! ### Registers that an instruction reads and writes -/

/-- Ranges (first number, count) of the vector and scalar registers that an instruction reads and writes. -/
structure Uses where
  vr : List (Nat × Nat)
  vw : List (Nat × Nat)
  sr : List (Nat × Nat)
  sw : List (Nat × Nat)

/-- The range that a source names, given how many registers it holds. -/
def srcUse (sl : Slot) (k : Kind) (n : BitVec 8) (cnt : Nat) : List (Nat × Nat) × List (Nat × Nat) :=
  match k with
  | .vec => if sl.base = .num then ([], []) else ([(n.toNat, cnt)], [])
  | .sca => ([], [(n.toNat, cnt)])
  | _ => ([], [])

/-- Registers per 4 bytes of an access (R61). -/
def szRegs (sz : Nat) : Nat := max 1 (szBytes sz / 4)

/-- The number of registers of operand A, B and C, beyond the pair rule of the slots. -/
def countA (op : Op) (e : Enc) (dflt : Nat) : Nat :=
  match op with
  | .ld | .st | .ldfe | .stfe | .pref | .cinv | .cwb => if e.ty = 2 then 2 else 1
  | .stn4 | .atom | .red => if e.space = 0 then 2 else 1
  | .sld | .sst => if e.space = 0 then 2 else 1
  | .pkmx => mxCount e.opx.toNat
  | .pkq4 => 8
  | .rsvset => 4
  | .trace => 8
  | .cvt => if cvtSrcWide e then 2 else 1
  | .redw | .scanw => if decide (6 ≤ (e.opx.extractLsb' 0 4).toNat) then 1 else dflt
  | .qwait => if e.opx = 1 then 2 else 1
  | _ => dflt
def countB (op : Op) (e : Enc) (dflt : Nat) : Nat :=
  match op with
  | .ld | .ldfe | .pref | .cinv | .cwb => if e.space = 0 && e.ty = 0 then 2 else 1
  | .st | .stfe => szRegs e.sz
  | .atom | .red => if atomWide e then 2 else 1
  | .cvt => if cvtCD e = 2 * cvtCA e && cvtSrcWide e then 2 else 1
  | .cpy | .cpyq => dflt
  | _ => dflt
def countC (op : Op) (e : Enc) (dflt : Nat) : Nat :=
  match op with
  | .st | .stfe => if e.space = 0 && e.ty = 0 then 2 else 1
  | .atom => if atomWide e then 2 else 1
  | .cpy => 5
  | .cpyq => 4
  | _ => dflt

/-- The number of registers of the destination. -/
def countD (op : Op) (e : Enc) (dflt : Nat) : Nat :=
  match op with
  | .ld | .ldfe => szRegs e.sz
  | .atom => if atomWide e then 2 else 1
  | .upmx => mxCount e.opx.toNat
  | .upq4 => 8
  | .rsvget => 4
  | .cvt => if cvtDstWide e then 2 else 1
  | .redw | .scanw => if decide (6 ≤ (e.opx.extractLsb' 0 4).toNat) then 1 else dflt
  | .movs => if e.opx = 8 || e.opx = 9 then 2 else 1
  | .dlget => if e.opx = 1 then 1 else 2
  | .frmst => if e.opx = 2 then 2 else 1
  | .qstat => if e.opx = 1 || e.opx = 2 || e.opx = 3 then 2 else 1
  | .lstat => if e.opx = 2 then 2 else 1
  | .trace | .hitld => 6
  | .csrrd => match csrRow e.csr with | some (_, true, _) => 2 | _ => 1
  | _ => dflt

/-- Whether the operands of an opcode are present: an absent Q of a store, the new value of a non-`.cas` `ATOM`, and the
divisor of a non-`DIV` `SFQ` are not registers (R169, R205, R212). -/
def presentB (op : Op) (e : Enc) : Bool :=
  match op with
  | .sfq => e.opx = 3 || e.opx = 19
  | .cvt => cvtCA e != cvtCD e
  | _ => true
def presentC (op : Op) (e : Enc) : Bool :=
  match op with
  | .st | .stfe => !absent e.ck e.c
  | .atom => e.opx = 7
  | _ => e.form != .base && e.form != .literal

/-- The scalar registers that a parameter block substitutes (R41, R42): words P1 to P3, and `SREG` of P0 where a count is
all ones, which the block's own reader decides. -/
def blockUses (op : Op) (e : Enc) : List (Nat × Nat) :=
  if e.form != .block then [] else
  let f (p : Word) : List (Nat × Nat) := if p.extractLsb' 24 8 = 0xFF then [((p.extractLsb' 0 7).toNat, 1)] else []
  let p0 := if e.p0.extractLsb' 25 7 != 0 then [((e.p0.extractLsb' 25 7).toNat, 1)] else
    (if blockP0Counts op e.p0 then [(0, 1)] else [])
  p0 ++ f e.p1 ++ f e.p2 ++ f e.p3
where
  /-- A count of P0 is all ones with `SREG` 0, so that s0 supplies it. -/
  blockP0Counts (op : Op) (p : Word) : Bool :=
    match op with
    | .cpy | .cpyq => p.extractLsb' 12 13 = 0x1FFF || p.extractLsb' 0 12 = 0xFFF
    | .mpost => p.extractLsb' 14 11 = 0x7FF
    | .seedscan => p.extractLsb' 8 17 = 0x1FFFF
    | .seedgen => p.extractLsb' 13 12 = 0xFFF
    | _ => false

/-- The registers that an instruction reads and writes (R25, R111). -/
def usesOf (op : Op) (e : Enc) : Uses :=
  let sp := opSpec op
  let cnt (p : PairRule) : Nat := if mustPair p sp.wide (pairType op e) then 2 else 1
  let ua := srcUse sp.sa e.ak e.a (countA op e (cnt sp.sa.pair))
  let ub := if e.form != .literal && presentB op e then srcUse sp.sb e.bk e.b (countB op e (cnt sp.sb.pair)) else ([], [])
  let uc := if presentC op e then srcUse sp.sc e.ck e.c (countC op e (cnt sp.sc.pair)) else ([], [])
  let dn := countD op e (cnt sp.dpair)
  let vd := if sp.dk = .vec && !e.nw then [(e.d.toNat, dn)] else []
  let sd := if sp.dk = .sca then [(e.d.toNat, dn)] else []
  let keepD := if op = .cvt && decide (2 * cvtCA e < cvtCD e) then [(e.d.toNat, 1)] else []
  let csrS := if op = .csrwr then
      [((e.d.extractLsb' 0 7).toNat, match csrRow e.csr with | some (_, true, _) => 2 | _ => 1)] else []
  let loopS := if op = .loop then [(e.d.toNat, 1)] else []
  let ctl := sp.unit = .control && !(op = .brx || op = .callx || op = .ret)
  let xset := op = .xset
  let vr := ua.1 ++ ub.1 ++ uc.1 ++ keepD
  let sr := (if ctl then [] else ua.2 ++ ub.2 ++ uc.2) ++ csrS ++ loopS ++ blockUses op e
  { vr := if ctl || xset then [] else vr, vw := vd, sr, sw := sd }

/-- The predicates that an instruction reads or writes (R25, R111): its guard's, and those that its operands name. -/
def predUse (op : Op) (e : Enc) : List Nat :=
  let sp := opSpec op
  let d := if sp.dk = .pred then [e.d.toNat] else []
  let named : List Nat :=
    match op with
    | .brc => [e.d.toNat % 8]
    | .sel | .ssel => [e.c.toNat]
    | .shfl | .pxl => if e.form = .base then [] else [e.c.toNat]
    | .vote | .ballot | .pnot => [e.a.toNat]
    | .pmov => if e.ak = .sca then [] else [e.a.toNat]
    | .pand | .por | .pxor => [e.a.toNat, e.b.toNat]
    | _ => []
  ((if ignoresGuard op then [] else [e.pg.toNat]) ++ d ++ named).filter fun k => k != 7

/-- Two ranges of numbers meet. -/
def rangesMeet (a b : Nat × Nat) : Bool := decide (a.1 < b.1 + b.2) && decide (b.1 < a.1 + a.2)

/-- Some range of a list meets a range. -/
def meetsAny (l : List (Nat × Nat)) (r : Nat × Nat) : Bool := l.any (rangesMeet r)

/-- The highest vector register number that an instruction names is within the allotment (R25). -/
def vecInBounds (u : Uses) (regs : Nat) : Bool := (u.vr ++ u.vw).all fun r => decide (r.1 + r.2 ≤ regs)

end Sys2Proof.Machine
end

