-- ==== Sys2Proof/Machine/Flags.lean ====
section
/-! DEFINITION. The sticky flags of `fpstat` (R83, R84), the comparisons of R60, and the write of a vector result with its flags and
its latch (R33, R34, R146). -/

namespace Sys2Proof.Machine

/-- Setting flags in a thread's `fpstat`; nothing but `fpset` clears one (R84). -/
def Wave.raise (w : Wave) (t : Nat) (fl : Byte) : Wave :=
  { w with fp := sset 0 w.fp t (sget 0 w.fp t ||| fl) }

/-- The integer comparison that `OPX` 0 to 5 selects (R60): eq, ne, lt, le, gt, ge. -/
def icmpHolds (cc : Nat) (a b : Int) : Bool :=
  match cc with
  | 0 => decide (a = b)
  | 1 => decide (a ≠ b)
  | 2 => decide (a < b)
  | 3 => decide (a ≤ b)
  | 4 => decide (a > b)
  | _ => decide (a ≥ b)

/-- Doing something for each thread of a list, ascending (R7). -/
def forEach {α : Type} (l : List Nat) (f : α → Nat → α) (x : α) : α := l.foldl f x

/-- Writing a latch slot (R33). -/
def Wave.setLatch (w : Wave) (b t : Nat) (x : Nat) : Wave :=
  { w with latch := { w.latch with
      slots := sset 0 w.latch.slots (b * 32 + t) (BitVec.ofNat 64 x)
      bad := w.latch.bad.filter (· != b * 32 + t) } }

/-- Making a latch ready for a write: if it is invalid every slot becomes zero; then it is valid (R34). -/
def Wave.openLatch (w : Wave) (b : Nat) : Wave :=
  if w.latch.valid.getLsbD b then w
  else { w with latch := { slots := sfilter (fun k => k / 32 != b) w.latch.slots
                           valid := w.latch.valid ||| (1#4 <<< b)
                           bad := w.latch.bad.filter fun k => k / 32 != b } }

/-- Invalidating all four latches (R35). -/
def Wave.dropLatches (w : Wave) : Wave := { w with latch := { w.latch with valid := 0 } }

/-- A vector result of one register or pair per enabled thread, with flags: the register write unless `NW`, the latch
write when `LE`, and the flags (R34, R84, R146). -/
def Wave.vecResult (w : Wave) (e : Enc) (wide : Bool) (en : Word) (f : Nat → FRes) : Wave :=
  let w := if e.le then w.openLatch e.ld.toNat else w
  forEach (lanesOf en) (fun w t =>
    let r := f t
    let w := if e.nw then w else w.setVW e.d.toNat wide t r.bits
    let w := if e.le then w.setLatch e.ld.toNat t (if wide then r.bits % 2 ^ 64 else r.bits % 2 ^ 32) else w
    if r.fl = 0 then w else w.raise t r.fl) w

/-- A vector result of several 32-bit registers per enabled thread, with flags; a latch receives the first (R146). -/
def Wave.multiResult (w : Wave) (e : Enc) (en : Word) (f : Nat → List Nat × Byte) : Wave :=
  let w := if e.le then w.openLatch e.ld.toNat else w
  forEach (lanesOf en) (fun w t =>
    let r := f t
    let w := if e.nw then w else
      ((List.range r.1.length).zip r.1).foldl (fun w kx => w.setV (e.d.toNat + kx.1) t (BitVec.ofNat 32 kx.2)) w
    let w := if e.le then w.setLatch e.ld.toNat t (r.1.headD 0 % 2 ^ 32) else w
    if r.2 = 0 then w else w.raise t r.2) w

end Sys2Proof.Machine
end

