-- ==== Sys2Proof/Machine/Ops.lean ====
section
/-! DEFINITION. The named operations that every meaning uses: the objects of the state by number, splits and their stacks (R115-R121),
latches (R35), taking an exception and returning from one (R332-R339), and the run of one instruction (R44, R45, R111). -/

namespace Sys2Proof.Machine

/-- The outcome of a step. -/
abbrev Out := Host.Outcome State Fault Refusal

/-- A step of another agent: it takes place where its condition holds, and elsewhere nothing happens (log 84). -/
def made (s : State) (o : Option State) : Out := .next (o.getD s)

/-! ### Objects by number -/

/-- A wave by its unique number. -/
def State.wave? (s : State) (u : Nat) : Option Wave := s.waves.find? fun w => w.uid == u

/-- Changing a wave. -/
def State.modWave (s : State) (u : Nat) (f : Wave → Wave) : State :=
  { s with waves := s.waves.map fun w => if w.uid = u then f w else w }

/-- A split of a wave by its number. -/
def Wave.split? (w : Wave) (n : Nat) : Option Split := w.splits.find? fun p => p.num == n

/-- Changing a split of a wave. -/
def Wave.modSplit (w : Wave) (n : Nat) (f : Split → Split) : Wave :=
  { w with splits := w.splits.map fun p => if p.num = n then f p else p }

/-- Changing a split. -/
def State.modSplit (s : State) (u n : Nat) (f : Split → Split) : State := s.modWave u fun w => w.modSplit n f

/-- A context slot. -/
def State.ctx (s : State) (c : Nat) : Ctx := s.ctxs.getD c Ctx.fresh

/-- Changing a context slot. -/
def State.modCtx (s : State) (c : Nat) (f : Ctx → Ctx) : State :=
  { s with ctxs := s.ctxs.modify c f }

/-- A group by its unique number. -/
def State.group? (s : State) (u : Nat) : Option Group := s.groups.find? fun g => g.uid == u

/-- Changing a group. -/
def State.modGroup (s : State) (u : Nat) (f : Group → Group) : State :=
  { s with groups := s.groups.map fun g => if g.uid = u then f g else g }

/-- A convoy by its unique number. -/
def State.convoy? (s : State) (u : Nat) : Option Convoy := s.convoys.find? fun c => c.uid == u

/-- A kernel by its unique number. -/
def State.kernel? (s : State) (u : Nat) : Option Kernel := s.kernels.find? fun k => k.uid == u

/-- Changing a kernel. -/
def State.modKernel (s : State) (u : Nat) (f : Kernel → Kernel) : State :=
  { s with kernels := s.kernels.map fun k => if k.uid = u then f k else k }

/-- A queue by its number. -/
def State.queue? (s : State) (n : Nat) : Option Queue := s.queues.find? fun q => q.num == n

/-- Changing a queue. -/
def State.modQueue (s : State) (n : Nat) (f : Queue → Queue) : State :=
  { s with queues := s.queues.map fun q => if q.num = n then f q else q }

/-- A timeline of a wave. -/
def Wave.tl (w : Wave) (n : Nat) : Timeline := w.tls.getD n ⟨0, [], [], []⟩

/-- Changing a timeline of a wave. -/
def Wave.modTl (w : Wave) (n : Nat) (f : Timeline → Timeline) : Wave := { w with tls := w.tls.modify n f }

/-- The completed count of a timeline (R221): the largest n such that every operation numbered n or below is complete. -/
def Timeline.completed (t : Timeline) : Nat := t.open_.foldl (fun m k => min m (k - 1)) t.posted

/-- Raising an MSI-X vector; events of a pending vector coalesce (R441). -/
def State.raiseMsix (s : State) (v : Nat) : State := if s.msix.contains v then s else { s with msix := s.msix ++ [v] }

/-- The notice vector of a context (R441). -/
def State.raiseMsixOf (s : State) (c : Nat) : State := s.raiseMsix (2 * c + 1)

/-- A fresh unique number. -/
def State.freshUid (s : State) : Nat × State := (s.nextUid, { s with nextUid := s.nextUid + 1 })

/-- A fresh free value (log 2). -/
def State.freeDWord (s : State) : DWord × State := (Config.freeValue s.freeCtr, { s with freeCtr := s.freeCtr + 1 })

/-- The wave runs in supervisor mode (R324). -/
def State.waveSup (s : State) (w : Wave) : Bool := (s.ctx w.ctx).ksup || w.trap.isSome

/-- The wave has exited (R134). -/
def Wave.exited (w : Wave) : Bool := w.splits.isEmpty

/-- The wave is PARKED: no split can go on before a fault is serviced (R113). -/
def Wave.parked (w : Wave) : Bool :=
  !w.splits.isEmpty && w.splits.all fun p => match p.st with
    | .parked .ready | .parked .failed => false
    | .parked _ => true
    | _ => false

/-- The wave is halted, parked or in a trap, for the register window (R113, R185). -/
def Wave.windowOpen (w : Wave) : Bool := w.halted || w.parked || w.trap.isSome

/-- The host reaches registers other than the management registers (R446, R448). -/
def State.answers (s : State) : Bool := s.power == .d0 && s.boot.phase == 3

/-- Saturating PT arithmetic (R94). -/
def ptAdd (a b : DWord) : DWord := if a.toNat + b.toNat < 2 ^ 64 then a + b else never
def ptSub (a b : DWord) : DWord := if b.toNat ≤ a.toNat then a - b else 0

/-- A PT value is reached (R94): "never" is not. -/
def State.reached (s : State) (v : DWord) : Bool := v != never && decide (v.toNat ≤ s.pt.toNat)

/-! ### Splits -/

/-- The listed variable-latency writes of the wave are complete. -/
def Wave.writesDone (w : Wave) (seqs : List Nat) : Bool := w.pend.all fun p => p.mask == 0 || !seqs.contains p.seq

/-- A split may merge: READY or in JWAIT, without having begun the instruction at its PC, and with an empty stack
(R117). A split that the scoreboard held is READY again when the writes are complete (R114). -/
def Wave.mergeable (w : Wave) (p : Split) : Bool :=
  p.stack.isEmpty && !p.begun && p.replay.isNone &&
  (match p.st with | .ready | .jwait _ => true | .blocked (.score l) => w.writesDone l | _ => false)

/-- An outstanding write no longer reaches some copies of the scalar registers: a split that has merged or ended, or a
handler that has returned (R118, R339; log 83). -/
def Pend.forgetCopies (p : Pend) (l : List Nat) : Pend := { p with sps := p.sps.filter fun k => !l.contains k }

/-- An outstanding write reaches one more copy of the scalar registers that it reaches in another (R116, R332; log 83). -/
def Pend.addCopy (p : Pend) (from_ to_ : Nat) : Pend := if p.sps.contains from_ then { p with sps := p.sps ++ [to_] } else p

/-- The number of the handler's copy of the scalar registers (R332). -/
def handlerCopy : Nat := 4

/-- The copy of the scalar registers that the instructions of a split name now. -/
def Wave.copyOf (w : Wave) (n : Nat) : Nat := if w.trap.isSome then handlerCopy else n

/-- Changing a copy of the scalar registers: of a split, of the split saved under a handler, or of the handler. -/
def Wave.modCopy (w : Wave) (k : Nat) (f : Split → Split) : Wave :=
  match w.trap with
  | none => w.modSplit k f
  | some r =>
    if k = handlerCopy then w.modSplit r.spl f
    else if k = r.spl then { w with trap := some { r with saved := f r.saved } }
    else w.modSplit k f

/-- The union of masks. -/
def unionMask (l : List Split) : Word := l.foldl (fun m p => m ||| p.mask) 0

/-- Merging every mergeable split at the PC of split `n` (R117, R118). Nothing happens in a handler, which runs as a
single split (R332). -/
def Wave.mergeAt (w : Wave) (n : Nat) : Wave :=
  if w.trap.isSome then w else
  match w.split? n with
  | none => w
  | some x =>
    let here := w.splits.filter fun p => w.mergeable p && p.pc == x.pc
    if !w.mergeable x || here.length < 2 then w
    else
      let keep := here.foldl (fun (b : Split) p => if lowest p.mask < lowest b.mask then p else b) x
      let differ := here.any fun p => p.s != keep.s || p.x != keep.x || p.segw != keep.segw
      let gone := (here.map (·.num)).filter fun k => k != keep.num
      let merged : Split := { keep with mask := unionMask here, st := .ready, held := none }
      let rest : List Split := w.splits.filter fun (p : Split) => p.num == keep.num || !here.any fun q => q.num == p.num
      let sps : List Split := rest.map fun (p : Split) => if p.num = keep.num then merged else p
      let w' : Wave := { w with splits := sps, udiv := w.udiv || differ, pend := w.pend.map fun (q : Pend) => q.forgetCopies gone }
      w'.dropLatches

/-- One check of a split's top stack entry at an issue boundary (R120): the new split, and whether its last entry was
popped. None when the top entry does nothing. -/
def Split.stackStep (p : Split) : Option (Split × Bool) :=
  match p.stack with
  | [] => none
  | t :: r =>
    if p.pc != t.ja then none
    else if t.phase = 1 then
      some ({ p with mask := t.rest, pc := t.pc, stack := { t with phase := 2, done := p.mask } :: r }, false)
    else some ({ p with mask := p.mask ||| t.done, pc := t.ja, stack := r }, r.isEmpty)

/-- Checking a split's stack until nothing more happens; each entry acts at most twice. -/
def Split.stackRun (p : Split) : Nat → Split × Bool
  | 0 => (p, false)
  | fuel + 1 => match p.stackStep with
    | none => (p, false)
    | some (q, popped) =>
      let r := q.stackRun fuel
      (r.1, popped || r.2)

/-- The issue boundary of a split (R120): its stack is checked, and it may merge when its last entry is popped (R117). -/
def Wave.boundary (w : Wave) (n : Nat) : Wave :=
  match w.split? n with
  | none => w
  | some p =>
    let r := p.stackRun (2 * p.stack.length)
    let w := w.modSplit n fun _ => r.1
    if r.2 then w.mergeAt n else w

/-- The lowest-PC JWAIT split, when every live split is in JWAIT (R119). -/
def Wave.joinRelease? (w : Wave) : Option (Split × Nat) :=
  let js := w.splits.filterMap fun p => match p.st with | .jwait len => some (p, len) | _ => none
  if js.length < w.splits.length then none
  else match js with
    | [] => none
    | x :: r => some (r.foldl (fun (b p : Split × Nat) =>
        if p.1.pc.toNat < b.1.pc.toNat || (p.1.pc == b.1.pc && p.1.num < b.1.num) then p else b) x)

/-- Releasing one split from JWAIT when every live split waits there (R119). -/
def Wave.releaseJoin (w : Wave) : Wave :=
  match w.joinRelease? with
  | none => w
  | some (p, len) =>
    (w.modSplit p.num fun p => { p with st := .ready, pc := p.pc + BitVec.ofNat 64 (4 * len), begun := false }).boundary
      p.num

/-- Ending a split's threads of a mask (R134): an empty split follows its stack (R120) or ends. -/
def Split.endThreads (p : Split) (m : Word) : Option Split :=
  let left := p.mask &&& ~~~m
  if left != 0 then some { p with mask := left }
  else match p.stack with
    | [] => none
    | t :: r =>
      if t.phase = 1 then some { p with mask := t.rest, pc := t.pc, stack := r }
      else some { p with mask := t.done, pc := t.ja, stack := r }

/-- The lowest free split number (R115). -/
def Wave.freeSplit (w : Wave) : Nat :=
  (List.range 4).find? (fun k => !w.splits.any fun p => p.num == k) |>.getD 4

/-- Completing the instruction of a split that an event has finished (R114): the PC advances past it. -/
def completeSplit (s : State) (u n len : Nat) : State :=
  s.modWave u fun w =>
    (w.modSplit n fun p => { p with st := .ready, replay := none, held := none, begun := false,
                                    pc := p.pc + BitVec.ofNat 64 (4 * len) }).boundary n

/-! ### Results of a meaning -/

/-- A trap to take: cause, code, the thread mask or operation number (`num`), the address, whether `ERET` executes the
instruction again (R336), and for what accesses, under the number of the instruction (R205, R218). -/
structure TrapInfo where
  cause : Cause
  code  : Nat
  mask  : DWord
  addr  : Nat
  rpl   : Bool
  num   : Bool := false
  again : List Acc := []
  ins   : Option Nat := none
  deriving DecidableEq, Repr

/-- What a meaning does with the issuing split. -/
inductive Res where
  /-- Complete: the PC advances by the instruction's length. -/
  | done (s : State)
  /-- Complete with a control transfer. -/
  | jump (s : State) (target : DWord)
  /-- The instruction traps. -/
  | trap (t : TrapInfo) (s : State)
  /-- The split waits; the instruction is executed again when the wait is over, or completed by an event. -/
  | block (w : Wait) (s : State)
  /-- The split parks with its replay (R218), on one or several services. -/
  | park (p : List ParkOn) (r : Replay) (s : State)
  /-- The meaning has placed the issuing split itself, or the split has ended. -/
  | gone (s : State)

/-- A trap whose record names no failing threads (R336): the mask is the active mask. -/
def Issue.plainTrap (i : Issue) (c : Cause) (addr : Nat := 0) (code : Nat := 0) : TrapInfo :=
  { cause := c, code, mask := i.sp.mask.setWidth 64, addr, rpl := false }

/-- A trap of a set of threads with no effect and no replay. -/
def maskTrap (c : Cause) (m : Word) (addr : Nat) (rpl : Bool) : TrapInfo :=
  { cause := c, code := 0, mask := m.setWidth 64, addr, rpl }

/-! ### Traps -/

/-- The cause codes of R65. -/
def Cause.code : Cause → Nat
  | .illegal => 1 | .priv => 2 | .latch => 3 | .bounds => 4 | .align => 5 | .page => 6 | .perm => 7 | .ecc => 8
  | .space => 9 | .team => 10 | .format => 11 | .stream => 12 | .barrier => 13 | .remote => 14 | .trap => 15
  | .bkpt => 16 | .watch => 17

/-- The layout of `tcause` and `xcause` (R336). -/
def causeWord (c : Cause) (code len : Nat) (rpl : Bool) (spl : Nat) : Word :=
  BitVec.ofNat 32 (code * 2 ^ 18 + len * 2 ^ 15 + (if rpl then 2 ^ 14 else 0) + spl * 2 ^ 12 + c.code)

/-- A context begins to halt because of a fault (R325, R334, R335). -/
def Ctx.haltForFault (c : Ctx) : Ctx :=
  match c.st with
  | .running => { c with st := .halting, why := .fault }
  | .halting => { c with why := .fault }
  | _ => c

/-- A fault of the context (R334): the first one leaves its record; the faulting split stops at its instruction, and its
wave issues nothing before RESUME. -/
def contextFault (s : State) (w : Wave) (sp : Split) (len : Nat) (t : TrapInfo) : State :=
  let c := s.ctx w.ctx
  let s := s.modWave w.uid fun w => { w with stuck := true }
  if c.xsplit.isSome then s.modCtx w.ctx Ctx.haltForFault
  else s.modCtx w.ctx fun c =>
    { c.haltForFault with
      xcause := causeWord t.cause t.code len t.rpl sp.num
      xpc := sp.pc, xmask := t.mask, xnum := t.num, xaddr := BitVec.ofNat 64 t.addr, xsplit := some (w.uid, sp.num)
      xagain := (t.again, t.ins) }

/-- Entering the handler (R332, R336): the trapping split is saved whole with the wave's latches, the trap record is filled,
and the handler runs as a single split with the trapping split's mask and copies of its scalar and index registers. -/
def enterHandler (s : State) (w : Wave) (sp : Split) (len : Nat) (t : TrapInfo) : State :=
  s.modWave w.uid fun w =>
    let keep := { sp with held := none }
    let rec_ : TrapRec :=
      { cause := t.cause, code := t.code, len, rpl := t.rpl, spl := sp.num, tpc := sp.pc, tmask := t.mask,
        taddr := BitVec.ofNat 64 t.addr, num := t.num, again := t.again, ins := t.ins, saved := keep, latch := w.latch }
    ({ w with trap := some rec_, pend := w.pend.map fun (p : Pend) => p.addCopy sp.num handlerCopy }.modSplit sp.num fun _ =>
      { keep with pc := (s.ctx w.ctx).handler, segw := 32, stack := [], st := .ready, replay := none, begun := false,
                  waiting := none, also := [] }).dropLatches

/-- The latches at the boundary before a split's instruction (R37): those that it has already read where it was held, invalid
where another split of the wave has issued since (R35; log 22). -/
def Split.boundaryLatch (p : Split) (now : LatchFile) : LatchFile :=
  match p.held with
  | none => now
  | some l => if p.latchOff then { l with valid := 0 } else l

/-- The latches that a held instruction has read are its wave's again: a trap leaves them as they were at the instruction
boundary (R37). -/
def State.unhold (s : State) (u : Nat) (p : Split) : State :=
  s.modWave u fun w => { w with latch := p.boundaryLatch w.latch }

/-- Taking a trap (R37, R332, R334): the handler when the context has one and the wave is not already in it; otherwise the
trap is a fault of the context. -/
def takeTrap (s : State) (w : Wave) (sp : Split) (len : Nat) (t : TrapInfo) : State :=
  let s := s.unhold w.uid sp
  if (s.ctx w.ctx).hen && w.trap.isNone then enterHandler s w sp len t else contextFault s w sp len t

/-- The state in which a split goes on at the instruction that it stood at (R113): an instruction that had begun to wait still
waits, or its wait is over. -/
def Split.resumed (p : Split) : SplitState :=
  match p.waiting, p.st with
  | some wt, _ => .blocked wt
  | none, .blocked wt => .blocked wt
  | _, _ => .ready

/-- The replay for the threads of a mask (R218, R339): with the addresses and data of the first issue (R205), unless the
handler has moved the PC to another instruction. -/
def replayFor (m : Word) (moved : Bool) (again : List Acc) (ins : Option Nat) : Option Replay :=
  if m = 0 then none
  else if moved || again.isEmpty then some { mask := m, accs := none, pend := none }
  else some { mask := m, accs := some (again.filter fun a => m.getLsbD a.thread), pend := ins }

/-- Returning from the handler (R339): the saved split is restored with its latches at `tpc`; with `RPL` the instruction
there is executed again for the `tmask` threads only, and for an empty mask it counts as completed. A split that trapped before
its instruction was executed, and has not been moved, goes on in its saved state (R113). -/
def returnFromTrap (s : State) (w : Wave) (r : TrapRec) : State :=
  s.modWave w.uid fun w =>
    let m := r.tmask.setWidth 32
    let pc := if r.rpl && m = 0 then r.tpc + BitVec.ofNat 64 (4 * r.len) else r.tpc
    let stands := !r.rpl && r.tpc == r.saved.pc
    let replay : Option Replay :=
      if r.rpl then replayFor m (r.tpc != r.saved.pc) r.again r.ins else if stands then r.saved.replay else none
    ({ w with trap := none, latch := r.latch, pend := w.pend.map fun (p : Pend) => p.forgetCopies [handlerCopy] }.modSplit r.spl fun _ =>
      { r.saved with
        pc, replay, held := none, waiting := none, also := []
        st := if stands then r.saved.resumed else .ready
        begun := if stands then r.saved.begun else replay.isSome }).boundary r.spl

/-! ### The run of one instruction -/

/-- The wave and split that the state says are issuing. -/
def issuer (s : State) : Option (Wave × Split) :=
  match s.cur with
  | none => none
  | some (u, n) => match s.wave? u with
    | none => none
    | some w => match w.split? n with
      | none => none
      | some sp => some (w, sp)

/-- The enabled threads (R27, R28, R109): active, with a true guard, and within the replay mask (R218). A replay with the
values of its first issue (R205) has its threads' guards among them. -/
def enabledOf (op : Op) (e : Enc) (w : Wave) (sp : Split) : Word :=
  let m := match sp.replay with | none => sp.mask | some r => sp.mask &&& r.mask
  let again := match sp.replay with | some r => r.accs.isSome | none => false
  if ignoresGuard op || again then m else guardMask e w m

/-- The opcodes that invalidate the latches after reading their sources (R35): 0x70 to 0x7F, and the blocking list. -/
def dropsLatches (op : Op) : Bool :=
  (opSpec op).unit = .control ||
  match op with
  | .waitk | .tlwait | .acq | .bwait | .barw | .ldfe | .twait | .qwait | .fence | .fencesc | .twflush | .mpost | .aclr
  | .acld | .acst | .kstat | .qstat | .frmacq | .frmst | .rdvw => true
  | _ => false

/-- The vector registers that `LDX` and `STX` have checked on the scoreboard (R158). -/
def indexUse (i : Issue) : List (Nat × Nat) :=
  if i.op = .ldx || i.op = .stx then
    let x := (sget 0 i.sp.x (i.e.opx.extractLsb' 0 2).toNat).toNat
    if x / 256 % 256 = 0 then [] else [(x % 256, x / 256 % 256)]
  else []

/-- The reservoirs that an instruction reads, and that it writes (R378-R383). -/
def rsvRead (i : Issue) : List Nat :=
  match i.op with
  | .rsvu => [i.e.d.toNat]
  | .rsvm => [i.e.d.toNat, i.e.a.toNat]
  | .rsvf | .rsvget => [i.e.a.toNat]
  | _ => []
def rsvWritten (i : Issue) : List Nat :=
  match i.op with
  | .rsvi | .rsvu | .rsvm | .rsvset => [i.e.d.toNat]
  | _ => []

/-- Reservoirs are the top registers of the allotment (R375): four registers each, from the highest down. -/
def rsvUse (i : Issue) (l : List Nat) : List (Nat × Nat) := l.map fun n => (i.w.regs - 4 * (n + 1), 4)

/-- A reservoir that the instruction names does not exist (R375). -/
def rsvBad (i : Issue) : Bool := (rsvRead i ++ rsvWritten i).any fun n => decide (i.w.regs < 4 * (n + 1))

/-- The predicate that a variable-latency write writes beside its registers (R407). -/
def Pend.predDst (p : Pend) : Option Nat := match p.body with | .pxl c _ _ => some c | _ => none

/-- A variable-latency write meets an instruction's registers (R36, R111): vector registers and predicates of the wave, or
scalar registers of a copy that it reaches. -/
def pendMeets (u : Uses) (preds : List Nat) (copy : Nat) (p : Pend) : Bool :=
  (match p.predDst with | some c => preds.contains c | none => false) ||
  match p.dst with
  | .vec d n => meetsAny (u.vr ++ u.vw) (d, n)
  | .sca d n => p.sps.contains copy && meetsAny (u.sr ++ u.sw) (d, n)

/-- The scalar pairs that the substituted parameter block makes an instruction read: the bases of a copy in `glb`, and the
seed of a matrix operand (R226, R354). -/
def blockPairs (i : Issue) : List (Nat × Nat) :=
  let word (p : Word) : Word := if p.extractLsb' 24 8 = 0xFF then i.sp.sreg (p.extractLsb' 0 7).toNat else p
  match i.op with
  | .cpy | .cpyq =>
    (if (word i.e.p3).extractLsb' 22 2 = 0 then [(i.e.a.toNat, 2)] else []) ++
    (if (word i.e.p3).extractLsb' 20 2 = 0 then [(i.e.b.toNat, 2)] else [])
  | .mpost =>
    if (word i.e.p2).extractLsb' 30 2 = 2 then [(((word i.e.p2).extractLsb' 23 7).toNat, 2)] else []
  | _ => []

/-- The registers that an issuing instruction reads and writes (R25, R111). -/
def Issue.uses (i : Issue) : Uses :=
  let u := usesOf i.op i.e
  { u with sr := u.sr ++ blockPairs i, vr := u.vr ++ indexUse i ++ rsvUse i (rsvRead i), vw := u.vw ++ rsvUse i (rsvWritten i) }

/-- The outstanding writes whose registers the instruction touches (R111). -/
def scoreHeld (i : Issue) (w : Wave) : List Nat :=
  (w.pend.filter fun p => p.mask != 0 && !ownReplay i p &&
    pendMeets i.uses (predUse i.op i.e) (w.copyOf i.sp.num) p).map (·.seq)
where
  /-- The write that a replay itself completes does not hold it (R218). -/
  ownReplay (i : Issue) (p : Pend) : Bool := match i.sp.replay with | some r => r.pend == some p.seq | none => false

/-- A split of the wave is blocked in a `TLWAIT` that covers the operation of a number on a timeline. -/
def Wave.tlwaits (w : Wave) (tl num : Nat) : Bool :=
  w.splits.any fun p => match p.st with | .blocked (.timeline k n) => k == tl && decide (num ≤ n) | _ => false

/-- The copies into registers of the wave that an instruction names, by timeline and number, while a split of the wave is
blocked in a `TLWAIT` that covers them (R185). -/
def copyHeld (i : Issue) (w : Wave) : List (Nat × Nat) :=
  let u := i.uses
  (List.range w.tls.length).flatMap fun k =>
    (((w.tl k).regs.filter fun x => w.tlwaits k x.1 && meetsAny (u.vr ++ u.vw) (x.2, 1)).map fun x => (k, x.1)).eraseDups

/-- The instruction touches an unwaited register (R36). -/
def touchesUnwaited (i : Issue) (w : Wave) : Bool :=
  w.pend.any fun p => pendMeets i.uses (predUse i.op i.e) (w.copyOf i.sp.num) p

/-- A latch that the instruction reads is invalid (R38). -/
def latchBad (i : Issue) : Bool :=
  let bad (k : Kind) (n : BitVec 8) : Bool := k == .lat && !i.w.latch.valid.getLsbD n.toNat
  bad i.e.ak i.e.a || bad i.e.bk i.e.b || bad i.e.ck i.e.c

/-- The threads whose registers an instruction reads; `SHFL` may read those of any thread of the wave (R175). -/
def Issue.readers (i : Issue) : List Nat :=
  if i.op = .shfl then List.range 32 else lanesOf (if perThread i.op then i.en else i.sp.mask)

/-- A register or a latch slot that the instruction reads holds an uncorrectable error (R450). -/
def eccBad (i : Issue) : Bool :=
  let lat (k : Kind) (n : BitVec 8) (t : Nat) : Bool := k == .lat && i.w.latch.bad.contains (n.toNat * 32 + t)
  (i.w.badV != [] && i.readers.any fun t => i.uses.vr.any fun r => (List.range r.2).any fun k =>
    i.w.badV.contains (vkey (r.1 + k) t)) ||
  (i.sp.badS != [] && i.uses.sr.any fun r => (List.range r.2).any fun k => i.sp.badS.contains (r.1 + k)) ||
  (i.w.latch.bad != [] && i.readers.any fun t => lat i.e.ak i.e.a t || lat i.e.bk i.e.b t || lat i.e.ck i.e.c t)

/-- The mode check of R59. -/
def privBad (i : Issue) (sup : Bool) : Bool :=
  match i.op with
  | .csrwr | .halt | .twflush => !sup
  | .eret => i.w.trap.isNone
  | .csrrd => !sup && (match csrRow i.e.csr with | some (_, _, _, _, supOnly) => supOnly | none => false)
  | _ => false

/-- The traps that the encoding, the mode, the allotment and the latches decide, the first of R45's order. -/
def earlyTrap (s : State) (i : Issue) : Option Cause :=
  if (encErr i.op i.e).isSome || (i.op = .sfq && decide (16 ≤ i.e.opx.toNat) && !i.w.full) then some .illegal
  else if privBad i (s.waveSup i.w) then some .priv
  else if !vecInBounds (usesOf i.op i.e) i.w.regs || rsvBad i then some .bounds
  else if latchBad i then some .latch
  else none

/-- A wait at issue for room, after which the lane may issue other waves while the wave's latches lie in the latch store
(R36). -/
def Wait.leavesLane (wt : Wait) : Bool :=
  match wt with
  | .roomTl _ | .roomLink .. => true
  | _ => false

/-- A barrier wait that is over stays over when its instruction traps (R286): the arrival has been made. -/
def Split.overState (p : Split) : SplitState :=
  match p.st with
  | .blocked (.barrier ..) | .blocked .over => p.st
  | _ => .ready

/-- Placing the issuing split after a result. A trap leaves the latches as they were at the instruction boundary (R37); a
stall ends the run of consecutive issues (R127). -/
def finish (i : Issue) (r : Res) : State :=
  let u := i.w.uid
  let n := i.sp.num
  let clear (p : Split) : Split := { p with st := .ready, replay := none, held := none, begun := false, also := [] }
  match r with
  | .done s =>
    s.modWave u fun w => (w.modSplit n fun p => { clear p with pc := p.pc + BitVec.ofNat 64 (4 * i.len) }).boundary n
  | .jump s target =>
    s.modWave u fun w =>
      let w := (w.modSplit n fun p => { clear p with pc := target }).boundary n
      w.mergeAt n
  | .trap t s =>
    let s := s.modWave u fun w => { w with latch := i.w.latch }
    match s.wave? u with
    | none => s
    | some w => match w.split? n with
      | none => s
      | some p => takeTrap s w { p with st := i.sp.overState, replay := none, also := [] } i.len t
  | .block wt s =>
    s.modWave u fun w =>
      { w.modSplit n fun p =>
          { p with st := .blocked wt, held := some i.w.latch, latchOff := p.held.isSome && p.latchOff, issues := 0
                   begun := match wt with | .score _ | .copies _ => p.begun | _ => true } with
        stored := w.stored || wt.leavesLane }
  | .park pk rp s =>
    s.modWave u fun w =>
      { w.modSplit n fun p => { p with st := .parked (pk.headD .ready), also := pk.drop 1, replay := some rp, held := some i.w.latch,
                                          latchOff := p.held.isSome && p.latchOff, issues := 0 } with
        stored := true }
  | .gone s => s

/-- An instruction at issue: a held instruction sees the latches that it has already read (R35), and the enabled threads are
those of R27, R28 and R218. -/
def issueOf (op : Op) (e : Enc) (w : Wave) (sp : Split) : Issue :=
  { w := (match sp.held with | some l => { w with latch := l } | none => w), sp, op, e, en := enabledOf op e w sp }

/-- Running one instruction: the early traps, the scoreboard (R111), the latch invalidations (R35), the errors of what it reads
(R450), and the meaning. A held instruction keeps the latches that it read. -/
def runInstr (op : Op) (e : Enc) (s : State) (body : Issue → State → Res) : Out :=
  match issuer s with
  | none => .refused .noIssuer
  | some (w, sp) =>
    let i := issueOf op e w sp
    match earlyTrap s i with
    | some c => .next (finish i (.trap (i.plainTrap c) s))
    | none =>
      let s1 := if dropsLatches op || touchesUnwaited i w then s.modWave w.uid Wave.dropLatches else s
      match scoreHeld i w with
      | [] => match copyHeld i w with
        | [] => .next (finish i (if eccBad i then .trap (i.plainTrap .ecc) s1 else body i s1))
        | l => .next (finish i (.block (.copies l) s1))
      | l => .next (finish i (.block (.score l) s1))

/-- Running an instruction that executes once for the split (R28): with no enabled thread it only advances. -/
def runOnce (op : Op) (e : Enc) (s : State) (body : Issue → State → Res) : Out :=
  runInstr op e s fun i s => if i.en = 0 && !ignoresGuard op then .done s else body i s

/-! ### Writes of results -/

/-- Completing with a vector result (R34, R146). -/
def Issue.vec (i : Issue) (s : State) (wide : Bool) (f : Nat → FRes) : Res :=
  .done (s.modWave i.w.uid fun w => w.vecResult i.e wide i.en f)

/-- Completing with a predicate result in the enabled threads. -/
def Issue.predTo (i : Issue) (s : State) (n : Nat) (f : Nat → Bool) : Res :=
  .done (s.modWave i.w.uid fun w => w.setP n i.en (maskOf f))

/-- Completing with a scalar result in the issuing split's copy. -/
def Issue.sca (i : Issue) (s : State) (wide : Bool) (x : Nat) : Res :=
  .done (s.modSplit i.w.uid i.sp.num fun p => p.setSW i.e.d.toNat wide x)

/-- A thread of an outstanding write is complete. -/
def Wave.clearPend (w : Wave) (seq thread : Nat) : Wave :=
  { w with pend := w.pend.map fun q =>
      if q.seq = seq then { q with mask := q.mask &&& ~~~(1#32 <<< thread) } else q }

/-- Adding a variable-latency write of the instruction to the wave (R39, R56). -/
def addPend (s : State) (i : Issue) (seq : Nat) (mask : Word) (dst : Dst) (wait : WaitClass) (body : PendBody) : State :=
  s.modWave i.w.uid fun w =>
    { w with pend := w.pend ++ [{ seq, sp := i.sp.num, sps := [i.w.copyOf i.sp.num], sup := s.waveSup w, mask, all := mask, dst,
                                  wait, body, waits := [], fails := [] }] }

/-- Changing an outstanding write. -/
def Wave.modPend (w : Wave) (seq : Nat) (f : Pend → Pend) : Wave :=
  { w with pend := w.pend.map fun p => if p.seq = seq then f p else p }

/-- A thread of an outstanding write has failed (R229): it is complete, and a `WAITK` reports it. -/
def Wave.failPend (w : Wave) (seq thread : Nat) (c : Cause) (va : Nat) : Wave :=
  (w.clearPend seq thread).modPend seq fun p => { p with fails := p.fails ++ [(thread, c, va)] }

/-- A thread of an outstanding write waits for service. -/
def Wave.waitPend (w : Wave) (seq thread : Nat) (k : ParkOn) (va : Nat) : Wave :=
  w.modPend seq fun p => { p with waits := (p.waits.filter fun y => y.1 != thread) ++ [(thread, k, va)] }

/-- A thread of an outstanding write waits for nothing. -/
def Pend.free (p : Pend) (thread : Nat) : Bool :=
  p.mask.getLsbD thread && !p.waits.any fun x => x.1 == thread && x.2.1 != .ready && x.2.1 != .failed

end Sys2Proof.Machine
end

