-- ==== Sys2Proof/Machine/Translate.lean ====
section
/-! DEFINITION. Page tables, cached translations, the check of an access, and the fault records and page requests that a parked
agent waits on (R232-R246). -/

namespace Sys2Proof.Machine

/-- The end of device memory: 180 GB (R13), read as 180 × 10^9 bytes (log 13). -/
def devEnd : Nat := 180000000000

/-- A physical range lies in device memory. -/
def inDevice (pa n : Nat) : Bool := decide (pa + n ≤ devEnd)

/-- A physical range lies in the spill pool (R234, R439). -/
def State.inSpill (s : State) (pa n : Nat) : Bool := decide (s.mgmt.spillb ≤ pa) && decide (pa + n ≤ s.mgmt.spillb + s.mgmt.spills)

/-- A 64-byte sector of device memory holds an uncorrectable error (R250). -/
def State.badAt (s : State) (pa n : Nat) : Bool := s.badSectors.any fun k => decide (k * 64 < pa + n) && decide (pa < k * 64 + 64)

/-- An aligned 64-bit read of device memory. -/
def State.phys64 (s : State) (pa : Nat) : BitVec 64 := BitVec.ofNat 64 (readLe s.mem pa 8)

/-! ### Walks -/

/-- The number of consecutive ones of a number from bit 0, up to a bound. -/
def onesFrom (x : Nat) : Nat → Nat
  | 0 => 0
  | n + 1 => if x % 2 = 1 then 1 + onesFrom (x / 2) n else 0

/-- log2 of the size of a leaf (R234). -/
def leafLog (e : BitVec 64) : Nat :=
  if e.getLsbD 11 then 13 + onesFrom (e.toNat / 2 ^ 12 % 2 ^ 40) 40 else 12

/-- The frame base of a leaf of size 2^z (R234). -/
def leafFrame (e : BitVec 64) (z : Nat) : Nat := e.toNat % 2 ^ 52 / 2 ^ z * 2 ^ z

/-- The leaf sizes of a level lie within R232. -/
def sizeAtLevel (lvl z : Nat) : Bool :=
  match lvl with
  | 0 => decide (12 ≤ z) && decide (z ≤ 20)
  | 1 => decide (21 ≤ z) && decide (z ≤ 29)
  | 2 => decide (30 ≤ z) && decide (z ≤ 32)
  | _ => false

/-- A valid entry is malformed (R234). -/
def State.entryBad (s : State) (lvl : Nat) (e : BitVec 64) : Bool :=
  if e.extractLsb' 60 4 != 0 || e.getLsbD 1 then true
  else if e.getLsbD 2 then
    let z := leafLog e
    let frame := leafFrame e z
    e.extractLsb' 6 2 == 3 || !sizeAtLevel lvl z ||
    (if e.getLsbD 9 then frame != 0
     else !(inDevice frame (2 ^ z) || s.inSpill frame (2 ^ z)))
  else
    lvl == 0 || e &&& 0x0FF0000000000FFE#64 != 0 || !inDevice (e.toNat % 2 ^ 52 / 2 ^ 12 * 2 ^ 12) 4096

/-- The outcome of a walk: a leaf with its level, an entry with `V` = 0, a malformed entry, or an uncorrectable entry. -/
inductive Walk where
  | leaf (lvl : Nat) (e : BitVec 64)
  | absent (lvl : Nat)
  | malformed (lvl : Nat)
  | bad (lvl : Nat)
  deriving DecidableEq, Repr

/-- A walk from a table of a level (R232, R235). -/
def walkFrom (s : State) (va : Nat) : Nat → Nat → Walk
  | 0, table => entryAt 0 table (fun _ => .malformed 0)
  | lvl + 1, table => entryAt (lvl + 1) table (walkFrom s va lvl)
where
  /-- Reading the entry of a level and following a pointer. -/
  entryAt (lvl table : Nat) (next : Nat → Walk) : Walk :=
    let pa := table + 8 * (va / 2 ^ (12 + 9 * lvl) % 512)
    if s.badAt pa 8 then .bad lvl
    else
      let e := s.phys64 pa
      if !e.getLsbD 0 then .absent lvl
      else if s.entryBad lvl e then .malformed lvl
      else if e.getLsbD 2 then .leaf lvl e
      else next (e.toNat % 2 ^ 52 / 2 ^ 12 * 2 ^ 12)

/-- The walk of a context's tables (R232). -/
def walk (s : State) (c va : Nat) : Walk := walkFrom s va 4 (s.ctx c).ptroot

/-! ### Translations -/

/-- A cached translation covers an address. -/
def Tlb.covers (t : Tlb) (c va : Nat) : Bool := t.ctx == c && decide (t.va ≤ va) && decide (va < t.va + t.size)

/-- The attribute bits of a leaf (R233). -/
def Tlb.w (t : Tlb) : Bool := t.leaf.getLsbD 3
def Tlb.x (t : Tlb) : Bool := t.leaf.getLsbD 4
def Tlb.u (t : Tlb) : Bool := t.leaf.getLsbD 5
def Tlb.det (t : Tlb) : Bool := t.leaf.getLsbD 8

/-- The permissions of R236 of a leaf. -/
def permOk (leaf : BitVec 64) (k : AccKind) (sup : Bool) : Bool :=
  (match k with
   | .read => true
   | .write | .rmw => leaf.getLsbD 3
   | .fetch => leaf.getLsbD 4) && (sup || leaf.getLsbD 5)

/-- What a translation yields (R240): a physical address, a page without a valid entry, a migrating page, a host page
without a translation, a host page whose translation denies the access kind, or a trap cause. -/
inductive Xl where
  | ok (t : Tlb) (pa : Nat)
  | absent (lvl : Nat)
  | migrating
  | noAts
  | denied
  | fail (c : Cause)
  deriving DecidableEq, Repr

/-- The page is MIGRATING (R237, R249). -/
def State.isMigrating (s : State) (c va : Nat) : Bool :=
  s.migrating.any fun m => m.ctx == c && decide (m.va ≤ va) && decide (va < m.va + m.size)

/-- A cached ATS translation of a context and an address (R244). -/
def State.ats? (s : State) (c va : Nat) : Option Tlb := s.ats.find? fun t => t.covers c va

/-- The grants that bind a context: Execute only where the PASID prefix requests it (R244); without one, a page that is granted at all
may be executed as its leaf says. -/
def State.grantOf (s : State) (c : Nat) (g : BitVec 3) : BitVec 3 := if (s.ctx c).pasen || g &&& 3#3 = 0 then g else g ||| 4#3

/-- The host grants an access kind (R244, R245). -/
def grantOk (g : BitVec 3) (k : AccKind) : Bool :=
  match k with
  | .read => g.getLsbD 0
  | .write => g.getLsbD 1
  | .rmw => g.getLsbD 0 && g.getLsbD 1
  | .fetch => g.getLsbD 2

/-- The levels of translation caches that an agent reads, nearest first (R239). -/
def TlbAt.levels (at_ : TlbAt) : List TlbAt :=
  match at_ with
  | .core n => [.core n, .die (n / 128)]
  | x => [x]

/-- The entries that a cache holds (R239). -/
def TlbAt.capacity (at_ : TlbAt) : Nat :=
  match at_ with
  | .core _ => 64
  | .die _ => 8192
  | .io => 1024

/-- The translation that a walk's leaf gives an agent: of a `HOST` leaf through ATS, at the smaller of the two sizes (R244). -/
def leafXl (s : State) (ag : TlbAt) (c va : Nat) (e : BitVec 64) : Except Xl Tlb :=
  let z := leafLog e
  let base := va / 2 ^ z * 2 ^ z
  if e.getLsbD 9 then
    match s.ats? c va with
    | none => .error .noAts
    | some a =>
      let sz := min (2 ^ z) a.size
      let b := va / sz * sz
      .ok { holder := ag, ctx := c, va := b, size := sz, host := true, pa := a.pa + (b - a.va), leaf := e
            grant := s.grantOf c a.grant }
  else .ok { holder := ag, ctx := c, va := base, size := 2 ^ z, host := false, pa := leafFrame e z, leaf := e, grant := 7 }

/-- Checking an access against a translation: the leaf's permission, then the host's grant of the access kind (R236, R240,
R245). -/
def checkXl (s : State) (t : Tlb) (c va : Nat) (k : AccKind) (sup : Bool) : Xl :=
  if !permOk t.leaf k sup then .fail .perm
  else if t.host && !grantOk t.grant k then .denied
  else if s.isMigrating c va then .migrating
  else .ok t (t.pa + (va - t.va))

/-- A translation that an agent's caches hold (R239). -/
def State.cachedXl (s : State) (ag : TlbAt) (c va : Nat) : Option Tlb :=
  (ag.levels.findSome? fun l => s.tlb.find? fun t => t.holder == l && t.covers c va).map fun t => { t with holder := ag }

/-- The translation of an address for an agent's access: its translation window or a cached translation where one covers it,
else a walk (R235, R238-R240). -/
def translate (s : State) (ag : TlbAt) (win : Option Tlb) (c va : Nat) (k : AccKind) (sup : Bool) : Xl :=
  let cached := match win with
    | some t => if t.covers c va then some t else s.cachedXl ag c va
    | none => s.cachedXl ag c va
  match cached with
  | some t => checkXl s t c va k sup
  | none => match walk s c va with
    | .absent l => .absent l
    | .malformed _ => .fail .page
    | .bad _ => .fail .ecc
    | .leaf _ e =>
      if !permOk e k sup then .fail .perm
      else match leafXl s ag c va e with
        | .error x => x
        | .ok t => checkXl s t c va k sup

/-- The access-counter sampling class of a leaf: rate and pool (R233, R248). -/
def aclsRate (e : BitVec 64) : Nat := e.toNat / 2 ^ 52 % 16
def aclsPool (e : BitVec 64) : Nat := e.toNat / 2 ^ 56 % 16

/-- Counting an access to a page (R248). -/
def countAccess (l : List PageCount) (c va : Nat) : List PageCount :=
  if l.any fun x => x.ctx == c && x.va == va then
    l.map fun x => if x.ctx = c && x.va = va then { x with n := x.n + 1 } else x
  else l ++ [{ ctx := c, va, n := 1, cold := 0 }]

/-- Caching a translation in one cache; a full one gives up the entry that it has held longest (R239; log 24). -/
def State.cacheXl (s : State) (l : TlbAt) (t : Tlb) : State :=
  let t := { t with holder := l }
  if s.tlb.contains t then s
  else
    let full := decide (l.capacity ≤ (s.tlb.filter fun x => x.holder == l).length)
    let rest := if full then (s.tlb.reverse.eraseP fun x => x.holder == l).reverse else s.tlb
    { s with tlb := t :: rest }

/-- An access through a translation: it is cached at every level that its agent reads (R239), and counted where its page has a
sampling class (R248). -/
def State.fill (s : State) (t : Tlb) : State :=
  let s := t.holder.levels.foldl (fun s l => s.cacheXl l t) s
  if t.host || aclsRate t.leaf = 0 && aclsPool t.leaf = 0 then s else { s with counts := countAccess s.counts t.ctx t.va }

/-- Dropping every translation of a context that covers a byte of a range: TLB entries, ATS translations and the
translation windows of its waves; an ATS request in flight for a page of the range is made again, for its answer may come from before
(R246), and every other request of the context notes the range. -/
def State.dropRange (s : State) (c base len : Nat) : State :=
  let hit (t : Tlb) : Bool := t.ctx == c && decide (t.va < base + len) && decide (base < t.va + t.size)
  let asked (x : AtsReq) : Bool := x.ctx == c && decide (x.va < base + len) && decide (base < x.va + 4096) && !x.stale
  let note (x : AtsReq) : AtsReq := if x.ctx = c then { x with since := x.since ++ [(base, len)] } else x
  let old := s.atsPend.map fun x => if asked x then { x with stale := true } else note x
  { s with
    tlb := s.tlb.filter fun t => !hit t
    ats := s.ats.filter fun t => !hit t
    atsPend := old ++ (s.atsPend.filter asked).map fun x => { x with since := [] }
    waves := s.waves.map fun w => { w with tw := w.tw.filter fun kt => !hit kt.2 } }

/-! ### Fault records and page requests -/

/-- Writing bytes of device memory as the device's own record. -/
def State.poke (s : State) (pa n v : Nat) : State := { s with mem := writeLe s.mem pa n v }

/-- Appending a record to the error log (R450): virtual page, frame, kind, context, sector, and the repeat count, of which
the spec states no value (log 2); then `elogn` and MSI-X vector 128. -/
def State.logError (s : State) (kind c va frame sector : Nat) : State :=
  let r := s.freeDWord
  let s := r.2
  let a := s.mgmt.elog + 32 * (s.mgmt.elogn % 256)
  let s := s.poke a 8 va
  let s := s.poke (a + 8) 8 frame
  let s := s.poke (a + 16) 4 kind
  let s := s.poke (a + 20) 4 c
  let s := s.poke (a + 24) 4 sector
  let s := s.poke (a + 28) 4 (r.1.toNat % 2 ^ 32)
  { s with mgmt := { s.mgmt with elogn := (s.mgmt.elogn + 1) % 2 ^ 32 } }.raiseMsix 128

/-- An ECC error arrives (R250, R450; log 37). -/
def State.ecc (s : State) (e : EccErr) : State :=
  let add (l : List Nat) (k : Nat) : List Nat := if l.contains k then l else l ++ [k]
  match e with
  | .corrected c va frame sector => s.logError 0 c va frame sector
  | .sector k => { s with badSectors := add s.badSectors k }
  | .line k => { s with badSectors := add s.badSectors k, lostLines := add s.lostLines k }
  | .scratch g k => s.modGroup g fun gr => { gr with bad := add gr.bad k }
  | .vector u r t => s.modWave u fun w => { w with badV := add w.badV (vkey r t) }
  | .scalar u n r => s.modSplit u n fun p => { p with badS := add p.badS r }
  | .latch u l t => s.modWave u fun w => { w with latch := { w.latch with bad := add w.latch.bad (l * 32 + t) } }
  | .barrier g k => s.modGroup g fun gr => { gr with bars := gr.bars.modify k fun b => { b with bad := true } }
  | .image c => s.modCtx c fun x => if x.st == .swapped then { x with badImage := true } else x

/-- Retiring the frame behind an address whose sector is uncorrectable (R250): once per frame, with a record; a dirty line of the
stacked SRAM retires no frame. -/
def State.retireAt (s : State) (c va : Nat) : State :=
  match translate s .io none c va .read true with
  | .ok t pa =>
    if t.host || !inDevice pa 1 || s.retired.any (fun f => f.1 == t.pa) || !s.badAt pa 1 || s.lostLines.contains (pa / 64) then s
    else { s with retired := s.retired ++ [(t.pa, t.size)] }.logError 1 c (va / 4096 * 4096) t.pa ((pa - t.pa) / 64)
  | _ => s

/-- A read of `n` bytes has met an uncorrectable error: the frames of its bad sectors are retired (R250). -/
def State.lostData (s : State) (e : Cause) (c va n : Nat) : State :=
  if e = .ecc then (List.range ((va % 64 + n + 63) / 64)).foldl (fun s k => s.retireAt c (max va ((va / 64 + k) * 64))) s else s

/-- The code of an access kind in a fault record (R241). -/
def AccKind.code : AccKind → Nat | .read => 0 | .write => 1 | .rmw => 2 | .fetch => 3

/-- Writing a fault record at its slot of the ring (R241, R242). -/
def State.writeRecord (s : State) (c : Nat) (r : FaultRec) : State :=
  let x := s.ctx c
  let a := x.fring + 32 * ((r.seq - 1) % 2 ^ x.frlog)
  let s := s.poke a 8 r.va
  let s := s.poke (a + 8) 4 r.kind.code
  let s := s.poke (a + 12) 4 r.agent.toNat
  let s := s.poke (a + 16) 8 r.lvl
  let s := s.poke (a + 24) 8 r.seq
  s.raiseMsix (2 * c)

/-- The ring has room for the record numbered `seq` (R242): every record that is as old as its slot's previous one, or older, is answered
(log 98). -/
def Ctx.ringRoom (c : Ctx) (seq : Nat) : Bool := !c.frOpen.any fun r => decide (r.seq + 2 ^ c.frlog ≤ seq)

/-- Making, or joining, the fault record of a page (R240-R242): the record's number and the new state. -/
def State.faultRecord (s : State) (c va : Nat) (k : AccKind) (lvl : Nat) (agent : Word) : Nat × State :=
  let page := va / 4096 * 4096
  match (s.ctx c).frOpen.find? fun r => r.va == page with
  | some r => (r.seq, s)
  | none =>
    let x := s.ctx c
    let seq := x.frNext
    let room := x.ringRoom seq
    let r : FaultRec := { seq, va := page, kind := k, lvl, agent, written := room }
    let s := s.modCtx c fun x => { x with frNext := seq + 1, frOpen := x.frOpen ++ [r] }
    (seq, if room then s.writeRecord c r else s)

/-- Sending an ATS Translation Request of a page, unless one is under way (R244). -/
def State.askAts (s : State) (c va : Nat) : State :=
  let page := va / 4096 * 4096
  if s.atsPend.any fun x => x.ctx == c && x.va == page && !x.stale then s
  else { s with atsPend := s.atsPend ++ [{ ctx := c, va := page, stale := false, since := [] }] }

/-- Making, or joining, a PRI page request (R245): requests of one page coalesce, and requests beyond the host's allocation
wait on the device. -/
def State.askPri (s : State) (c va : Nat) (write : Bool) : State :=
  let page := va / 4096 * 4096
  match s.pri.find? fun r => r.ctx == c && r.va == page with
  | some _ => { s with pri := s.pri.map fun r => if r.ctx == c && r.va == page then { r with write := r.write || write } else r }
  | none =>
    let sent := decide ((s.pri.filter (·.sent)).length < s.priAlloc)
    { s with pri := s.pri ++ [{ ctx := c, va := page, write, sent }] }

/-- Parking an agent on what a translation needs (R240): the place it waits and the new state; none when the agent fails
instead with the given cause. While PRI is off, a page request fails at once (R245). -/
def parkFor (s : State) (c va : Nat) (k : AccKind) (agent : Word) : Xl → Except Cause (ParkOn × State)
  | .ok _ _ => .ok (.ready, s)
  | .absent lvl => let r := s.faultRecord c va k lvl agent; .ok (.record r.1, r.2)
  | .migrating => .ok (.migrating (va / 4096 * 4096), s)
  | .noAts => .ok (.ats (va / 4096 * 4096), s.askAts c va)
  | .denied =>
    if s.priOff then .error .page
    else .ok (.pri (va / 4096 * 4096), s.askPri c va (k != .read && k != .fetch))
  | .fail cause => .error cause

/-- The agent word of a wave's split in a fault record (R241). -/
def waveAgent (w : Wave) (split : Nat) : Word :=
  BitVec.ofNat 32 (w.core * 2 ^ 20 + w.lane * 2 ^ 14 + w.slot * 2 ^ 12 + split * 2 ^ 10)

/-- The agent word of an engine (R241): 1 copy, 2 stream, 3 link, 4 matrix, 5 ray/beam. -/
def engineAgent (k : Nat) : Word := BitVec.ofNat 32 (k * 2 ^ 28)

end Sys2Proof.Machine
end

