-- ==== Sys2Proof/Machine/Memory.lean ====
section
/-! DEFINITION. Spaces and windows (R180-R185, R266-R271), single-copy reads and writes of a resolved access, the order in which
issued memory operations perform (R187-R200, R213), and the run of a memory instruction over its threads (R207, R218). -/

namespace Sys2Proof.Machine

/-! ### Reading and writing a place -/

/-- A wave stands in a slot of a lane: it has not exited, and its context is not swapped out (R261, R329). -/
def State.inSlot (s : State) (core lane slot : Nat) (w : Wave) : Bool :=
  w.core == core && w.lane == lane && w.slot == slot && !w.exited && (s.ctx w.ctx).st != .swapped

/-- One byte of a register of a wave slot; zero where the slot holds no wave or the register is beyond the allotment
(R185). -/
def State.regByte (s : State) (core lane slot thread reg byte : Nat) : Byte :=
  match s.waves.find? (s.inSlot core lane slot) with
  | some w => if reg < w.regs then BitVec.ofNat 8 ((w.vreg reg thread).toNat / 2 ^ (8 * byte)) else 0
  | none => 0

/-- The tag of host memory (a `HOST` page or the spill pool) in the addresses of `DET` bytes. -/
def hostTag : Nat := 2 ^ 60

/-- A byte behind a `DET` address. -/
def State.backByte (s : State) (pa : Nat) : Byte :=
  if hostTag ≤ pa then byteAt s.hostMem (pa - hostTag) else byteAt s.mem pa

/-- Writing a byte behind a `DET` address. -/
def State.setBackByte (s : State) (pa : Nat) (b : Byte) : State :=
  if hostTag ≤ pa then { s with hostMem := setByte s.hostMem (pa - hostTag) b } else { s with mem := setByte s.mem pa b }

/-- Who reads: the thread, by its `tid`, and the number of its instruction. -/
structure Reader where
  tid : Nat
  ins : Nat
  deriving DecidableEq, Repr

/-- A read that no thread of the group makes. -/
def outside : Reader := { tid := 0, ins := 0 }

/-- A thread's view of a `DET` byte (R195, R201, R202): the newest byte that it has stored before, or that its group has
merged, else memory. Its own later stores are not seen, merged or not. -/
def State.detByte (s : State) (g : Nat) (r : Reader) (va pa : Nat) : Byte :=
  match s.group? g with
  | none => s.backByte pa
  | some gr =>
    let seen := gr.det.filterMap fun d => match d with
      | .byte t k a b m => if a == va && (if t = r.tid then decide (k < r.ins) else m) then some b else none
      | .red .. => none
    seen.getLast?.getD (s.backByte pa)

/-- One byte of a place, `k` bytes on, as it stands now. -/
def State.nowByte (s : State) (r : Reader) (p : Place) (k : Nat) : Byte :=
  match p with
  | .phys pa => byteAt s.mem (pa + k)
  | .host pa => byteAt s.hostMem (pa + k)
  | .spd g off => match s.group? g with | some gr => byteAt gr.mem (off + k) | none => 0
  | .grp .. => 0
  | .reg core lane slot thread reg byte => s.regByte core lane slot thread (reg + (byte + k) / 4) ((byte + k) % 4)
  | .det g va pa => s.detByte g r (va + k) (pa + k)

/-- The bytes that a place of a size stands for: an owner and the first byte's number, to tell whether two accesses
overlap. -/
def Place.key : Place → Nat × Nat × Nat
  | .phys pa => (0, 0, pa)
  | .host pa => (1, 0, pa)
  | .spd g off => (2, g, off)
  | .grp c _ _ off => (3, c, off)
  | .reg core lane slot thread r byte => (4, ((core * 64 + lane) * 4 + slot) * 32 + thread, r * 4 + byte)
  | .det _ _ pa => if hostTag ≤ pa then (1, 0, pa - hostTag) else (0, 0, pa)

/-- The entry stands for a block that holds byte `k` of a place. -/
def Shadow.holds (x : Shadow) (p : Place) (k : Nat) : Bool :=
  x.kind == p.key.1 && x.owner == p.key.2.1 && x.block == (p.key.2.2 + k) / 16

/-- A byte that a reader still sees as it was (R193, log 102). -/
def State.shadowByte (s : State) (r : Reader) (p : Place) (k : Nat) : Option Byte :=
  (s.shadow.find? fun x => r.ins != 0 && x.seq == r.ins && x.thread == r.tid % 32 && x.holds p k).map fun x =>
    BitVec.ofNat 8 (x.val / 2 ^ (8 * ((p.key.2.2 + k) % 16)))

/-- One byte of a place, `k` bytes on, as a reader sees it. -/
def State.placeByte (s : State) (r : Reader) (p : Place) (k : Nat) : Byte := (s.shadowByte r p k).getD (s.nowByte r p k)

/-- The little-endian number of `n` bytes of a place (R5, R196). -/
def State.readPlace (s : State) (r : Reader) (p : Place) : Nat → Nat
  | 0 => 0
  | n + 1 => s.readPlace r p n + (s.placeByte r p n).toNat * 2 ^ (8 * n)

/-- Writing one byte of a vector register of a wave slot. -/
def State.setRegByte (s : State) (core lane slot thread reg byte : Nat) (b : Byte) : State :=
  { s with waves := s.waves.map fun w =>
      if s.inSlot core lane slot w && decide (reg < w.regs) then
        let old := (w.vreg reg thread).toNat
        let hole := old - (old / 2 ^ (8 * byte) % 256) * 2 ^ (8 * byte)
        { w with v := sset 0 w.v (vkey reg thread) (BitVec.ofNat 32 (hole + b.toNat * 2 ^ (8 * byte))) }
      else w }

/-- Writing one byte of a place. -/
def State.setPlaceByte (s : State) (p : Place) (k : Nat) (b : Byte) : State :=
  match p with
  | .phys pa => { s with mem := setByte s.mem (pa + k) b }
  | .host pa => { s with hostMem := setByte s.hostMem (pa + k) b }
  | .spd g off => s.modGroup g fun gr => { gr with mem := setByte gr.mem (off + k) b }
  | .grp .. => s
  | .reg core lane slot thread reg byte => s.setRegByte core lane slot thread (reg + (byte + k) / 4) ((byte + k) % 4) b
  | .det _ _ pa => s.setBackByte (pa + k) b

/-- Writing the low `n` bytes of a number to a place. -/
def State.writePlace (s : State) (p : Place) (v : Nat) : Nat → State
  | 0 => s
  | n + 1 => (s.writePlace p v n).setPlaceByte p n (BitVec.ofNat 8 (v / 2 ^ (8 * n)))

/-- Two accesses share a byte. A group-reduction word overlaps the same offset of every member, so it is compared by
offset alone. -/
def Acc.meets (a b : Acc) : Bool :=
  let x := a.place.key
  let y := b.place.key
  let sameOwner := (x.1 == y.1 && x.2.1 == y.2.1) || (x.1 == 3 && y.1 == 2) || (x.1 == 2 && y.1 == 3)
  sameOwner && decide (x.2.2 < y.2.2 + b.size) && decide (y.2.2 < x.2.2 + a.size)

/-- The sector's uncorrectable state after a write of a source: cleared when the writes of one source together cover all
64 bytes (R250). -/
def State.fillSector (s : State) (src pa n : Nat) : State :=
  let k := pa / 64
  if !s.badSectors.contains k then s
  else
    let bits := (2 ^ n - 1) * 2 ^ (pa % 64)
    let old := match s.badFill.find? fun f => f.1 == k && f.2.1 == src with | some f => f.2.2 | none => 0
    let m := old ||| bits
    let rest := s.badFill.filter fun f => !(f.1 == k && f.2.1 == src)
    if m % 2 ^ 64 = 2 ^ 64 - 1 then
      { s with badSectors := s.badSectors.filter (· != k), badFill := s.badFill.filter (·.1 != k)
               lostLines := s.lostLines.filter (· != k) }
    else { s with badFill := (k, src, m) :: rest }

/-- The same of every sector that a range of `n` bytes meets. -/
def State.fillSectors (s : State) (src pa n : Nat) : State :=
  (List.range ((pa % 64 + n + 63) / 64)).foldl (fun s j =>
    let a := max pa (64 * (pa / 64 + j))
    s.fillSector src a (min (pa + n) (64 * (pa / 64 + j + 1)) - a)) s

/-- The words of a scratchpad that a range meets. -/
def scratchWords (off n : Nat) : List Nat := (List.range ((off + n + 3) / 4 - off / 4)).map fun k => off / 4 + k

/-- A scratchpad range holds an uncorrectable error (R250). -/
def Group.badAt (g : Group) (off n : Nat) : Bool := (scratchWords off n).any fun k => g.bad.contains k

/-- The vector registers that a register place of `n` bytes lies in, as keys; `whole` takes only those that it covers. -/
def regWords (thread reg byte n : Nat) (whole : Bool) : List Nat :=
  if whole then (if byte = 0 then (List.range (n / 4)).map fun k => vkey (reg + k) thread else [])
  else (List.range ((byte + n + 3) / 4)).map fun k => vkey (reg + k) thread

/-- Whether a place in a scratchpad or a register holds an uncorrectable error. -/
def State.scratchBad (s : State) (p : Place) (n : Nat) : Bool :=
  match p with
  | .spd g off => match s.group? g with | some gr => gr.badAt off n | none => false
  | .reg core lane slot thread reg byte =>
    s.waves.any fun w => s.inSlot core lane slot w && (regWords thread reg byte n false).any fun k => w.badV.contains k
  | _ => false

/-- A store of `n` bytes by a source, with the rules of uncorrectable sectors and words (R250, log 37): a word of a scratchpad
and a register that a store writes whole are good again. -/
def State.store (s : State) (src : Nat) (p : Place) (v n : Nat) : State :=
  let s := s.writePlace p v n
  match p with
  | .phys pa => s.fillSectors src pa n
  | .spd g off => s.modGroup g fun gr =>
      { gr with bad := gr.bad.filter fun k => !(decide (off ≤ 4 * k) && decide (4 * k + 4 ≤ off + n)) }
  | .reg core lane slot thread reg byte =>
    { s with waves := s.waves.map fun w =>
        if s.inSlot core lane slot w then
          { w with badV := w.badV.filter fun k => !(regWords thread reg byte n true).contains k }
        else w }
  | _ => s

/-- Setting the full/empty bits of the granules that a scratchpad range touches (R188). -/
def State.setFull (s : State) (p : Place) (n : Nat) (full : Bool) : State :=
  match p with
  | .spd g off => s.modGroup g fun gr =>
      { gr with full := (List.range ((off + n - 1) / 16 - off / 16 + 1)).foldl
                  (fun f k => sset false f (off / 16 + k) full) gr.full }
  | _ => s

/-- Every granule that a scratchpad range touches is full. -/
def State.isFull (s : State) (p : Place) (n : Nat) : Bool :=
  match p with
  | .spd g off => match s.group? g with
    | some gr => (List.range ((off + n - 1) / 16 - off / 16 + 1)).all fun k => sget false gr.full (off / 16 + k)
    | none => false
  | _ => true

/-! ### Group reduction -/

/-- One node of a group-reduction tree on elements of a type (R268): 0 FP32, 1 BF16, 2 FP16, 3 INT32. -/
def grpNode (ty op a b : Nat) : FRes :=
  let f := match ty with | 1 => bf16 | 2 => fp16 | _ => fp32
  match op with
  | 0 => if ty = 3 then ⟨(a + b) % 2 ^ 32, 0⟩ else addNode f a b
  | 1 => if ty = 3 then ⟨wrapInt 32 (min (readInt true 32 a) (readInt true 32 b)), 0⟩ else ⟨fminmax f false a b, 0⟩
  | 2 => if ty = 3 then ⟨wrapInt 32 (max (readInt true 32 a) (readInt true 32 b)), 0⟩ else ⟨fminmax f true a b, 0⟩
  | 3 => ⟨a &&& b, 0⟩
  | 4 => ⟨a ||| b, 0⟩
  | _ => ⟨a ^^^ b, 0⟩

/-- Reducing the members' words element by element in member order (R88, R268). -/
def grpReduce (ty op : Nat) (ws : List Nat) : Nat :=
  if ty = 1 || ty = 2 then
    packElems 16 ((List.range 2).map fun e => (tree (grpNode ty op) 5 (ws.map fun w => elem 16 w e)).bits)
  else (tree (grpNode ty op) 5 ws).bits

/-- The groups of a convoy in member order. -/
def State.members (s : State) (c : Nat) : List Group :=
  match s.convoy? c with
  | some cv => cv.groups.filterMap fun g => s.group? g
  | none => []

/-- Reading an access as a reader sees it (R196, R268). -/
def State.readAcc (s : State) (r : Reader) (a : Acc) : Nat :=
  match a.place with
  | .grp c ty op off => grpReduce ty op ((s.members c).map fun g => s.readPlace r (.spd g.uid off) 4)
  | p => s.readPlace r p a.size

/-! ### Resolving addresses -/

/-- What kind of instruction accesses: it decides what the windows accept (R182, R185). A copy engine's store into a
register window is held until the wave is open (R224). -/
inductive Use where
  | load | store | fe | atomic | copy
  deriving DecidableEq, Repr

/-- A resolved address: a place, or a virtual address to translate. -/
inductive Where_ where
  | at (p : Place)
  | virt
  deriving DecidableEq, Repr

/-- A member's place (R180, R182, R266): none where the member or the offset does not exist. -/
def memberPlace (s : State) (g : Group) (m off n : Nat) : Option Place :=
  match (s.members g.convoy)[m]? with
  | none => none
  | some x => if off + n ≤ x.scratch then some (.spd x.uid off) else none

/-- A group-reduction place (R182, R267, R268, R271). -/
def grpPlace (s : State) (g : Group) (u : Use) (a : Nat) : Option Place :=
  let ty := a / 2 ^ 22 % 4
  let op := a / 2 ^ 18 % 16
  let off := a % 2 ^ 18
  let fits := !(s.members g.convoy).isEmpty && (s.members g.convoy).all fun x => decide (off + 4 ≤ x.scratch)
  match u with
  | .load => if op < 6 && fits then some (.grp g.convoy ty op off) else none
  | .store | .copy => if ty = 0 && op = 0 && fits then some (.grp g.convoy ty op off) else none
  | _ => none

/-- The blocks of a partition hold a core (R12). -/
def coreInPart (n part core : Nat) : Bool := (core / 32) * n / 8 == part

/-- A register-window place (R184, R185): natural alignment is checked before; 1, 2, 4 or 8 bytes; a core of the
partition; a store only into an open wave's allotment. -/
def regPlace (s : State) (c : Nat) (u : Use) (a n : Nat) : Option Place :=
  let core := a / 2 ^ 23 % 256
  let lane := a / 2 ^ 17 % 64
  let slot := a / 2 ^ 15 % 4
  let thread := a / 2 ^ 10 % 32
  let reg := a / 4 % 256
  let p := Place.reg core lane slot thread reg (a % 4)
  if 8 < n || !coreInPart s.mgmt.partn (s.ctx c).part core then none
  else match u with
    | .load => some p
    | .store =>
      match s.waves.find? fun w => w.ctx == c && s.inSlot core lane slot w with
      | some w => if w.windowOpen && reg + n / 8 < w.regs then some p else none
      | none => none
    | .copy =>
      match s.waves.find? fun w => w.ctx == c && s.inSlot core lane slot w with
      | some w => if reg + n / 8 < w.regs then some p else none
      | none => none
    | _ => none

/-- The window that a `glb` address lies in (R181): register, member, group-reduction, in this precedence. -/
def windowOf (c : Ctx) (va : Nat) : Option (Nat × Nat) :=
  let inside (b sz : Nat) : Bool := b != 0 && decide (b ≤ va) && decide (va < b + sz)
  if inside c.regwin (2 ^ 31) then some (0, va - c.regwin)
  else if inside c.mbrwin (2 ^ 22) then some (1, va - c.mbrwin)
  else if inside c.grpwin (2 ^ 24) then some (2, va - c.grpwin)
  else none

/-- Resolving an address of a space (R180-R184); none is SPACE. `plain` says that a group-reduction access through `glb`
has the 4-byte size and the default policy. An access that runs past its window's end crosses the edge. -/
def resolve (s : State) (ctx : Nat) (g : Group) (space : Nat) (u : Use) (plain : Bool) (a n : Nat) : Option Where_ :=
  match space with
  | 1 => if a + n ≤ g.scratch then some (.at (.spd g.uid a)) else none
  | 2 => if a < 2 ^ 22 then (memberPlace s g (a / 2 ^ 18) (a % 2 ^ 18) n).map .at else none
  | 3 => if a < 2 ^ 24 then (grpPlace s g u a).map .at else none
  | _ =>
    if 2 ^ 57 ≤ a || 2 ^ 57 < a + n then none
    else match windowOf (s.ctx ctx) a with
      | some (0, o) => if o + n ≤ 2 ^ 31 then (regPlace s ctx u o n).map .at else none
      | some (1, o) => if o + n ≤ 2 ^ 22 then (memberPlace s g (o / 2 ^ 18) (o % 2 ^ 18) n).map .at else none
      | some (_, o) => if plain && decide (o + n ≤ 2 ^ 24) then (grpPlace s g u o).map .at else none
      | none => if (windowOf (s.ctx ctx) (a + n - 1)).isSome then none else some .virt

/-- The group of an engine operation that has outlived its group: no scratchpad is reached through it (R221, R225). -/
def noGroup : Group :=
  { uid := 2 ^ 64, ctx := 0, kernel := 0, convoy := 2 ^ 64, member := 0, core := 0, idx := 0, waves := 0, st := .done, granted := false
    reservedAll := false, scratch := 0, scratchTarget := 0, plan := [], preRegs := 0, fullRegs := 0, mem := [], full := [], bad := []
    bars := [], det := [], team := 0, calls := [], commitPT := 0 }

/-! ### The order in which memory operations perform -/

/-- Acquire and release halves of the order codes (R32, R190). -/
def isAcq (o : Nat) : Bool := o == 1 || o == 3 || o == 4
def isRel (o : Nat) : Bool := o == 2 || o == 3 || o == 4

/-- The threads of some accesses. -/
def accMask (l : List Acc) : Word := maskOfList (l.map (·.thread))

/-- A load of a wave that has not returned for a thread, with its accesses and its order. -/
def Pend.reads (p : Pend) : Option (Nat × List Acc) :=
  match p.body with
  | .load o _ _ accs => some (o, accs.filter fun a => p.mask.getLsbD a.thread)
  | _ => none

/-- A request whose engine reads memory for its threads (R229, R392, R407). -/
def Pend.engine (p : Pend) : Bool :=
  match p.body with
  | .gath .. | .trace .. | .pxl .. => true
  | _ => false

/-- The engine's reads come while the thread goes on: they stand at the request's place in program order (R229, R392), and a fault
in them delays only the token. -/
def Pend.scattered (p : Pend) : Bool :=
  match p.body with
  | .gath .. | .trace .. => true
  | _ => false

/-- The threads for which a read-modify-write has not been performed (R213). -/
def Pend.unperformed (p : Pend) : Word :=
  match p.body with
  | .atom _ _ _ vals => p.mask &&& ~~~(maskOfList (vals.map (·.1)))
  | _ => 0

/-- A read over a link (R423, R424), and whether it is an acquire (R419). -/
def Pend.link (p : Pend) : Option Bool :=
  match p.body with
  | .remote acq => some acq
  | _ => none

/-- The read is an acquire of its thread (R190, R192): a pixel that finds its arrival bit set acquires its bytes (R407). -/
def Pend.acquires (p : Pend) : Bool :=
  match p.body with
  | .remote acq => acq
  | .pxl .. => true
  | _ => false

/-- The write is of a kind that accesses memory for its threads itself. -/
def Pend.isRead (p : Pend) : Bool :=
  p.engine || p.link.isSome || (match p.body with | .load .. | .later => true | _ => false)

/-- The write still accesses memory for some of a set of threads, parked ones among them. -/
def Pend.readsFor (p : Pend) (threads : Word) : Bool :=
  (p.isRead && p.mask &&& threads != 0) || p.unperformed &&& threads != 0

/-- An earlier read of the thread must return first: it is an acquire, or a load of an overlapping byte, or any before a release
(R192, R193). -/
def loadBlocks (w : Wave) (before : Nat) (x : Acc) (all : Bool) : Bool :=
  w.pend.any fun p => decide (p.seq < before) && (match p.reads with
    | some (o, accs) => accs.any fun a => a.thread == x.thread && (all || isAcq o || a.meets x)
    | none => p.mask.getLsbD x.thread &&
        (p.acquires || (all && (p.engine || p.link.isSome))))

/-- An earlier unperformed store or read-modify-write of the thread must perform first: an acquire one, or one of an
overlapping byte, or any before a release (R192, R193). Within one instruction the lower thread performs first where
they overlap (R210, R213). -/
def storeBlocks (s : State) (wave before : Nat) (x : Acc) (all : Bool) : Bool :=
  s.stores.any fun m =>
    (m.wave == wave && decide (m.ins < before) && m.acc.thread == x.thread &&
      (all || (isAcq m.order && m.ret.isSome) || m.acc.meets x)) ||
    (m.ins == before && decide (m.acc.thread < x.thread) && m.acc.meets x)

/-- An exchange out of the wave's context waits for an old value of a read-modify-write that the operation is or stands before: it
performs without the reads of its thread that are issued again on resume (R219, log 102). -/
def State.settles (s : State) (w : Wave) (m : MemOp) : Bool :=
  let c := s.ctx w.ctx
  w.halted && (c.cmd == 3 || c.cmd == 5) &&
  s.stores.any fun x => x.wave == m.wave && x.ret.isSome && x.acc.thread == m.acc.thread && decide (m.ins ≤ x.ins)

/-- A memory operation may perform now. A full-setting write releases whatever its order field says (R192). -/
def mayPerform (s : State) (m : MemOp) : Bool :=
  let rel := isRel m.order || m.fn == .storeFull
  !(storeBlocks s m.wave m.ins m.acc rel) &&
  (match s.wave? m.wave with
   | some w => s.settles w m || !loadBlocks w m.ins m.acc rel
   | none => true)

/-- A thread's access of a load may return now. -/
def mayReturn (s : State) (w : Wave) (p : Pend) (a : Acc) : Bool :=
  !(storeBlocks s w.uid p.seq a false) && !loadBlocks w p.seq a false

/-- The number and the threads of an instruction whose accesses stand in its split: parked or to be made again (R205, R218, R219),
or waiting as an sc operation (R198). -/
def Split.owes (p : Split) : Option (Nat × Word) :=
  match p.st with
  | .blocked (.scDrain k ..) | .blocked (.scTick _ _ k _) => some (k, p.mask)
  | _ => match p.replay with
    | some { mask, accs := _, pend := some k } => some (k, mask)
    | _ => none

/-- The accesses of an sc operation that waits. -/
def ScWork.accs (w : ScWork) : List Acc := match w with | .fence => [] | .load _ _ l => l | .ops _ _ _ _ l => l

/-- A waiting sc operation executes again from its first step (R219), with the accesses and under the number of its first issue
(R191, R205). -/
def Split.againSc (p : Split) : Split :=
  match p.st with
  | .blocked (.scDrain k _ _ _ x) | .blocked (.scTick _ _ k x) =>
    { p with st := .ready, replay := some (match x with
        | .fence => { mask := p.mask, accs := none, pend := some k }
        | x => { mask := accMask x.accs, accs := some x.accs, pend := some k }) }
  | _ => p

/-- The numbers of a wave's memory operations not yet performed or returned, for one set of threads: what a drain waits
for (R198, R217). -/
def State.drainSet (s : State) (w : Wave) (threads : Word) : List Nat :=
  ((s.stores.filter fun m => m.wave == w.uid && threads.getLsbD m.acc.thread).map (·.ins)) ++
  ((w.pend.filter fun p => p.readsFor threads).map (·.seq)) ++
  (w.splits.filterMap fun p => match p.owes with
    | some (k, m) => if m &&& threads != 0 then some k else none
    | none => none)

/-- A drained set: none of its operations is outstanding. -/
def State.drained (s : State) (w : Wave) (seqs : List Nat) : Bool :=
  !(s.stores.any fun m => m.wave == w.uid && seqs.contains m.ins) &&
  !(w.pend.any fun p => seqs.contains p.seq && p.readsFor 0xFFFFFFFF) &&
  !(w.splits.any fun p => match p.owes with | some (k, _) => seqs.contains k | none => false)

/-! ### What outstanding reads still see -/

/-- The places that a store reaches: every member for a group-reduction word (R271). -/
def State.fanOut (s : State) (p : Place) : List Place :=
  match p with
  | .grp c _ _ off => (s.members c).map fun g => .spd g.uid off
  | p => [p]

/-- The aligned 16-byte block that holds byte `k` of a place. -/
def Place.blockOf (p : Place) (k : Nat) : Place :=
  match p with
  | .phys pa => .phys ((pa + k) / 16 * 16)
  | .host pa => .host ((pa + k) / 16 * 16)
  | .spd g off => .spd g ((off + k) / 16 * 16)
  | .reg core lane slot thread r byte => .reg core lane slot thread ((r * 4 + byte + k) / 16 * 4) 0
  | .det g va pa => .det g (va - pa % 16 + (pa % 16 + k) / 16 * 16) ((pa + k) / 16 * 16)
  | p => p

/-- The blocks that `n` bytes of a place meet. -/
def State.blocksOf (s : State) (p : Place) (n : Nat) : List Place :=
  (s.fanOut p).flatMap fun q => (List.range ((q.key.2.2 % 16 + n + 15) / 16)).map fun j => q.blockOf (16 * j - if j = 0 then 0 else q.key.2.2 % 16)

/-- The read of an entry is still outstanding. -/
def State.shadowLive (s : State) (x : Shadow) : Bool :=
  match s.wave? x.wave with
  | some w => w.pend.any fun q => q.seq == x.seq && q.mask.getLsbD x.thread
  | none => false

/-- An outstanding read keeps what it sees of a block, unless it has kept it before. -/
def State.keepBlock (s : State) (w : Wave) (seq thread : Nat) (b : Place) : State :=
  if s.shadow.any fun x => x.seq == seq && x.thread == thread && x.holds b 0 then s
  else { s with shadow := s.shadow ++ [{ wave := w.uid, seq, thread, kind := b.key.1, owner := b.key.2.1, block := b.key.2.2 / 16,
                                         val := s.readPlace { tid := w.idx * 32 + thread, ins := seq } b 16 }] }

/-- An access of instruction `ins` of a thread is about to be made: every earlier read of the thread that is outstanding, and that
the access does not wait for, keeps the blocks that the access meets as they stand (R193, log 102). -/
def State.keepOld (s : State) (u ins thread : Nat) (p : Place) (n : Nat) : State :=
  match s.wave? u with
  | none => s
  | some w =>
    match w.pend.filter fun q => decide (q.seq < ins) && q.mask.getLsbD thread && (q.scattered || (w.halted && q.isRead)) with
    | [] => s
    | l => l.foldl (fun s q => (s.blocksOf p n).foldl (fun s b => s.keepBlock w q.seq thread b) s)
        { s with shadow := s.shadow.filter s.shadowLive }

/-- A store has performed: later reads of its thread that have kept its bytes see it (R193). -/
def State.showStore (s : State) (u ins thread : Nat) (p : Place) (n : Nat) : State :=
  { s with shadow := s.shadow.map fun x =>
      if x.wave = u && decide (ins < x.seq) && x.thread == thread then
        (s.fanOut p).foldl (fun x q => (List.range n).foldl (fun (x : Shadow) k =>
          if x.holds q k then
            let sh := 2 ^ (8 * ((q.key.2.2 + k) % 16))
            { x with val := x.val - x.val / sh % 256 * sh + (s.nowByte outside q k).toNat * sh }
          else x) x) x
      else x }

/-! ### Performing -/

/-- A read-modify-write's new value (R213): modes of `ATOM` on elements of a type. `fl` types are 0 FP32, 1 FP16x2,
2 BF16x2. -/
def rmwNew (mode ty : Nat) (old b c : Nat) : Nat :=
  let w := if mode < 10 && (ty = 2 || ty = 3) then 64 else 32
  let sg := ty = 0 || ty = 2
  match mode with
  | 0 => (old + b) % 2 ^ w
  | 1 => wrapInt w (min (readInt sg w old) (readInt sg w b))
  | 2 => wrapInt w (max (readInt sg w old) (readInt sg w b))
  | 3 => old &&& b
  | 4 => old ||| b
  | 5 => old ^^^ b
  | 6 => b
  | 7 => if old = b then c else old
  | 8 => if b ≤ old then 0 else old + 1
  | 9 => if old = 0 || b < old then b else old - 1
  | _ =>
    let f := fmtOf ty
    let ew := f.width
    packElems ew ((List.range (32 / ew)).map fun k =>
      let x := elem ew old k
      let y := elem ew b k
      if mode = 10 then (addNode f x y).bits else fminmax f (mode == 12) x y)

/-- The nibble store of R214 on a byte. -/
def stn4New (old b : Nat) : Nat :=
  if b / 16 % 2 = 0 then old / 16 * 16 + b % 16 else old % 16 + (b % 16) * 16

/-- The `mbr`-form address of the word of the lowest member that fails a group-reduction load (R180, R270). -/
def State.grpBad (s : State) (p : Place) : Option Nat :=
  match p with
  | .grp c _ _ off => ((s.members c).zipIdx.find? fun x => x.1.badAt off 4).map fun x => x.2 * 2 ^ 18 + off
  | _ => none

/-- A place holds an uncorrectable error (R220, R250, R270), with the address of what failed. -/
def State.placeBad (s : State) (a : Acc) : Option Nat :=
  let here (b : Bool) : Option Nat := if b then some a.va else none
  match a.place with
  | .phys pa => here (inDevice pa 1 && s.badAt pa a.size)
  | .det _ _ pa => here (inDevice pa 1 && s.badAt pa a.size)
  | .host _ => none
  | .grp .. => s.grpBad a.place
  | p => here (s.scratchBad p a.size)

/-- A read-modify-write consumes uncorrectable data (R220): it writes nothing, its frame is retired (R250), and its wave traps ECC at
the next instruction that it issues (log 92). One without a result leaves an entry of its own for that. -/
def State.rmwEcc (s : State) (m : MemOp) (va : Nat) : State :=
  let t := m.acc.thread
  (s.retireAt m.ctx m.acc.va).modWave m.wave fun w => match m.ret with
    | some seq => w.failPend seq t .ecc va
    | none =>
      { w with pend := w.pend ++ [{ seq := m.seq, sp := 0, sps := [], sup := false, mask := 0, all := 1 <<< t, dst := .vec 0 0, wait := .ld,
                                    body := .later, waits := [], fails := [(t, .ecc, va)] }] }

/-- Performing a queued memory operation at its home (R187): the write, the granule bits of `STFE`, the multicast of a
group-window store (R271), the deferred effect on a `DET` page (R201, R202), and the old value of an `ATOM`. -/
def performOp (s : State) (m : MemOp) : State :=
  let a := m.acc
  let s := { s with stores := s.stores.filter fun x => x.seq != m.seq }
  match m.fn with
  | .store => match a.place with
    | .grp c _ _ off => (s.members c).foldl (fun s g => s.store m.ins (.spd g.uid off) a.data 4) s
    | p => s.store m.ins p a.data a.size
  | .storeFull => (s.store m.ins a.place a.data a.size).setFull a.place a.size true
  | .stn4 => s.writePlace a.place (stn4New (s.readPlace outside a.place 1) a.data) 1
  | .masked => s.store m.ins a.place (((s.readPlace outside a.place a.size) &&& (2 ^ (8 * a.size) - 1 - a.data2)) ||| a.data) a.size
  | .rmw mode ty => match s.placeBad a with
   | some va => s.rmwEcc m va
   | none =>
    let old := s.readPlace outside a.place a.size
    let s := s.store m.ins a.place (rmwNew mode ty old a.data a.data2) a.size
    match m.ret with
    | none => s
    | some seq => s.modWave m.wave fun w =>
        { w with pend := w.pend.map fun p =>
            if p.seq = seq then
              { p with body := match p.body with
                  | .atom o sc n vals => .atom o sc n (vals ++ [(a.thread, old)])
                  | b => b }
            else p }

/-- Queueing a store or read-modify-write for each access of an instruction; a store to a `DET` page goes to the group's
buffer at once (R201), a `RED` there is deferred (R202). -/
def queueOps (s : State) (w : Wave) (ins order scope : Nat) (fn : MemFn) (ret : Option Nat) (accs : List Acc) : State :=
  accs.foldl (fun s a =>
    match a.place with
    | .det g va _ => s.modGroup g fun gr =>
        { gr with det := gr.det ++ (match fn with
            | .rmw mode ty => [.red (w.idx * 32 + a.thread) va a.size mode ty a.data]
            | _ => (List.range a.size).map fun k =>
                .byte (w.idx * 32 + a.thread) ins (va + k) (BitVec.ofNat 8 (a.data / 2 ^ (8 * k))) false) }
    | _ =>
      let (seq, s) := s.freshUid
      { s with stores := s.stores ++ [{ seq, ins, wave := w.uid, kernel := w.kernel, ctx := w.ctx, order, scope, fn, acc := a, ret }] }) s

/-! ### The run of a memory instruction -/

/-- The outcome of a thread's access before its effect. -/
inductive Reach where
  | ok (a : Acc) (t : Option Tlb)
  | wait (a : Acc) (x : Xl)
  | bad (a : Acc) (c : Cause) (va : Nat)

/-- Physical memory or the spill pool behind a translated address (R234, R237), seen through the group's `DET` buffer where
the page is deterministic. -/
def pageData (g : Nat) (t : Tlb) (va pa : Nat) : Place :=
  let host := t.host || !inDevice pa 1
  if t.det then .det g va (if host then hostTag + pa else pa)
  else if host then .host pa else .phys pa

/-- An access to a `DET` page that R203 refuses: atomics, `STN4`, and ordered stores; and what R187 and R213 refuse on a
`HOST` page. `hostOk` says that the host accepts the operation. -/
def pageRefuses (t : Tlb) (atomic stn4 red ordered hostOk : Bool) : Bool :=
  (t.det && ((atomic && !red) || stn4 || ordered)) || (t.host && ((atomic && !hostOk) || stn4))

/-- What an instruction asks of memory: its access kind, its use of windows, and the facts that the page check needs. `anyByte`
accesses have no alignment (R408); `watched` is an instruction of R337's list, and `again` one that R218 or R408 makes repeatable
(R336); `eccLen` are the bytes of an access that are read, where they are not all (R396). -/
structure MemAsk where
  kind    : AccKind
  use     : Use
  space   : Nat
  plain   : Bool
  atomic  : Bool := false
  red     : Bool := false
  stn4    : Bool := false
  ordered : Bool := false
  hostOk  : Bool := false
  win     : Option Nat := none
  anyByte : Bool := false
  watched : Bool := true
  again   : Bool := true
  eccLen : Option Nat := none

/-- Reaching one access: its place, or why not (R207, R218, R240). -/
def reach (s : State) (i : Issue) (g : Group) (ask : MemAsk) (win : Option Tlb) (a : Acc) : Reach :=
  let reads := (ask.kind == .read || ask.kind == .rmw) && !ask.stn4
  match resolve s i.w.ctx g ask.space ask.use ask.plain a.va a.size with
  | none => .bad a .space a.va
  | some (.at p) =>
    if reads && ask.use != .fe && s.scratchBad p (ask.eccLen.getD a.size) then .bad a .ecc a.va
    else match if reads then s.grpBad p else none with
      | some va => .bad a .ecc va
      | none => .ok { a with place := p } none
  | some .virt =>
    match translate s (.core i.w.core) win i.w.ctx a.va ask.kind (s.waveSup i.w) with
    | .ok t pa =>
      if pageRefuses t ask.atomic ask.stn4 ask.red ask.ordered ask.hostOk then .bad a .perm a.va
      else if reads && !t.host && inDevice pa 1 && s.badAt pa a.size then .bad a .ecc a.va
      else .ok { a with place := pageData g.uid t a.va pa } (some t)
    | .fail c => .bad a c a.va
    | .denied => if s.priOff then .bad a .page a.va else .wait a .denied
    | x => .wait a x

/-- Filling the translation window of a uniform base (R238): the window that holds the base's page is used again; a failed
translation leaves the window invalid. -/
def fillWindow (s : State) (i : Issue) (k : Nat) (base : Nat) : Option Tlb × State :=
  match i.w.tw.find? fun kt => kt.1 == k with
  | some (_, t) =>
    if t.covers i.w.ctx base then (some t, s) else fresh s i k base
  | none => fresh s i k base
where
  /-- Translating the base afresh. -/
  fresh (s : State) (i : Issue) (k base : Nat) : Option Tlb × State :=
    let rest (w : Wave) : Wave := { w with tw := w.tw.filter fun kt => kt.1 != k }
    match translate s (.core i.w.core) none i.w.ctx base .read true with
    | .ok t _ => (some t, s.modWave i.w.uid fun w => { rest w with tw := (rest w).tw ++ [(k, t)] })
    | _ => (none, s.modWave i.w.uid rest)

/-- The lowest of some addresses. -/
def lowestVa (l : List Acc) : Nat := match l with | [] => 0 | a :: r => r.foldl (fun m b => min m b.va) a.va

/-- A watch of the context matches an access (R337). -/
def watchHit (c : Ctx) (kind : AccKind) (a : Acc) : Bool :=
  (List.range 4).any fun k =>
    let f := c.wctl.toNat / 2 ^ (8 * k) % 256
    let on := f / 8 % 2 = 1
    let wr := f / 4 % 2 = 1
    let rd := f / 2 % 2 = 1
    let n := if f % 2 = 1 then 64 else 8
    let base := (c.wch.getD k 0).toNat / n * n
    let kindOk := match kind with
      | .read | .fetch => rd
      | .write => wr
      | .rmw => rd || wr
    on && kindOk && decide (base < a.va + a.size) && decide (a.va < base + n)

/-- The first part of R207: ALIGN over every thread, then SPACE, then the watches of R337. -/
def memPre (s : State) (i : Issue) (g : Group) (ask : MemAsk) (accs : List Acc) : Option TrapInfo :=
  let misaligned := accs.filter fun a => !ask.anyByte && a.va % a.size != 0
  let lost := accs.filter fun a => (resolve s i.w.ctx g ask.space ask.use ask.plain a.va a.size).isNone
  let watched := accs.filter fun a => ask.watched && watchHit (s.ctx i.w.ctx) ask.kind a
  if !misaligned.isEmpty then some (maskTrap .align (accMask misaligned) (lowestVa misaligned) false)
  else if !lost.isEmpty then some (maskTrap .space (accMask lost) (lowestVa lost) false)
  else if !watched.isEmpty then some (maskTrap .watch (accMask watched) (lowestVa watched) false)
  else none

/-- Threads that have reached their places, those that wait for service, and those that fail, in thread order. -/
def sortReach (l : List Reach) : List (Acc × Option Tlb) × List (Acc × Xl) × List (Acc × Cause × Nat) :=
  (l.filterMap fun r => match r with | .ok a t => some (a, t) | _ => none,
   l.filterMap fun r => match r with | .wait a x => some (a, x) | _ => none,
   l.filterMap fun r => match r with | .bad a c va => some (a, c, va) | _ => none)

/-- The first of PERM, PAGE and ECC that some thread meets (R207, R218); SPACE where a register-window store's wave has
closed. -/
def worstCause (l : List (Acc × Cause × Nat)) : Cause :=
  let has (c : Cause) : Bool := l.any fun x => x.2.1 == c
  if has .space then .space else if has .perm then .perm else if has .page then .page else .ecc

/-- Parking the waiting threads: a record or request for each, and all that the split waits for (R241, R243, R245). -/
def parkAll (s : State) (i : Issue) (kind : AccKind) (l : List (Acc × Xl)) : List ParkOn × State :=
  l.foldl (fun (acc : List ParkOn × State) x =>
    match parkFor acc.2 i.w.ctx x.1.va kind (waveAgent i.w i.sp.num) x.2 with
    | .ok (p, s) => (if acc.1.contains p then acc.1 else acc.1 ++ [p], s)
    | .error _ => acc) ([], s)

/-- What an instruction does with the threads that reached their places: the state, those accesses, the threads that park
(none when the instruction traps), and the threads whose access a trap leaves undone. It gives the number of the register
write that the parked threads still have to complete. -/
abbrev MemEffect := State → List Acc → Word → Word → State × Option Nat

/-- Caching the translations that some threads' accesses used (R239). -/
def State.fillAll (s : State) (l : List (Acc × Option Tlb)) : State :=
  l.foldl (fun s x => match x.2 with | some t => s.fill t | none => s) s

/-- The result of an instruction over its threads (R218): the effect on the threads that reached their places, then a trap
when any thread met a fault that cannot be serviced, a park when some wait, or completion. With `whole`, no thread's access
is made unless every thread's is (an sc access, R198), nor is one of a group-reduction load that traps (R270) or of an instruction
that is not repeated. -/
def memFinish (i : Issue) (ask : MemAsk) (whole : Bool) (effect : MemEffect) (last : State → Res) (s : State)
    (l : List Reach) : Res :=
  let r := sortReach l
  let s := s.fillAll r.1
  let parked := accMask (r.2.1.map (·.1))
  let undone := accMask (r.2.1.map (·.1) ++ r.2.2.map (·.1))
  let grp := ask.space == 3 || r.1.any fun x => match x.1.place with | .grp .. => true | _ => false
  let none_ := (whole || !ask.again || (ask.kind == .read && grp)) && !(r.2.1.isEmpty && r.2.2.isEmpty)
  let oks := r.1.map (·.1)
  if !r.2.2.isEmpty then
    let c := worstCause r.2.2
    let failing := (r.2.2.filter fun x => x.2.1 == c).map (·.2.2)
    let es := if none_ then effect s [] 0 (undone ||| accMask oks) else effect s oks 0 undone
    let s := r.2.2.foldl (fun s x => if x.2.1 == .ecc then s.retireAt i.w.ctx x.1.va else s) es.1
    let again := (r.2.1.map (·.1)) ++ (r.2.2.map (·.1)) ++ if none_ then oks else []
    let mask := if !ask.again then accMask (r.2.2.map (·.1)) else if none_ then undone ||| accMask oks else undone
    let t := maskTrap c mask (failing.foldl min (failing.headD 0)) ask.again
    .trap (if ask.again then { t with again, ins := es.2 } else t) s
  else if !r.2.1.isEmpty then
    let es := if none_ then effect s [] (parked ||| accMask oks) 0 else effect s oks parked 0
    let p := parkAll es.1 i ask.kind r.2.1
    let accs := if none_ then l.map fun x => match x with | .ok a _ => a | .wait a _ => a | .bad a _ _ => a
                else r.2.1.map (·.1)
    .park p.1 { mask := accMask accs, accs := some accs, pend := es.2 } p.2
  else last (effect s oks 0 0).1

/-- The numbers of a wave's own stores into uncorrectable sectors that an access reads: the access waits for them, for they
may clear the sector (R193, R250). -/
def ownFills (s : State) (i : Issue) (l : List Reach) : List Nat :=
  if l.any (fun r => match r with | .bad _ .ecc _ => true | _ => false) then
    (s.stores.filter fun m => m.wave == i.w.uid).map (·.ins)
  else []

/-- The translation window of an access with a uniform base (R238), filled where some thread is enabled. -/
def askWindow (s : State) (i : Issue) (ask : MemAsk) : Option Tlb × State :=
  match ask.win with
  | some n => if i.en = 0 then (none, s) else fillWindow s i (n / 2 % 8) (i.sp.spair n).toNat
  | none => (none, s)

/-- The accesses that an instruction makes: a replay makes those of its first issue where they are recorded (R205, R218). -/
def Issue.accsOf (i : Issue) (accs : List Acc) : List Acc :=
  match i.sp.replay with
  | some r => match r.accs with
    | some l => l
    | none => accs
  | none => accs

/-- Reaching every access of a memory instruction, in ascending thread order, after the checks of the first part of R207. -/
def memWith (i : Issue) (s : State) (ask : MemAsk) (accs : List Acc) (k : State → List Reach → Res) : Res :=
  match s.group? i.w.group with
  | none => .done s
  | some g =>
    let accs := i.accsOf accs
    match memPre s i g ask accs with
    | some t => .trap t s
    | none =>
      let win := askWindow s i ask
      let l := accs.map (reach win.2 i g ask win.1)
      match ownFills win.2 i l with
      | [] => k win.2 l
      | seqs => .block (.drain seqs) s

/-- A memory instruction over its accesses (R207, R218). -/
def memRun (i : Issue) (s : State) (ask : MemAsk) (accs : List Acc) (whole : Bool) (effect : MemEffect)
    (last : State → Res) : Res :=
  memWith i s ask accs (memFinish i ask whole effect last)

end Sys2Proof.Machine
end

