-- ==== Sys2Proof/Machine/Barriers.lean ====
section
/-! DEFINITION. Barriers: the object's operations (R274-R282), the merge of `DET` buffers at a phase (R201), and the barrier
instructions (R283-R289). -/

namespace Sys2Proof.Machine

/-! ### The object -/

/-- A barrier of a placed group of `n` waves (R276). -/
def Barrier.fresh (n : Nat) : Barrier :=
  { dl := never, gen := 0, exp := n, hc := n, inn := 0, out := 0, late := false, err := false, scp := 0, phases := 0,
    bad := false }

/-- The object is READY (R279). -/
def Barrier.ready (b : Barrier) : Bool := b.hc == b.exp && b.inn == 0 && b.out == 0 && !b.err

/-- The object's 128 bits (R274). -/
def Barrier.bits (b : Barrier) : Nat :=
  b.dl.toNat * 2 ^ 64 + b.gen % 2 ^ 8 * 2 ^ 56 + b.exp % 2 ^ 10 * 2 ^ 46 + b.hc % 2 ^ 10 * 2 ^ 36 +
  wrapInt 14 b.inn * 2 ^ 22 + wrapInt 14 b.out * 2 ^ 8 + (if b.late then 2 ^ 7 else 0) + (if b.err then 2 ^ 6 else 0) +
  b.scp % 2 * 2 ^ 5

/-- Changing a barrier of a group. -/
def State.modBar (s : State) (g k : Nat) (f : Barrier → Barrier) : State :=
  s.modGroup g fun gr => { gr with bars := gr.bars.modify k f }

/-- A barrier of a group. -/
def State.bar? (s : State) (g k : Nat) : Option Barrier := (s.group? g).bind fun gr => gr.bars[k]?

/-- A record names an object (R278). -/
def ArrRec.names (a : ArrRec) (scope g k : Nat) : Bool := a.scope == scope && a.g == g && a.num == k

/-! ### `DET` merges -/

/-- Whether an item of a `DET` buffer is a byte that is not merged yet. -/
def DetItem.fresh : DetItem → Bool
  | .byte _ _ _ _ m => !m
  | .red .. => false

/-- The thread number of an item. -/
def DetItem.tid : DetItem → Nat
  | .byte t _ _ _ _ => t
  | .red t _ _ _ _ _ => t

/-- Marking a byte as merged. -/
def DetItem.merge : DetItem → DetItem
  | .byte t k a b _ => .byte t k a b true
  | r => r

/-- Merging a group's buffer (R201): later items win, so the new bytes follow in ascending `tid`, each thread's in program
order. -/
def Group.mergeDet (g : Group) : Group :=
  { g with det := (g.det.filter fun d => !d.fresh) ++ (sortBy DetItem.tid (g.det.filter DetItem.fresh)).map DetItem.merge }

/-- Every live wave of a group has arrived in the current phase of an object. -/
def State.allArrived (s : State) (gr scope g k : Nat) : Bool :=
  s.waves.all fun w => w.group != gr || w.exited || w.arr.any fun a => a.names scope g k && !a.complete

/-- The merges that a completing phase makes (R201): of each group all of whose live waves arrived in it. -/
def State.mergeArrived (s : State) (scope g k : Nat) : State :=
  { s with groups := s.groups.map fun x =>
      if s.waves.any (fun w => w.group == x.uid && !w.exited) && s.allArrived x.uid scope g k then x.mergeDet else x }

/-! ### Phases -/

/-- A split that waits on its wave's record of an object goes on for good once the record is complete (R114, R286). -/
def Split.releaseBar (p : Split) (scope g k : Nat) : Split :=
  match p.st with
  | .blocked (.barrier sc g' k' _ true) => if sc = scope && g' = g && k' = k then { p with st := .blocked .over } else p
  | _ => p

/-- Completing a phase (R279, R280): the object counts anew, `DET` buffers merge, and every record that names it is complete,
which releases the splits that wait on one. -/
def State.completePhase (s : State) (g k : Nat) (late : Bool) : State :=
  match s.bar? g k with
  | none => s
  | some b =>
    let scope := b.scp + 1
    let s := s.mergeArrived scope g k
    let s := s.modBar g k fun b =>
      { b with gen := (b.gen + 1) % 256, late, hc := b.exp, dl := never, phases := b.phases + 1 }
    { s with waves := s.waves.map fun w =>
        { w with arr := w.arr.map (fun a => if a.names scope g k then { a with complete := true } else a)
                 splits := w.splits.map fun p => p.releaseBar scope g k } }

/-- PT has reached the deadline of an object's phase, and its partition runs (R280): nothing else happens to the object before
the phase completes late. -/
def State.barLate (s : State) (g k : Nat) : Bool :=
  match s.group? g, s.bar? g k with
  | some gr, some b => s.reached b.dl && !b.err && (s.ctx gr.ctx).st == .running
  | _, _ => false

/-- The late completion of a phase whose deadline has passed (R280). -/
def State.lateFirst (s : State) (g k : Nat) : State := if s.barLate g k then s.completePhase g k true else s

/-- The completion test after an event (R279). -/
def State.testPhase (s : State) (g k : Nat) : State :=
  match s.bar? g k with
  | some b => if b.hc = 0 && b.inn == 0 && b.out == 0 && !b.err then s.completePhase g k false else s
  | none => s

/-- Applying an event to an object, then the completion test. -/
def State.barEvent (s : State) (g k : Nat) (f : Barrier → Barrier) : State := (s.modBar g k f).testPhase g k

/-- An engine's decrement of a count, saturating into ERROR (R279); an object in ERROR keeps its counts. -/
def Barrier.transfer (b : Barrier) (inbound : Bool) : Barrier :=
  if b.err then b
  else if inbound then
    if b.inn ≤ -8192 then { b with err := true } else { b with inn := b.inn - 1 }
  else if b.out ≤ -8192 then { b with err := true } else { b with out := b.out - 1 }

/-- The decrement that a completed transfer makes (R227, R281). -/
def State.barTransfer (s : State) (g k : Nat) (inbound : Bool) : State :=
  let s := s.lateFirst g k
  match s.bar? g k with
  | some b => if b.err then s else s.barEvent g k fun b => b.transfer inbound
  | none => s

/-! ### Arrivals -/

/-- The record that an arrival takes (R278), or none where it traps. -/
def Wave.takeRecord (w : Wave) (scope g k : Nat) : Option Wave :=
  let mine := w.arr.findIdx? fun a => a.names scope g k
  let free := w.arr.findIdx? fun a => a.complete
  let put (n : Nat) : Wave := { w with arr := w.arr.set n { scope, g, num := k, complete := false } }
  match mine with
  | some n => if (w.arr[n]?.map (·.complete)).getD false then some (put n) else none
  | none => free.map put

/-! ### Common checks -/

/-- The barrier number a[9:0] and the scope code. -/
def Issue.barNum (i : Issue) : Nat := i.sA false % 2 ^ 10

/-- The BARRIER trap of R284: number in [9:0], scope code in [12:10]. -/
def Issue.barTrap (i : Issue) : TrapInfo := i.plainTrap .barrier (i.barNum + i.e.scope * 2 ^ 10)

/-- The group that holds the object named (R275): the issuing group, or member 0 of its convoy while it is not DONE (R277). -/
def Issue.barOwner (i : Issue) (s : State) : Option Group :=
  match s.group? i.w.group with
  | none => none
  | some g =>
    if g.bars.length ≤ i.barNum then none
    else if i.e.scope = 1 then some g
    else match s.members g.convoy with
      | [] => none
      | m :: _ => if m.st == .done then none else some m

/-- A barrier instruction on its object, with the checks that all but `BINIT` make (R284). -/
def Issue.onBar (i : Issue) (s : State) (f : Nat → Barrier → State → Res) : Res :=
  match i.barOwner s with
  | none => .trap i.barTrap s
  | some g =>
    let s := s.lateFirst g.uid i.barNum
    match s.bar? g.uid i.barNum with
    | none => .trap i.barTrap s
    | some b => if b.bad then .trap (i.plainTrap .ecc) s else if b.err || b.scp + 1 != i.e.scope then .trap i.barTrap s else f g.uid b s

/-- The earlier memory operations of the split's threads, which an arrival releases (R281): the arrival waits until they have
performed. -/
def Issue.released (i : Issue) (s : State) (go : Res) : Res :=
  match s.wave? i.w.uid with
  | none => go
  | some w =>
    let l := s.drainSet w i.sp.mask
    if s.drained w l then go else .block (.drain l) s

/-- An arrival (R278) on an object, or its trap. -/
def Issue.arrive (i : Issue) (s : State) (g : Nat) (b : Barrier) (go : State → Res) : Res :=
  match (s.wave? i.w.uid).bind fun w => w.takeRecord i.e.scope g i.barNum with
  | none => .trap i.barTrap s
  | some w =>
    if b.hc = 0 then .trap i.barTrap s
    else i.released s (go ((s.modWave w.uid fun _ => w).barEvent g i.barNum fun b => { b with hc := b.hc - 1 }))

/-- The split already waits at the barrier: its wait is over (R282). -/
def Issue.waited (i : Issue) : Bool := match i.sp.st with | .blocked (.barrier ..) | .blocked .over => true | _ => false

/-- The wave's record of the object that the instruction names (R278). -/
def Issue.recordOf (i : Issue) (s : State) (g : Nat) : Option ArrRec :=
  (s.wave? i.w.uid).bind fun w => w.arr.find? fun a => a.names i.e.scope g i.barNum

/-! ### Instructions -/

/-- R285. -/
def execBinit (e : Enc) (s : State) : Out := runOnce .binit e s fun i s =>
  match i.barOwner s with
  | none => .trap i.barTrap s
  | some g =>
    let s := s.lateFirst g.uid i.barNum
    match s.bar? g.uid i.barNum with
    | none => .trap i.barTrap s
    | some b =>
      let n := i.sB false
      if b.bad then .trap (i.plainTrap .ecc) s
      else if 512 < n || !(b.ready || b.err) then .trap i.barTrap s
      else .done (s.modBar g.uid i.barNum fun b =>
        { b with exp := n, hc := n, scp := i.e.scope - 1, dl := never, inn := 0, out := 0, late := false, err := false })

/-- R286. -/
def execBarv (e : Enc) (s : State) : Out := runOnce .barv e s fun i s =>
  i.onBar s fun g b s => i.arrive s g b .done

/-- R286: waits without arriving, on its record or for the object's next completion. -/
def execBwait (e : Enc) (s : State) : Out := runOnce .bwait e s fun i s =>
  if i.waited then .done s
  else i.onBar s fun g b s =>
    match i.recordOf s g with
    | some a => if a.complete then .done s else .block (.barrier i.e.scope g i.barNum b.phases true) s
    | none => .block (.barrier i.e.scope g i.barNum b.phases false) s

/-- R286: arrives, then waits on the record that the arrival took. -/
def execBarw (e : Enc) (s : State) : Out := runOnce .barw e s fun i s =>
  if i.waited then .done s
  else i.onBar s fun g b s => i.arrive s g b fun t =>
    match i.recordOf t g with
    | some a => if a.complete then .done t else .block (.barrier i.e.scope g i.barNum b.phases true) t
    | none => .done t

/-- The delta of `BXPCT`: b shifted right by 2, signed (R287). -/
def Issue.barDelta (i : Issue) : Int := readInt true 32 (i.sB false) / 4

/-- R287. -/
def execBxpct (e : Enc) (s : State) : Out := runOnce .bxpct e s fun i s =>
  i.onBar s fun g b s =>
    let d := i.barDelta
    let inRange (x : Int) : Bool := decide (-8192 ≤ x) && decide (x ≤ 8191)
    match i.sB false % 4 with
    | 0 => if inRange (b.inn + d) then .done (s.barEvent g i.barNum fun b => { b with inn := b.inn + d })
           else .trap i.barTrap s
    | 1 => if inRange (b.out + d) then .done (s.barEvent g i.barNum fun b => { b with out := b.out + d })
           else .trap i.barTrap s
    | 2 =>
      let x : Int := b.exp + d
      let h : Int := b.hc + d
      if 0 ≤ x && x ≤ 512 && 0 ≤ h && h ≤ x then
        .done (s.barEvent g i.barNum fun b => { b with exp := x.toNat, hc := h.toNat })
      else .trap i.barTrap s
    | _ => .trap i.barTrap s

/-- R289. -/
def execBtest (e : Enc) (s : State) : Out := runOnce .btest e s fun i s =>
  i.onBar s fun g b s =>
    let put (x : Bool) : Res :=
      .done (s.modWave i.w.uid fun w => w.setP i.e.d.toNat i.sp.mask (if x then 0xFFFFFFFF else 0))
    match i.sB false with
    | 0 => put (match i.recordOf s g with
        | some a => a.complete
        | none => true)
    | 1 => put b.late
    | 2 => put (b.gen != i.sA false / 2 ^ 10 % 2 ^ 8)
    | _ => .trap i.barTrap s

/-- R288: a deadline that PT has reached completes the phase late at once. -/
def execBdl (e : Enc) (s : State) : Out := runOnce .bdl e s fun i s =>
  i.onBar s fun g _ s =>
    let v := i.sp.spair i.e.b.toNat
    let t := s.modBar g i.barNum fun b => { b with dl := v }
    .done (if s.reached v then t.completePhase g i.barNum true else t)

/-- PT has reached the deadline of a phase (R280): it completes late. A halted partition's phases wait for its resume. -/
def tryBarrierDeadline (g k : Nat) (s : State) : Option State :=
  if s.barLate g k then some (s.completePhase g k true) else none

/-- The step of `tryBarrierDeadline`. -/
def execBarrierDeadline (g k : Nat) (s : State) : Out := made s (tryBarrierDeadline g k s)

/-- The late completions of a context's groups at its resume (R280, R328). -/
def State.lateBarriers (s : State) (c : Nat) : State :=
  (s.groups.flatMap fun g => if g.ctx = c then (List.range g.bars.length).map fun k => (g.uid, k) else []).foldl
    (fun s gk => match s.bar? gk.1 gk.2 with
      | some b => if s.reached b.dl && !b.err then s.completePhase gk.1 gk.2 true else s
      | none => s) s

end Sys2Proof.Machine
end

