-- ==== Sys2Proof/Machine/Clock.lean ====
section
/-! DEFINITION. Presentation time in programs: `TNOW`, `TWAIT`, `SETDL`, `DLGET`, and the release of a timed wait (R104-R108). -/

namespace Sys2Proof.Machine

/-- R106. -/
def execTnow (e : Enc) (s : State) : Out := runOnce .tnow e s fun i s => i.sca s true s.pt.toNat

/-- R107: completes at once when the target is reached. -/
def execTwait (e : Enc) (s : State) : Out := runOnce .twait e s fun i s =>
  let target := i.sp.spair i.e.a.toNat
  if s.reached target then .done s else .block (.twait target i.len) s

/-- R104, R108: the class never rises above the launch class. -/
def execSetdl (e : Enc) (s : State) : Out := runOnce .setdl e s fun i s =>
  .done (s.modWave i.w.uid fun w =>
    { w with dl := i.sp.spair i.e.a.toNat, cls := max i.e.opx.toNat w.launchCls })

/-- R108. -/
def execDlget (e : Enc) (s : State) : Out := runOnce .dlget e s fun i s =>
  if i.e.opx.toNat = 0 then i.sca s true i.w.dl.toNat else i.sca s false i.w.cls

/-- A split waits in `TWAIT` for a target, and its context runs. -/
def State.twaiting (s : State) (u n : Nat) : Option (DWord × Nat) :=
  match s.wave? u with
  | none => none
  | some w => if (s.ctx w.ctx).st != .running then none else match w.split? n with
    | none => none
    | some p => match p.st with
      | .blocked (.twait target len) => some (target, len)
      | _ => none

/-- R107: PT has reached the target of a `TWAIT`. -/
def tryTwaitRelease (u n : Nat) (s : State) : Option State :=
  match s.twaiting u n with
  | some (target, len) => if s.reached target then some (completeSplit s u n len) else none
  | none => none
/-- The step of `tryTwaitRelease`. -/
def execTwaitRelease (u n : Nat) (s : State) : Out := made s (tryTwaitRelease u n s)

/-- Releasing at a resume every `TWAIT` of a context whose target has passed (R107, R328). -/
def State.lateTwaits (s : State) (c : Nat) : State :=
  (s.waves.flatMap fun w => if w.ctx = c then w.splits.map fun p => (w.uid, p.num) else []).foldl
    (fun s x => match s.twaiting x.1 x.2 with
      | some (target, len) => if s.reached target then completeSplit s x.1 x.2 len else s
      | none => s) s

end Sys2Proof.Machine
end

