-- ==== Sys2Proof/Machine/Engine.lean ====
section
/-! DEFINITION. What the engines share: parameter blocks (R40-R43), posts and timelines (R221, R225), and the accesses that an
engine makes for its operations (R223-R225, R236, R240). -/

namespace Sys2Proof.Machine

/-! ### Parameter blocks -/

/-- A field of a block word: bits [lo+w-1:lo]. -/
def bitsAt (p : Word) (lo w : Nat) : Nat := p.toNat / 2 ^ lo % 2 ^ w

/-- A word of P1 to P3 as substituted (R41); none is FORMAT. -/
def Issue.subWord (i : Issue) (p : Word) : Option Word :=
  if bitsAt p 24 8 != 0xFF then some p
  else if bitsAt p 7 17 != 0 then none
  else some (i.sp.sreg (bitsAt p 0 7))

/-- A count field of P0: its place, its width, and the least and greatest count accepted (R42). -/
structure CountField where
  lo : Nat
  w  : Nat
  min : Nat
  max : Nat

/-- The field is all ones, so that a scalar register supplies the count (R42). -/
def CountField.marked (f : CountField) (p0 : Word) : Bool := bitsAt p0 f.lo f.w == 2 ^ f.w - 1

/-- P0 with its marked counts replaced and `SREG` cleared (R42); none is FORMAT. `keep` are the other bits of P0. -/
def Issue.subCounts (i : Issue) (fields : List CountField) (keep : Nat) : Option Word :=
  let p0 := i.e.p0
  let sreg := bitsAt p0 25 7
  let any := fields.any fun f => f.marked p0
  let val (f : CountField) : Nat := if f.marked p0 then (i.sp.sreg sreg).toNat else bitsAt p0 f.lo f.w
  if !any && sreg != 0 then none
  else if fields.any fun f => decide (val f < f.min) || decide (f.max < val f) then none
  else some (BitVec.ofNat 32 ((p0.toNat &&& keep) + fields.foldl (fun x f => x + val f * 2 ^ f.lo) 0))

/-- The instruction with its block as substituted (R43), or none where the substitution itself traps FORMAT. -/
def Issue.subBlock (i : Issue) (fields : List CountField) (keep : Nat) : Option Enc := do
  let p0 ← i.subCounts fields keep
  let p1 ← i.subWord i.e.p1
  let p2 ← i.subWord i.e.p2
  let p3 ← i.subWord i.e.p3
  pure { i.e with p0, p1, p2, p3 }

/-- A signed 32-bit word. -/
def sword (p : Word) : Int := p.toInt

/-! ### Posts and timelines -/

/-- The number that the next operation on a timeline takes. -/
def Wave.nextNum (w : Wave) (tl : Nat) : Nat := (w.tl tl).posted + 1

/-- Taking a number on a timeline (R221); `win` are the registers that the operation writes (R185). -/
def Wave.post (w : Wave) (tl : Nat) (win : List (Nat × Nat) := []) : Wave :=
  w.modTl tl fun t =>
    { t with posted := t.posted + 1, open_ := t.open_ ++ [t.posted + 1]
             regs := t.regs ++ (win.filter fun x => x.1 == w.uid).map fun x => (t.posted + 1, x.2) }

/-- The earlier of two failures (R299). -/
def firstFail (a : Option (Nat × Cause)) (b : Nat × Cause) : Option (Nat × Cause) :=
  match a with
  | some x => if x.1 ≤ b.1 then some x else some b
  | none => some b

/-- A failure of an engine operation that no `TLWAIT` will report goes to the kernel's completion record (R225, R299), by its
place in the order of failures. -/
def State.kernelFail (s : State) (k order : Nat) (c : Cause) : State :=
  s.modKernel k fun k => { k with fcause := firstFail k.fcause (order, c), fcount := k.fcount + 1 }

/-- The same for a failure that happens now. -/
def State.kernelFailNow (s : State) (k : Nat) (c : Cause) : State :=
  let r := s.freshUid
  r.2.kernelFail k r.1 c

/-- A failure of an operation numbered on a timeline (R225), with its place in the order of failures (R299): a wave that is gone
reports to its kernel. -/
def State.tlFailAt (s : State) (order wave kernel tl num : Nat) (c : Cause) (va : Nat) : State :=
  match s.wave? wave with
  | some _ => s.modWave wave fun w => w.modTl tl fun t => { t with fails := t.fails ++ [⟨order, num, c, va⟩] }
  | none => s.kernelFail kernel order c

/-- The same for a failure that happens now. -/
def State.tlFail (s : State) (wave kernel tl num : Nat) (c : Cause) (va : Nat) : State :=
  let r := s.freshUid
  r.2.tlFailAt r.1 wave kernel tl num c va

/-- An operation numbered on a timeline has completed, with its failure if it failed (R221, R225). -/
def State.tlDone (s : State) (wave kernel tl num : Nat) (failed : Option (Nat × Cause × Nat)) : State :=
  let s := match failed with | some (n, c, a) => s.tlFailAt n wave kernel tl num c a | none => s
  s.modWave wave fun w => w.modTl tl fun t => { t with open_ := t.open_.filter (· != num) }

/-- The listed memory operations of a wave are performed; a wave that is gone has only its stores left. -/
def State.afterDone (s : State) (wave : Nat) (l : List Nat) : Bool :=
  !(s.stores.any fun m => m.wave == wave && l.contains m.ins) &&
  (match s.wave? wave with
   | some w => !(w.pend.any fun p => l.contains p.seq && p.mask != 0 && p.isRead)
   | none => true)

/-- Posting an engine operation (R221): it takes its number, and its accesses follow the wave's earlier memory operations,
for the post is a release (R192). -/
def State.postOp (s : State) (i : Issue) (e : Enc) (tl : Nat) (srcs : List DWord) (win : List (Nat × Nat))
    (bar : Option Nat) (spans : List (Nat × Nat)) (scratch : Bool) : State :=
  match s.wave? i.w.uid with
  | none => s
  | some w =>
    let (id, s) := s.freshUid
    let o : EngOp := {
      id, op := i.op, e, srcs, ctx := w.ctx, sup := s.waveSup w, wave := w.uid, group := w.group, kernel := w.kernel,
      cls := w.cls, dl := w.dl, tl,
      num := w.nextNum tl, prog := 0, amax := 0, out := [], failed := none, failNo := 0, parked := none, parkVa := 0,
      after := s.drainSet w 0xFFFFFFFF, win, bar, spans, scratch }
    { s.modWave w.uid fun w => w.post tl win with ops := s.ops ++ [o] }

/-- A posted operation by its number. -/
def State.op? (s : State) (id : Nat) : Option EngOp := s.ops.find? fun o => o.id == id

/-- Changing a posted operation. -/
def State.modOp (s : State) (id : Nat) (f : EngOp → EngOp) : State :=
  { s with ops := s.ops.map fun o => if o.id = id then f o else o }

/-- The operation may go on: its context runs, it neither failed nor waits, and what its post released is performed. -/
def State.opReady (s : State) (o : EngOp) : Bool :=
  (s.ctx o.ctx).st == .running && o.failed.isNone && (o.parked.isNone || o.parked == some .ready) &&
  s.afterDone o.wave o.after

/-! ### Accesses -/

/-- An engine's access reaches a place, waits for service, or fails (R225, R240). -/
inductive EngReach where
  | ok (p : Place) (t : Option Tlb)
  | wait (x : Xl)
  | fail (c : Cause)

/-- Reaching the bytes of an address of a space for a group's engine operation (R223-R225); `DET` pages are not buffered
(R203, log 86). An `atomic` access is refused where R187 and R203 refuse it. -/
def engReach (s : State) (ctx group : Nat) (sup : Bool) (space : Nat) (u : Use) (kind : AccKind) (atomic : Bool)
    (a : Int) (n : Nat) : EngReach :=
  let g := (s.group? group).getD noGroup
  let reads := kind == .read || kind == .rmw
  if a < 0 then .fail .space
  else match resolve s ctx g space u (n == 4) a.toNat n with
    | none => .fail .space
    | some (.at p) => if reads && (s.scratchBad p n || (s.grpBad p).isSome) then .fail .ecc else .ok p none
    | some .virt =>
      match translate s .io none ctx a.toNat kind sup with
      | .ok t pa =>
        if pageRefuses t atomic false false false false then .fail .perm
        else if reads && !t.host && inDevice pa 1 && s.badAt pa n then .fail .ecc
        else .ok (if t.host || !inDevice pa 1 then .host pa else .phys pa) (some t)
      | .fail c => .fail c
      | x => .wait x

/-- The translation that an engine's access used is cached. -/
def State.fillOpt (s : State) (t : Option Tlb) : State := match t with | some t => s.fill t | none => s

/-- An engine operation fails now (R225): its failure has its place in the order of failures (R299). -/
def State.opFailed (s : State) (id : Nat) (c : Cause) (va : Nat) : State :=
  let r := s.freshUid
  r.2.modOp id fun o => { o with parked := none, failed := some (c, va), failNo := r.1 }

/-- An engine operation parks on a fault (R225), or fails where nothing can serve it. -/
def State.opPark (s : State) (o : EngOp) (va : Nat) (kind : AccKind) (agent : Nat) (x : Xl) : State :=
  match parkFor s o.ctx va kind (engineAgent agent) x with
  | .ok (p, s) => s.modOp o.id fun o => { o with parked := some p, parkVa := va }
  | .error c => s.opFailed o.id c va

/-- An engine operation fails (R225); an uncorrectable datum retires its frame (R250). -/
def State.opFail (s : State) (o : EngOp) (c : Cause) (va : Nat) : State :=
  let s := if c = .ecc then s.retireAt o.ctx va else s
  s.opFailed o.id c va

/-- An engine's read in an operation: its value to a continuation, or the operation parked or failed. -/
def State.opRead (s : State) (o : EngOp) (agent space : Nat) (a : Int) (n : Nat) (k : State → Nat → State) : State :=
  match engReach s o.ctx o.group o.sup space .load .read false a n with
  | .fail c => s.opFail o c a.toNat
  | .wait x => s.opPark o a.toNat .read agent x
  | .ok p t =>
    let s := s.fillOpt t
    k s (s.readAcc outside { thread := 0, va := a.toNat, size := n, place := p, data := 0, data2 := 0 })

/-- Adding the bytes of a scratchpad place to the spans that an operation writes. -/
def spanPlace (s : State) (l : List (Nat × Nat)) (p : Place) (n : Nat) : List (Nat × Nat) :=
  (s.fanOut p).foldl (fun l p => match p with
    | .spd g off => match l.find? fun x => x.1 == g with
      | some x => (g, max x.2 (off + n)) :: l.filter fun x => x.1 != g
      | none => (g, off + n) :: l
    | _ => l) l

/-- Storing `n` bytes of an engine's source into a place. -/
def State.engStore (s : State) (src : Nat) (p : Place) (v n : Nat) : State :=
  (s.fanOut p).foldl (fun s p => s.store src p v n) s

/-- An engine's write in an operation, then a continuation with the place written. -/
def State.opWrite (s : State) (o : EngOp) (agent space : Nat) (a : Int) (v n : Nat) (k : State → Place → State) : State :=
  match engReach s o.ctx o.group o.sup space .copy .write false a n with
  | .fail c => s.opFail o c a.toNat
  | .wait x => s.opPark o a.toNat .write agent x
  | .ok p t => k ((s.fillOpt t).engStore o.id p v n) p

/-- An engine's read-modify-write of a 32-bit word in `glb`. -/
def State.opRmw (s : State) (o : EngOp) (agent : Nat) (a : Int) (f : Nat → Nat) (k : State → State) : State :=
  match engReach s o.ctx o.group o.sup 0 .atomic .rmw true a 4 with
  | .fail c => s.opFail o c a.toNat
  | .wait x => s.opPark o a.toNat .rmw agent x
  | .ok p t =>
    let s := s.fillOpt t
    k (s.engStore o.id p (f (s.readPlace outside p 4)) 4)

/-- Setting the granules of the members or of the group that a scratchpad place touches (R188). -/
def State.engFull (s : State) (p : Place) (n : Nat) : State :=
  (s.fanOut p).foldl (fun s p => s.setFull p n true) s

end Sys2Proof.Machine
end

