-- ==== Sys2Proof/Machine/Command.lean ====
section
/-! DEFINITION. The command processor: its accesses (R313), the completion and failure of packets (R307, R311), and the hazards of
the interval table (R314-R316). -/

namespace Sys2Proof.Machine

/-! ### Accesses -/

/-- An access of the command processor: its result, a wait for service, or a failure (R313). -/
inductive CpRes (α : Type) where
  | ok (x : α)
  | wait (x : Xl)
  | fail (c : Cause)

/-- Reaching a virtual address of a context for an agent that is no wave, in a mode: windows do not apply, and `DET` pages are
not buffered (R203, R313). -/
def State.agentReach (s : State) (c : Nat) (sup : Bool) (kind : AccKind) (va n : Nat) : CpRes (Place × Tlb) :=
  if 2 ^ 57 < va + n then .fail .space
  else match translate s .io none c va kind sup with
    | .ok t pa =>
      if (kind = .read || kind = .rmw) && !t.host && inDevice pa 1 && s.badAt pa n then .fail .ecc
      else .ok (if t.host || !inDevice pa 1 then .host pa else .phys pa, t)
    | .fail c => .fail c
    | x => .wait x

/-- Reading bytes within a page as the command processor of a context. -/
def State.cpRead (s : State) (c va n : Nat) : CpRes (Nat × State) :=
  match s.agentReach c (s.ctx c).ksup .read va n with
  | .ok (p, t) => .ok (s.readPlace outside p n, s.fill t)
  | .wait x => .wait x
  | .fail e => .fail e

/-- Writing bytes within a page as the command processor of a context; `src` is the source of R250. -/
def State.cpWrite (s : State) (src c va v n : Nat) : CpRes State :=
  match s.agentReach c (s.ctx c).ksup .write va n with
  | .ok (p, t) => .ok ((s.fill t).store src p v n)
  | .wait x => .wait x
  | .fail e => .fail e

/-- A read-modify-write within a page as the command processor of a context. -/
def State.cpRmw (s : State) (src c va n : Nat) (f : Nat → Nat) : CpRes State :=
  match s.agentReach c (s.ctx c).ksup .rmw va n with
  | .ok (p, t) => .ok ((s.fill t).store src p (f (s.readPlace outside p n)) n)
  | .wait x => .wait x
  | .fail e => .fail e

/-- Where the command processor waits for service, as the copy-engine agent (R313), or the cause with which it fails. -/
def State.cpPark (s : State) (c va : Nat) (kind : AccKind) (x : Xl) : Except Cause (ParkOn × State) :=
  parkFor s c va kind (engineAgent 1) x

/-- Little-endian words of a number. -/
def wordsOf (n x : Nat) : List Word := (List.range n).map fun k => BitVec.ofNat 32 (x / 2 ^ (32 * k))

/-! ### Packets of a queue -/

/-- Advancing `DONE` over the completed indices (R307). -/
def advanceDone (l : List Nat) : Nat → Nat → Nat
  | 0, d => d
  | n + 1, d => if l.contains d then advanceDone l n (d + 1) else d

/-- ACTIVE, or IDLE when nothing is left to dispatch (R311). -/
def Queue.rest (q : Queue) : Nat := if q.rd = q.wr then 0 else 1

/-- The queue with a packet completed; a `WAIT` that completes ends WAITING (R311). -/
def Queue.complete (q : Queue) (index : Nat) : Queue :=
  let l := index :: q.doneSet
  let d := advanceDone l l.length q.done
  let wait := q.waitAt == some index
  { q with done := d, doneSet := l.filter (d ≤ ·), running := q.running.filter fun p => p.index != index,
           waitAt := if wait then none else q.waitAt,
           st := if wait && (q.st == 1 || q.st == 2) then q.rest else q.st }

/-- A split that waits for a state of a queue goes on for good once the queue holds it (R114, R321). -/
def Split.releaseQueue (p : Split) (q st : Nat) : Split :=
  match p.st with
  | .blocked (.queueState q' a) => if q' = q && a = st then { p with st := .blocked .over } else p
  | _ => p

/-- A queue's state may have changed: the splits of LIVE waves that wait for its present state go on (R114, R321). A halted wave's
split stays at its `QWAIT`, which executes again at the resume. -/
def State.tellQueue (s : State) (n : Nat) : State :=
  match s.queue? n with
  | none => s
  | some q => { s with waves := s.waves.map fun w =>
      if w.halted then w else { w with splits := w.splits.map fun p => p.releaseQueue n q.st } }

/-- A packet completes: `DONE` advances and its intervals leave the table (R307, R314). -/
def State.packetDone (s : State) (q index : Nat) : State :=
  { s.modQueue q fun x => x.complete index with
    itable := s.itable.filter fun e => !(e.q == q && e.index == index) }.tellQueue q

/-- The queue in ERROR, or still DISABLED, with a cause and the slot of an index (R311). -/
def Queue.error (q : Queue) (cause index : Nat) : Queue :=
  { q with st := if q.st = 4 then 4 else 3, ecause := cause, eslot := index % 2 ^ q.logn }

/-- A dispatched packet fails and counts as completed (R311). -/
def State.packetFail (s : State) (q index cause : Nat) : State :=
  (s.modQueue q fun x => x.error cause index).packetDone q index

/-- A dispatched packet of a queue. -/
def State.packet? (s : State) (q index : Nat) : Option RPkt :=
  (s.queue? q).bind fun x => x.running.find? fun p => p.index == index

/-- Changing a dispatched packet. -/
def State.modPacket (s : State) (q index : Nat) (f : RPkt → RPkt) : State :=
  s.modQueue q fun x => { x with running := x.running.map fun p => if p.index = index then f p else p }

/-- Two byte ranges overlap. -/
def overlap (b l b' l' : Nat) : Bool := decide (b < b' + l') && decide (b' < b + l)

/-- An earlier interval of another packet of the context is a hazard for an interval (R315). -/
def Interval.holds (e p : Interval) : Bool :=
  e.ctx == p.ctx && decide (e.order < p.order) && !(e.q == p.q && e.index == p.index) &&
  overlap e.base e.len p.base p.len && (decide (2 ≤ e.acc) || decide (2 ≤ p.acc))

/-- A dispatched packet is held (R315). -/
def State.heldPacket (s : State) (q : Queue) (p : RPkt) : Bool :=
  (p.ord && decide (q.done < p.index)) ||
  s.itable.any fun x => x.q == q.num && x.index == p.index && s.itable.any fun e => e.holds x

end Sys2Proof.Machine
end

