-- ==== Sys2Proof/WellFormed.lean ====
section
/-! DEFINITION. Which instructions are well formed: the fields are ones that some encoding of the opcode's forms carries
(R15-R22, R40), and no ILLEGAL condition of R44 that the encoding alone decides holds. -/

namespace Sys2Proof

/-- The kind that a base-form or literal-form source field of 7 bits carries (R19): `n` is the number it stores. -/
def baseFieldOk (sl : Slot) (k : Kind) (n : BitVec 8) : Bool :=
  match sl.base with
  | .num | .vec => k == .vec && decide (n.toNat < 128)
  | .sca => k == .sca && decide (n.toNat < 128)
  | .split => (k == .vec || k == .sca) && decide (n.toNat < 64)

/-- The fields that only w1, w2 and the literal carry hold the defaults of R19. -/
def defaultsOk (e : Enc) : Bool :=
  e.c == 0 && e.ck == .vec && e.rnd == .ne && !e.sat && e.opx == 0 && e.mod == 0 && !e.le && e.ld == 0 && !e.nw &&
  e.pg == 7 && !e.pn && e.imm == 0

/-- The parameter block is empty (R40). -/
def noBlock (e : Enc) : Bool := e.p0 == 0 && e.p1 == 0 && e.p2 == 0 && e.p3 == 0

/-- The literal of R20 is read whole: a 64-bit `TYPE`, or the absolute address of `BRA` and `CALL` (R128). -/
def literalWide (op : Op) (ty : BitVec 4) : Bool := (opSpec op).wide.contains ty.toNat || op == .bra || op == .call

/-- The fields are ones that an encoding in the instruction's form can carry. -/
def fieldsOk (op : Op) (e : Enc) : Bool :=
  let sp := opSpec op
  match e.form with
  | .base =>
    defaultsOk e && noBlock e && e.lit == 0 && e.ty.toNat == sp.dty && baseFieldOk sp.sa e.ak e.a &&
    baseFieldOk sp.sb e.bk e.b
  | .literal =>
    defaultsOk e && noBlock e && baseFieldOk sp.sa e.ak e.a && e.b == 0 && e.bk == .imm &&
    (literalWide op e.ty || e.lit.extractLsb' 32 32 == 0)
  | .extended => noBlock e && e.lit == 0
  | .block => e.lit == 0

/-- The opcode numbers without an instruction (R58). -/
def opUnassigned (c : BitVec 8) : Bool := !(Op.all.any fun op => (opSpec op).code == c.toNat)

/-- Well-formed instructions: fields that an encoding carries and that no condition of R44 refuses. The steps of the
other agents carry no encoding; a thread or lane number they name must exist. -/
def WellFormed (i : Instr) : Bool :=
  match i.parts with
  | some (op, e) => fieldsOk op e && (encErr op e).isNone
  | none =>
    match i with
    | .unassignedOpcode c _ => opUnassigned c
    | .sfqRequestComplete _ _ t => decide (t < 32)
    | .rayComplete _ _ t => decide (t < 32)
    | .pxlReturn _ _ t => decide (t < 32)
    | .sectorOwedIssue _ sector cls => decide (sector < 4) && decide (cls < 4)
    | .matrixClassOwed _ cls => decide (cls < 4)
    | .rwdataRead _ n => n == 4 || n == 8
    | .rwdataWrite _ n _ => n == 4 || n == 8
    | _ => true

end Sys2Proof
end

