-- ==== Sys2Proof/Decode.lean ====
section
/-! DEFINITION. The decoder of Waluno instructions, total on any bytes and refusing by name (R15-R34, R44), and after it the
encoder written from the same layout. -/

namespace Sys2Proof

/-- The opcode with a given number in the opcode map (R52). -/
def Op.ofCode (c : BitVec 8) : Option Op := Op.all.find? (fun op => (opSpec op).code == c.toNat)

/-- The form that `LEN` fixes (R15). -/
def formOf (len : BitVec 2) : Form :=
  if len = 0#2 then .base else if len = 1#2 then .literal else if len = 2#2 then .extended else .block

/-- `LEN` of a form. -/
def Form.len : Form → BitVec 2
  | .base => 0#2 | .literal => 1#2 | .extended => 2#2 | .block => 3#2

/-- The number of words of a form (R15). -/
def Form.words : Form → Nat
  | .base => 1 | .literal => 3 | .extended => 3 | .block => 7

/-- The kind of a kind field (R23). -/
def kindOf (k : BitVec 2) : Kind :=
  if k = 0#2 then .vec else if k = 1#2 then .sca else if k = 2#2 then .lat else .imm

/-- The kind field of a kind. -/
def Kind.bits : Kind → BitVec 2
  | .vec => 0#2 | .sca => 1#2 | .lat => 2#2 | .imm => 3#2

/-- The rounding mode of `RND`; the values 0b101 to 0b111 are reserved (R30). -/
def rndOf (r : BitVec 3) : Option Rnd :=
  if r = 0#3 then some .ne else if r = 1#3 then some .tz else if r = 2#3 then some .up
  else if r = 3#3 then some .dn else if r = 4#3 then some .na else none

/-- `RND` of a rounding mode. -/
def Rnd.bits : Rnd → BitVec 3
  | .ne => 0#3 | .tz => 1#3 | .up => 2#3 | .dn => 3#3 | .na => 4#3

/-- The fields of the base word (R18). -/
def wLen (w : Word) : BitVec 2 := w.extractLsb' 0 2
def wOp (w : Word) : BitVec 8 := w.extractLsb' 2 8
def wD (w : Word) : BitVec 8 := w.extractLsb' 10 8
def wA (w : Word) : BitVec 7 := w.extractLsb' 18 7
def wB (w : Word) : BitVec 7 := w.extractLsb' 25 7

/-- The kind and number that a 7-bit base-form field names for a slot (R19). -/
def baseField (sl : Slot) (f : BitVec 7) : Kind × BitVec 8 :=
  match sl.base with
  | .num | .vec => (.vec, 0#1 ++ f)
  | .sca => (.sca, 0#1 ++ f)
  | .split => if f.getLsbD 6 then (.sca, 0#2 ++ f.extractLsb' 0 6) else (.vec, 0#2 ++ f.extractLsb' 0 6)

/-- The 7-bit base-form field for a kind and number. -/
def baseBits (sl : Slot) (k : Kind) (n : BitVec 8) : BitVec 7 :=
  match sl.base with
  | .num | .vec | .sca => n.extractLsb' 0 7
  | .split => (if k = .sca then 1#1 else 0#1) ++ n.extractLsb' 0 6

/-- The fields of a base-form instruction, with the defaults of R19. -/
def baseEnc (sp : OpSpec) (w : Word) : Enc :=
  { form := .base, d := wD w, a := (baseField sp.sa (wA w)).2, ak := (baseField sp.sa (wA w)).1,
    b := (baseField sp.sb (wB w)).2, bk := (baseField sp.sb (wB w)).1, c := 0, ck := .vec,
    ty := BitVec.ofNat 4 sp.dty, rnd := .ne, sat := false, opx := 0, mod := 0, le := false, ld := 0, nw := false,
    pg := 7, pn := false, imm := 0, lit := 0, p0 := 0, p1 := 0, p2 := 0, p3 := 0 }

/-- The fields of a literal-form instruction (R20): the literal replaces B, and `TYPE` comes from base word [28:25]. -/
def literalEnc (sp : OpSpec) (w w1 w2 : Word) : Enc :=
  { form := .literal, d := wD w, a := (baseField sp.sa (wA w)).2, ak := (baseField sp.sa (wA w)).1,
    b := 0, bk := .imm, c := 0, ck := .vec, ty := w.extractLsb' 25 4, rnd := .ne, sat := false, opx := 0, mod := 0,
    le := false, ld := 0, nw := false, pg := 7, pn := false, imm := 0, lit := w2 ++ w1, p0 := 0, p1 := 0, p2 := 0,
    p3 := 0 }

/-- The fields of an extended instruction (R21, R22, R40), given its rounding mode. -/
def extEnc (f : Form) (r : Rnd) (w w1 w2 p0 p1 p2 p3 : Word) : Enc :=
  { form := f, d := wD w, a := w1.extractLsb' 2 1 ++ wA w, ak := kindOf (w1.extractLsb' 0 2),
    b := w1.extractLsb' 5 1 ++ wB w, bk := kindOf (w1.extractLsb' 3 2), c := w1.extractLsb' 8 8,
    ck := kindOf (w1.extractLsb' 6 2), ty := w2.extractLsb' 0 4, rnd := r, sat := w2.getLsbD 4,
    opx := w1.extractLsb' 24 5, mod := w2.extractLsb' 5 8, le := w1.getLsbD 21, ld := w1.extractLsb' 22 2,
    nw := w1.getLsbD 20, pg := w1.extractLsb' 16 3, pn := w1.getLsbD 19, imm := w2.extractLsb' 14 18, lit := 0,
    p0, p1, p2, p3 }

/-- The fields of an instruction of a known opcode, or the reserved bit or value that makes it ILLEGAL (R20-R22, R30). -/
def decodeFields (op : Op) (w w1 w2 p0 p1 p2 p3 : Word) : Except DecodeErr Enc :=
  let sp := opSpec op
  match formOf (wLen w) with
  | .base => .ok (baseEnc sp w)
  | .literal =>
    let e := literalEnc sp w w1 w2
    if w.extractLsb' 29 3 != 0 then .error .reservedBit
    else if !literalWide op e.ty && w2 != 0 then .error .badImm
    else .ok e
  | .extended =>
    match rndOf (w1.extractLsb' 29 3) with
    | none => .error .badRnd
    | some r => if w2.getLsbD 13 then .error .reservedBit else .ok (extEnc .extended r w w1 w2 0 0 0 0)
  | .block =>
    match rndOf (w1.extractLsb' 29 3) with
    | none => .error .badRnd
    | some r => if w2.getLsbD 13 then .error .reservedBit else .ok (extEnc .block r w w1 w2 p0 p1 p2 p3)

/-- The decoder on words: a form that the opcode accepts is checked before the fields are read (R17, R44). An unassigned
`OP` decodes in every form to the instruction that traps ILLEGAL (R58). -/
def decodeWords (ws : List Word) : Except DecodeErr Instr :=
  match ws with
  | [] => .error .truncated
  | w :: _ =>
    let f := formOf (wLen w)
    if ws.length < f.words then .error .truncated
    else match Op.ofCode (wOp w) with
      | none => .ok (.unassignedOpcode (wOp w) (wLen w))
      | some op =>
        if !(opSpec op).forms.contains f then .error .badLen
        else match decodeFields op w (ws.getD 1 0) (ws.getD 2 0) (ws.getD 3 0) (ws.getD 4 0) (ws.getD 5 0) (ws.getD 6 0) with
          | .error r => .error r
          | .ok e => match encErr op e with
            | some r => .error r
            | none => .ok (Instr.ofOp e op)

/-- Little-endian words of a byte stream (R5); a tail of fewer than four bytes is dropped. -/
def wordsOf : List Byte → List Word
  | b0 :: b1 :: b2 :: b3 :: rest => (b3 ++ b2 ++ b1 ++ b0) :: wordsOf rest
  | _ => []

/-- The decoder on bytes. -/
def decodeBytes (bs : List Byte) : Except DecodeErr Instr := decodeWords (wordsOf bs)

/-- The four bytes of a word, lowest address first (R5). -/
def bytesOfWord (w : Word) : List Byte :=
  [w.extractLsb' 0 8, w.extractLsb' 8 8, w.extractLsb' 16 8, w.extractLsb' 24 8]

/-- The bytes of a sequence of words. -/
def bytesOfWords (ws : List Word) : List Byte := ws.flatMap bytesOfWord

/-- The base word (R18). -/
def encodeBase (op : Op) (e : Enc) : Word :=
  let sp := opSpec op
  let bf : BitVec 7 := match e.form with
    | .base => baseBits sp.sb e.bk e.b
    | .literal => 0#3 ++ e.ty
    | _ => e.b.extractLsb' 0 7
  let af : BitVec 7 := match e.form with
    | .base | .literal => baseBits sp.sa e.ak e.a
    | _ => e.a.extractLsb' 0 7
  bf ++ af ++ e.d ++ BitVec.ofNat 8 sp.code ++ e.form.len

/-- One bit of a Boolean field. -/
def boolBit (b : Bool) : BitVec 1 := BitVec.ofBool b

/-- Word w1 of the extended form (R21). -/
def encodeW1 (e : Enc) : Word :=
  e.rnd.bits ++ e.opx ++ e.ld ++ boolBit e.le ++ boolBit e.nw ++ boolBit e.pn ++ e.pg ++ e.c ++ e.ck.bits ++
  e.b.extractLsb' 7 1 ++ e.bk.bits ++ e.a.extractLsb' 7 1 ++ e.ak.bits

/-- Word w2 of the extended form (R22). -/
def encodeW2 (e : Enc) : Word := e.imm ++ 0#1 ++ e.mod ++ boolBit e.sat ++ e.ty

/-- The words of an instruction of an opcode. -/
def encodeFields (op : Op) (e : Enc) : List Word :=
  match e.form with
  | .base => [encodeBase op e]
  | .literal => [encodeBase op e, e.lit.extractLsb' 0 32, e.lit.extractLsb' 32 32]
  | .extended => [encodeBase op e, encodeW1 e, encodeW2 e]
  | .block => [encodeBase op e, encodeW1 e, encodeW2 e, e.p0, e.p1, e.p2, e.p3]

/-- The words of an instruction; none for the steps of other agents, which are no instruction words. The operand words of
an unassigned opcode are not part of the instruction's identity and encode as zeros. -/
def encode (i : Instr) : List Word :=
  match i.parts with
  | some (op, e) => encodeFields op e
  | none =>
    match i with
    | .unassignedOpcode c len => (0#22 ++ c ++ len) :: List.replicate ((formOf len).words - 1) 0
    | _ => []

/-- The instruction that the decoder reads from a word numbered as spec/opcode_table.json numbers it: the low `nbits`
bits of `w`, little-endian in memory, followed by zeros up to the longest instruction. -/
def decodeTableWord (nbits w : Nat) : Option Instr :=
  (decodeBytes (bytesOfWords ((List.range 7).map fun k => BitVec.ofNat 32 ((w % 2 ^ nbits) >>> (32 * k))))).toOption

end Sys2Proof
end

