-- ==== Sys2Proof/Machine/Lanes.lean ====
section
/-! DEFINITION. When a blocked split is READY again (R114), the issue choice of a lane (R125-R127, R135), what an issue does to latches
and ranks (R35, R36), and the fetch of an instruction's words (R16). -/

namespace Sys2Proof.Machine

/-- Threads of special-function requests outstanding in the queue of a lane's group of four lanes; those of a halted wave are
saved with it (R170). -/
def State.sfqUsed (s : State) (core lane : Nat) : Nat :=
  (s.waves.filter fun w => w.core == core && w.lane / 4 == lane / 4 && !w.halted).foldl
    (fun n w => n + (w.pend.filter fun p => match p.body with | .sfq .. => true | _ => false).foldl
      (fun n p => n + popMask p.mask) 0) 0

/-- A link has room for `n` more operations: at most 4,096 are not acknowledged (R415). -/
def State.linkRoom (s : State) (l n : Nat) : Bool :=
  match s.links[l]? with
  | some k => decide ((k.ops.filter fun o => !o.acked).length + n ≤ 4096)
  | none => true

/-- Records in use in a cluster's reservation table (R344): those of a context that is swapped out are with its image
(R357). -/
def State.tableUsed (s : State) (cl : Nat) : Nat :=
  (s.tasks.filter fun t => t.cl == cl && (s.ctx t.ctx).st != .swapped).length

/-- A wait is over (R114). Waits that an event of the opcode table ends are never over by themselves. -/
def waitMet (s : State) (w : Wave) : Wait → Bool
  | .score l | .writes l => w.writesDone l
  | .timeline k n => decide (n ≤ (w.tl k).completed)
  | .grant => match s.group? w.group with | some g => g.granted | none => true
  | .barrier _ g num ph rec_ =>
    match (s.group? g).bind fun x => x.bars[num]? with
    | some b => !rec_ && decide (ph < b.phases)
    | none => true
  | .queueState q st => match s.queue? q with | some x => x.st == st || x.ctx != w.ctx | none => true
  | .queueDone q n => match s.queue? q with | some x => decide (n ≤ x.done) || x.ctx != w.ctx | none => true
  | .migration va => !s.isMigrating w.ctx va
  | .drain l => s.drained w l
  | .copies l => !l.any fun x => w.tlwaits x.1 x.2
  | .roomSfq => decide (s.sfqUsed w.core w.lane < 256)
  | .roomTl k => decide ((w.tl k).open_.length < 64)
  | .roomLink l n => s.linkRoom l n
  | .roomTable cl => decide (s.tableUsed cl < 16)
  | .roomPark q => decide (s.parkBuf.length < 256) || (match s.queue? q with | some x => x.onChip | none => true)
  | .over => true
  | .inval .. | .rollCall | .grel .. | .twait .. | .ldfe .. | .scDrain .. | .scTick .. => false

/-- A register-window store to the wave is still to be performed: its wave was open at the store's issue, and stays so until
then (R185, log 85). -/
def State.regStores (s : State) (w : Wave) : Bool :=
  s.stores.any fun m => match m.acc.place with
    | .reg core lane slot .. => core == w.core && lane == w.lane && slot == w.slot
    | _ => false

/-- An old value of a read-modify-write that the wave has issued is not yet written (R219). -/
def State.rmwOwed (s : State) (w : Wave) : Bool :=
  (s.stores.any fun m => m.wave == w.uid && m.ret.isSome) || w.pend.any fun p => match p.body with
    | .atom _ _ _ vals => p.mask &&& maskOfList (vals.map (·.1)) != 0
    | _ => false

/-- The split can issue: READY, or BLOCKED on a wait that is over; in a handler only the handler split issues (R332); a
halted wave, a wave of a context that does not run, one stopped by a fault of its context, one with a register-window store
to it, and one that waits after a halt for its old values (R219) issue nothing. -/
def canIssue (s : State) (w : Wave) (p : Split) : Bool :=
  !w.halted && !s.regStores w && !(w.back && s.rmwOwed w) && !w.stuck && (s.ctx w.ctx).st == .running &&
  (match w.trap with | some t => p.num == t.spl | none => true) &&
  (match p.st with | .ready => true | .blocked wt => waitMet s w wt | .parked .ready | .parked .failed => true | _ => false)

/-- The candidates of a lane (R125): its waves in creation order, each with its splits that can issue. -/
def candidates (s : State) (core lane : Nat) : List (Wave × Split) :=
  (s.waves.filter fun w => w.core == core && w.lane == lane).flatMap fun w =>
    (w.splits.filter fun p => canIssue s w p).map fun p => (w, p)

/-- The wave's latches are kept from the lane's other waves: they lie in the latch store, where a split that parks or waits
for room has moved them until the wave issues again (R36), or they are saved with the halted wave (R327). -/
def Wave.latchesStored (w : Wave) : Bool := w.stored || w.halted

/-- A valid latch holds the lane (R36), and so does a wave that waits for room in the special-function queue (R170). -/
def Wave.holdsLane (w : Wave) : Bool :=
  (w.latch.valid != 0 && !w.latchesStored) ||
  (!w.halted && w.splits.any fun p => p.num == w.lastSp && p.st == .blocked .roomSfq)

/-- The wave and split that hold a lane (R36, R125, R170). -/
def laneHolder (s : State) (core lane : Nat) : Option (Nat × Nat) :=
  ((s.waves.filter fun w => w.core == core && w.lane == lane).find? fun w =>
    w.holdsLane && (w.split? w.lastSp).isSome).map fun w => (w.uid, w.lastSp)

/-- The mark of R127 still ranks the split down: some candidate of the moment of marking has not issued since and is still
one. -/
def markStands (cs : List (Wave × Split)) (p : Split) : Bool :=
  match p.marked with
  | none => false
  | some l => cs.any fun c => l.contains (c.1.uid, c.2.num)

/-- The rank of a candidate: marked after yielded after the others, then the oldest wave, then the split with the lowest
active thread (R125, R127, R135). -/
def rank (cs : List (Wave × Split)) (c : Wave × Split) : Nat :=
  ((if markStands cs c.2 then 2 else if c.2.yielded then 1 else 0) * 2 ^ 40 + c.1.uid) * 64 + lowest c.2.mask

/-- The candidate of the least rank. -/
def leastRank (cs : List (Wave × Split)) : List (Wave × Split) → Option (Wave × Split)
  | [] => none
  | c :: r => match leastRank cs r with
    | none => some c
    | some d => if rank cs d < rank cs c then some d else some c

/-- The class that issues: the highest with a candidate, unless the sector owes a lower one that has a candidate (R125,
R126). -/
def issueClass (s : State) (core lane : Nat) (cs : List (Wave × Split)) : Option Nat :=
  let has (c : Nat) : Bool := cs.any fun x => x.1.cls == c
  match (List.range 4).find? has with
  | none => none
  | some c =>
    some (((List.range 4).find? fun k => has k && s.owed.contains (core, lane / 16, k)).getD c)

/-- The issue choice of a lane (R125). -/
def chooseIssue (s : State) (core lane : Nat) : Option (Wave × Split) :=
  let cs := candidates s core lane
  let last := s.lanes.find? fun l => l.core == core && l.lane == lane
  match laneHolder s core lane with
  | some (u, n) => cs.find? fun c => c.1.uid == u && c.2.num == n
  | none =>
    match issueClass s core lane cs with
    | none => none
    | some c =>
      let ofClass := cs.filter fun x => x.1.cls == c
      let greedy : Option (Wave × Split) := match last with
        | some l => ofClass.find? fun (x : Wave × Split) => x.1.uid == l.wave && x.2.num == l.split && x.2.issues < 256 &&
            !x.2.yielded && !markStands cs x.2
        | none => none
      greedy.orElse fun _ => leastRank cs ofClass

/-- The other candidates of a wave's class on its lane. -/
def rivals (s : State) (w : Wave) (n : Nat) : List (Nat × Nat) :=
  ((candidates s w.core w.lane).filter fun c => c.1.cls == w.cls && !(c.1.uid == w.uid && c.2.num == n)).map fun c =>
    (c.1.uid, c.2.num)

/-- Marking a split at the rotation limit (R127): with its rivals of that moment, or not at all when it has none. Its count of
consecutive issues starts again at 0 (log 49). -/
def Split.markBy (q : Split) (l : List (Nat × Nat)) : Split :=
  { q with marked := if l.isEmpty then none else some l, issues := 0 }

/-- A mark at a choice of the lane (R127): a rival that issues, or is no candidate, is off the list for good, and a mark without
rivals is removed. -/
def Split.prune (q : Split) (cs : List (Nat × Nat)) (issuing : Nat × Nat) : Split :=
  { q with marked := match q.marked with
      | none => none
      | some l =>
        let rest := l.filter fun k => cs.contains k && k != issuing
        if rest.isEmpty then none else some rest }

/-- Counting an issue of a split in its run of consecutive ones; the one that reaches 256 marks it (R127). -/
def Split.countIssue (q : Split) (consecutive : Bool) (l : List (Nat × Nat)) : Split :=
  let n := if consecutive then q.issues + 1 else 1
  if 256 ≤ n then q.markBy l else { q with issues := n }

/-- What the issue of a split does beside executing it: the latches of the lane's other waves, and of the wave itself when
another of its splits issued last, become invalid unless they are kept from them (R35, R36); ranks and counts change
(R126, R127, R135). -/
def enterIssue (s : State) (w : Wave) (p : Split) : State :=
  let consecutive := s.lanes.any fun l => l.core == w.core && l.lane == w.lane && l.wave == w.uid && l.split == p.num
  let cs := (candidates s w.core w.lane).map fun c => (c.1.uid, c.2.num)
  let others := rivals s w p.num
  let s := { s with
    lanes := { core := w.core, lane := w.lane, wave := w.uid, split := p.num } ::
      s.lanes.filter fun l => !(l.core == w.core && l.lane == w.lane)
    owed := s.owed.filter fun o => !(o == (w.core, w.lane / 16, w.cls)) }
  { s with waves := s.waves.map fun x =>
      if x.core = w.core && x.lane = w.lane then
        let x := { x with splits := x.splits.map fun q => { q.prune cs (w.uid, p.num) with yielded := false } }
        if x.uid = w.uid then
          let x := if x.lastSp = p.num then x else x.dropLatches
          { x with
            splits := x.splits.map fun (q : Split) =>
              if q.num = p.num then q.countIssue consecutive others else { q with latchOff := true }
            lastSp := p.num, stored := false, back := false }
        else if x.latchesStored then x else x.dropLatches
      else x }

/-! ### Starvation and rotation -/

/-- The issue choices that a class has waited for in a sector (R126). -/
def State.starved (s : State) (core sector cls : Nat) : Nat :=
  match s.starve.find? fun x => x.1 == core && x.2.1 == sector && x.2.2.1 == cls with
  | some x => x.2.2.2
  | none => 0

/-- A class has a split in a sector that can issue. -/
def State.classWaits (s : State) (core sector cls : Nat) : Bool :=
  s.waves.any fun w => w.core == core && w.lane / 16 == sector && w.cls == cls && w.splits.any fun p => canIssue s w p

/-- Counting an issue of a class in the sector of a lane (R126): the other classes below REALTIME that have a split that can
issue wait one more, and the count of the issuing class is cleared. A count that reaches 64 makes the sector owe the class an
issue. -/
def countStarved (s : State) (core lane cls : Nat) : State :=
  let sector := lane / 16
  let count (k : Nat) : Nat :=
    if k = cls then 0 else if s.classWaits core sector k then s.starved core sector k + 1 else s.starved core sector k
  let here := ([1, 2, 3].map fun k => (core, sector, k, count k)).filter fun x => x.2.2.2 != 0
  let due := (here.filter fun x => decide (64 ≤ x.2.2.2) && !s.owed.contains (core, sector, x.2.2.1)).map fun x =>
    (core, sector, x.2.2.1)
  { s with starve := here ++ s.starve.filter (fun x => !(x.1 == core && x.2.1 == sector)), owed := s.owed ++ due }

/-- R126: a count has reached 64, and the sector owes the class an issue. -/
def execSectorOwedIssue (core sector cls : Nat) (s : State) : Out :=
  .next (if s.starved core sector cls < 64 || s.owed.contains (core, sector, cls) then s
         else { s with owed := s.owed ++ [(core, sector, cls)] })

/-- R127: a split with 256 consecutive issues is marked, and ranks last in its class until the other candidates have issued
or stopped being candidates. -/
def execRotationLimit (u n : Nat) (s : State) : Out :=
  .next (match s.wave? u with
    | none => s
    | some w => s.modSplit u n fun q => if q.issues < 256 then q else q.markBy (rivals s w n))

/-! ### The fetch -/

/-- A fetch: the instruction's words, or a trap, or a park (R16). -/
inductive Fetch where
  | words (l : List Word) (s : State)
  | trap (c : Cause) (addr : Nat)
  | park (p : ParkOn) (s : State)

/-- Fetching words from an address: each is translated for a fetch in the wave's mode (R16, R236). -/
def fetchGo (w : Wave) (split : Nat) : Nat → Nat → State → List Word → Fetch
  | 0, _, s, acc => .words acc s
  | n + 1, va, s, acc =>
    if 2 ^ 57 ≤ va then .trap .space va
    else match translate s (.core w.core) none w.ctx va .fetch (s.waveSup w) with
      | .ok t pa =>
        let host := t.host || !inDevice pa 4
        if !host && s.badAt pa 4 then .trap .ecc va
        else
          let x := BitVec.ofNat 32 (if host then readLe s.hostMem pa 4 else readLe s.mem pa 4)
          fetchGo w split n (va + 4) (s.fill t) (acc ++ [x])
      | x => match parkFor s w.ctx va .fetch (waveAgent w split) x with
        | .ok (p, s) => .park p s
        | .error c => .trap c va

/-- Fetching an instruction: its first word fixes its length, and every word is fetched before it has any effect (R15,
R16). -/
def fetch (s : State) (w : Wave) (p : Split) : Fetch :=
  let va := p.pc.toNat
  if va % 4 != 0 then .trap .align va
  else match fetchGo w p.num 1 va s [] with
    | .words [x] s => fetchGo w p.num ((formOf (wLen x)).words - 1) (va + 4) s [x]
    | r => r

end Sys2Proof.Machine
end

