-- ==== Sys2Proof/Machine/Special.lean ====
section
/-! DEFINITION. The special functions of R90 and R91. Algebraic functions are computed exactly with a sticky bit.
Transcendental functions are computed in fixed point with 1,400 fraction bits and an error far below 2^-1340; their value
is then known to lie strictly between two neighbouring multiples of 2^-1340, which decides every FP32 rounding and the
`NX` and `UF` flags (log 12). -/

namespace Sys2Proof.Machine

/-- Fraction bits of the fixed-point computations. -/
def fxQ : Nat := 1400
/-- One in fixed point. -/
def fxOne : Nat := 2 ^ fxQ
/-- Fixed-point product. -/
def fxMul (a b : Nat) : Nat := a * b / fxOne
/-- Fixed-point quotient. -/
def fxDiv (a b : Nat) : Nat := a * fxOne / b

/-- Integer square root by Newton's method from above; 64 rounds suffice for 2^(2^60). -/
def isqrtGo (n : Nat) : Nat → Nat → Nat
  | 0, x => x
  | fuel + 1, x => let y := (x + n / x) / 2; if y < x then isqrtGo n fuel y else x

/-- floor(sqrt n). -/
def isqrt (n : Nat) : Nat := if n = 0 then 0 else isqrtGo n 64 (2 ^ (Nat.log2 n / 2 + 1))

/-- Horner evaluation of Σ_{k} z^k / (2k + 1), `k` counting up from the outside. -/
def oddSeries (z : Nat) : Nat → Nat → Nat
  | 0, _ => 0
  | n + 1, k => fxOne / (2 * k + 1) + fxMul z (oddSeries z n (k + 1))

/-- atanh z for 0 ≤ z ≤ 1/3. -/
def fxAtanh (z : Nat) : Nat := fxMul z (oddSeries (fxMul z z) 460 0)

/-- ln 2 = 2 atanh(1/3). -/
def fxLn2 : Nat := 2 * fxAtanh (fxOne / 3)

/-- Horner evaluation of Σ_{k} (−1)^k w / (n^(2k+1) (2k+1)) without the leading 1/n, in units 1/w. -/
def atanInv (w n : Nat) : Nat → Nat → Int
  | 0, _ => 0
  | f + 1, k => (w / (2 * k + 1) : Nat) - atanInv w n f (k + 1) / ((n * n : Nat) : Int)

/-- π in units of 1/w, by Machin's formula. -/
def piAt (w : Nat) : Nat := (16 * (atanInv w 5 380 0 / 5) - 4 * (atanInv w 239 120 0 / 239)).toNat

/-- e^(−r) for a fixed-point 0 ≤ r < 1, by Taylor's series from the inside: 1 − r/k × (…). -/
def expNegSeries (r : Nat) : Nat → Nat → Nat
  | 0, _ => fxOne
  | n + 1, k => fxOne - fxMul r (expNegSeries r n (k + 1)) / k

/-- e^(−y) for a fixed-point y ≥ 0: 2^(−k) e^(−r). -/
def fxExpNeg (y : Nat) : Nat :=
  let k := y / fxLn2
  if 2000 < k then 0 else expNegSeries (y % fxLn2) 240 1 / 2 ^ k

/-- e^r for a fixed-point 0 ≤ r < 1. -/
def expSeries (r : Nat) : Nat → Nat → Nat
  | 0, _ => fxOne
  | n + 1, k => fxOne + fxMul r (expSeries r n (k + 1)) / k

/-- 1 − r²/(a(a+1)) (1 − r²/((a+2)(a+3)) (…)): cosine for a = 1, sine over r for a = 2. -/
def trigSeries (r2 : Nat) : Nat → Nat → Nat
  | 0, _ => fxOne
  | n + 1, a => fxOne - fxMul r2 (trigSeries r2 n (a + 2)) / (a * (a + 1))

/-- 1 + z/3 (1 + z/5 (1 + …)) of the error function's series. -/
def erfSeries (z : Nat) : Nat → Nat → Nat
  | 0, _ => fxOne
  | n + 1, k => fxOne + fxMul z (erfSeries z n (k + 1)) / (2 * k + 1)

/-- A positive number known in fixed point to within 2^40 units, as an exact value with a sticky bit: it lies strictly
between `lo` and the next multiple of 2^-1340. -/
def fromFx (neg : Bool) (y : Nat) (e : Int) : Val :=
  .fin neg (2 * ((y - 2 ^ 40) / 2 ^ 60) + 1) (e - (fxQ : Int) + 59)

/-- The fixed-point value of m × 2^e, for e ≥ −1400. -/
def toFx (m : Nat) (e : Int) : Nat := m * 2 ^ ((fxQ : Int) + e).toNat

/-- n / d × 2^e as an exact value with a sticky bit. -/
def ratio (neg : Bool) (n d : Nat) (e : Int) : Val :=
  let q := n * 2 ^ 96 / d
  let s := if n * 2 ^ 96 % d = 0 then 0 else 1
  .fin neg (2 * q + s) (e - 97)

/-- √(m × 2^e) as an exact value with a sticky bit. -/
def sqrtVal (m : Nat) (e : Int) : Val :=
  let odd := e % 2 != 0
  let m' := (if odd then 2 * m else m) * 2 ^ 80
  let e' := (if odd then e - 1 else e) - 80
  let r := isqrt m'
  .fin false (2 * r + (if r * r = m' then 0 else 1)) (e' / 2 - 1)

/-- 1/√(m × 2^e) as an exact value with a sticky bit. -/
def rsqrtVal (m : Nat) (e : Int) : Val :=
  let odd := e % 2 != 0
  let m' := if odd then 2 * m else m
  let e' := if odd then e - 1 else e
  let r := isqrt (2 ^ 160 / m')
  .fin false (2 * r + (if r * r * m' = 2 ^ 160 then 0 else 1)) (-(e' / 2) - 81)

/-- 2^x for a finite non-zero x. -/
def exp2Val (neg : Bool) (m : Nat) (e : Int) : Val :=
  let x := toFx m e
  let k := x / fxOne
  let f := x % fxOne
  let k' : Int := (min k 1000 : Nat)
  if f = 0 then .fin false 1 (if neg then -k' else k')
  else if neg then
    fromFx false (expSeries (fxMul (fxOne - f) fxLn2) 240 1) (-k' - 1)
  else fromFx false (expSeries (fxMul f fxLn2) 240 1) k'

/-- log2 of a positive finite m × 2^e. -/
def log2Val (m : Nat) (e : Int) : Val :=
  let l := Nat.log2 m
  let ex : Int := (l : Int) + e
  if m = 2 ^ l then .ofInt ex
  else
    let g := toFx m (-(l : Int))
    let z := fxDiv (g - fxOne) (g + fxOne)
    let y : Int := (fxDiv (2 * fxAtanh z) fxLn2 : Nat) + ex * (fxOne : Nat)
    if y < 0 then fromFx true y.natAbs 0 else fromFx false y.natAbs 0

/-- sin (or cos) of ±m × 2^e with non-zero m: the argument is reduced by π/2 with 200 more bits. -/
def trigVal (cos neg : Bool) (m : Nat) (e : Int) : Val :=
  let w := 2 ^ (fxQ + 200)
  let half := piAt w / 2
  let x := m * 2 ^ (((fxQ + 200 : Nat) : Int) + e).toNat
  let n := x / half
  let r := (x % half) / 2 ^ 200
  let r2 := fxMul r r
  let quad := (n + if cos then 1 else 0) % 4
  let mag := if quad % 2 = 0 then fxMul r (trigSeries r2 140 2) else trigSeries r2 140 1
  fromFx ((decide (2 ≤ quad)) != (neg && !cos)) mag 0

/-- tanh of ±m × 2^e. -/
def tanhVal (neg : Bool) (m : Nat) (e : Int) : Val :=
  let u := fxExpNeg (2 * toFx m e)
  fromFx neg (fxDiv (fxOne - u) (fxOne + u)) 0

/-- The logistic function of ±m × 2^e. -/
def sigmVal (neg : Bool) (m : Nat) (e : Int) : Val :=
  let u := fxExpNeg (toFx m e)
  fromFx false (fxDiv (if neg then u else fxOne) (fxOne + u)) 0

/-- erf of ±m × 2^e; from 6 on it lies strictly between 1 − 2^-50 and 1. -/
def erfVal (neg : Bool) (m : Nat) (e : Int) : Val :=
  let x := toFx m e
  if 6 * fxOne ≤ x then fromFx neg fxOne 0
  else
    let x2 := fxMul x x
    let s := fxMul (fxMul x (erfSeries (2 * x2) 640 1)) (fxExpNeg x2)
    fromFx neg (fxDiv (2 * s) (isqrt (piAt fxOne * fxOne))) 0

/-- The exact value of a special function with its `NV` and `DZ` flags (R90). `fn` is `OPX` modulo 16; `DIV` reads `b`. -/
def sfVal (fn : Nat) (a b : Val) : Val × Byte :=
  match fn with
  | 3 =>
    match a, b with
    | .nan, _ => (.nan, 0)
    | _, .nan => (.nan, 0)
    | .inf _, .inf _ => (.nan, flNV)
    | .inf n, .fin k _ _ => (.inf (n != k), 0)
    | .fin n _ _, .inf k => (.fin (n != k) 0 0, 0)
    | .fin n m e, .fin k m' e' =>
      if m' = 0 then (if m = 0 then (.nan, flNV) else (.inf (n != k), flDZ))
      else (ratio (n != k) m m' (e - e'), 0)
  | _ =>
    match a with
    | .nan => (.nan, 0)
    | .inf n =>
      match fn with
      | 0 => (.fin n 0 0, 0)
      | 1 => if n then (.nan, flNV) else (.fin false 0 0, 0)
      | 2 => if n then (.nan, flNV) else (.inf false, 0)
      | 4 => if n then (.fin false 0 0, 0) else (.inf false, 0)
      | 5 => if n then (.nan, flNV) else (.inf false, 0)
      | 6 => (.nan, flNV)
      | 7 => (.nan, flNV)
      | 9 => if n then (.fin false 0 0, 0) else (.fin false 1 0, 0)
      | _ => (.fin n 1 0, 0)
    | .fin n 0 _ =>
      match fn with
      | 0 => (.inf n, flDZ)
      | 1 => (.inf n, flDZ)
      | 4 => (.fin false 1 0, 0)
      | 5 => (.inf true, flDZ)
      | 7 => (.fin false 1 0, 0)
      | 9 => (.fin false 1 (-1), 0)
      | _ => (.fin n 0 0, 0)
    | .fin n m e =>
      match fn with
      | 0 => (ratio n 1 m (-e), 0)
      | 1 => if n then (.nan, flNV) else (rsqrtVal m e, 0)
      | 2 => if n then (.nan, flNV) else (sqrtVal m e, 0)
      | 4 => (exp2Val n m e, 0)
      | 5 => if n then (.nan, flNV) else (log2Val m e, 0)
      | 6 => (trigVal false n m e, 0)
      | 7 => (trigVal true n m e, 0)
      | 8 => (tanhVal n m e, 0)
      | 9 => (sigmVal n m e, 0)
      | _ => (erfVal n m e, 0)

/-- The ulp exponent of FP32 in the binade of a value (R91). -/
def ulpExp (v : Val) : Int :=
  match v with
  | .fin _ (m + 1) e => max (ilog2 (m + 1) e) fp32.emin - 23
  | _ => fp32.qmin

/-- A code lies within 2 ulp of the exact value (R91). -/
def within2Ulp (code : Nat) (v : Val) : Bool :=
  match decodeF fp32 code, v with
  | .fin n m e, .fin k m' e' =>
    let d := (exactSum .ne [.fin n m e, .fin (!k) m' e']).1.abs
    cmpVal false d (.fin false 2 (ulpExp v)) ≤ 0
  | _, _ => false

/-- An operand is a special case of R90, which a `.fast` function takes too (R91); `EXP2`'s overflow and underflow show in its
flags. -/
def sfSpecial (fn : Nat) (fl : Byte) (a b : Val) : Bool :=
  let open_ (x : Val) : Bool := match x with | .fin _ (_ + 1) _ => false | _ => true
  match fn with
  | 3 => open_ a || open_ b
  | 4 => (match a with | .fin .. => fl &&& (flOF ||| flUF) != 0 | _ => true)
  | 7 => (match a with | .fin .. => false | _ => true)
  | 5 => open_ a || cmpVal false a (.fin false 1 0) == 0
  | _ => open_ a

/-- The result of an `SFQ` request (R90, R91). A `.fast` result outside the special cases is a code near the correctly rounded
one that the device chose, within 2 ulp; flags are those of the correctly rounded result (log 11). -/
def sfqResult (opx a b : Nat) : FRes :=
  let fn := opx % 16
  let v := sfVal fn (decodeF fp32 a) (decodeF fp32 b)
  let r := roundNe fp32 v.1
  let fl := r.fl ||| v.2
  if opx < 16 then ⟨r.bits, fl⟩
  else
    let c := r.bits + Config.fastChoice fn a (if fn = 3 then b else 0) % 5 - 2
    if v.2 = 0 && !sfSpecial fn fl (decodeF fp32 a) (decodeF fp32 b) && within2Ulp c v.1 then ⟨c, fl⟩ else ⟨r.bits, fl⟩

end Sys2Proof.Machine
end

