-- ==== Sys2Proof/Machine/VectorInt.lean ====
section
/-! DEFINITION. `NOP` and the vector integer, bit-field, selection and index-register instructions (R57, R147, R149-R158). -/

namespace Sys2Proof.Machine

/-! ### Shared computations -/

/-- Element width, element count and signedness of an integer `TYPE` (R29, R68). -/
def intWidth (ty : Nat) : Nat := match ty with | 2 | 3 => 64 | 4 | 5 => 16 | 6 | 7 => 8 | _ => 32
def intSigned (ty : Nat) : Bool := ty % 2 == 0

/-- One integer element's result (R147): the exact value saturated with `IS`, or wrapped. -/
def intElem (sat sg : Bool) (w : Nat) (x : Int) : FRes :=
  if sat then
    let y := clampInt sg w x
    ⟨wrapInt w y, if y = x then 0 else flIS⟩
  else ⟨wrapInt w x, 0⟩

/-- Packing element results, with the or of their flags (R68). -/
def packRes (w : Nat) (l : List FRes) : FRes := ⟨packElems w (l.map (·.bits)), l.foldl (fun f r => f ||| r.fl) 0⟩

/-- An integer instruction on one thread's operands: `f` on the exact elements (R147). -/
def intResult (ty : Nat) (sat : Bool) (f : Int → Int → Int → Int) (a b c : Nat) : FRes :=
  let w := intWidth ty
  let sg := intSigned ty
  packRes w ((List.range (intCount ty)).map fun k =>
    intElem sat sg w (f (readInt sg w (elem w a k)) (readInt sg w (elem w b k)) (readInt sg w (elem w c k))))

/-- An integer instruction over the enabled threads. -/
def Issue.intOp (i : Issue) (s : State) (f : Int → Int → Int → Int) : Res :=
  let wd := i.wideTy
  i.vec s wd fun t => intResult i.e.ty.toNat i.e.sat f (i.a wd t) (i.b wd t) (i.c wd t)

/-- The shift amount of element `k` (R149): b.e[7:0], or IMM18[7:0] for every element where the amount is an immediate. -/
def Issue.shiftBy (i : Issue) (wd : Bool) (t k : Nat) : Nat :=
  let w := intWidth i.e.ty.toNat
  if i.e.form != .literal && i.e.bk == .imm then i.e.imm.toNat % 256 else elem w (i.b wd t) k % 256

/-- A shift over the enabled threads: `f` on the element's bits and the amount. -/
def Issue.shiftOp (i : Issue) (s : State) (f : Nat → Nat → Nat → Int) : Res :=
  let wd := i.wideTy
  let ty := i.e.ty.toNat
  let w := intWidth ty
  i.vec s wd fun t =>
    packRes w ((List.range (intCount ty)).map fun k =>
      intElem i.e.sat (intSigned ty) w (f w (elem w (i.a wd t) k) (i.shiftBy wd t k)))

/-- A bitwise operation on whole operands. -/
def Issue.bitOp (i : Issue) (s : State) (f : Nat → Nat → Nat) : Res :=
  let wd := i.wideTy
  i.vec s wd fun t => ⟨f (i.a wd t) (i.b wd t), 0⟩

/-- The width of a whole operand. -/
def Issue.opWidth (i : Issue) : Nat := if i.wideTy then 64 else 32

/-- A number's ones, leading zeros and trailing zeros in a width (R149). -/
def popcount : Nat → Nat → Nat
  | 0, _ => 0
  | n + 1, x => x % 2 + popcount n (x / 2)
def clz (w x : Nat) : Nat := if x = 0 then w else w - 1 - Nat.log2 x
def ctz : Nat → Nat → Nat
  | 0, _ => 0
  | n + 1, x => if x % 2 = 1 then 0 else 1 + ctz n (x / 2)
/-- Reversing the bits of a width. -/
def bitrev : Nat → Nat → Nat
  | 0, _ => 0
  | n + 1, x => (x % 2) * 2 ^ n + bitrev n (x / 2)

/-- The bit field of R141: position b[7:0], length min(b[15:8], 32), extended from its last bit or with zeros; bits past
31 are the sign of a when signed. -/
def bitField (sg : Bool) (a b : Nat) : Nat :=
  let pos := b % 256
  let len := min (b / 256 % 256) 32
  if len = 0 then 0
  else
    let ax : Int := readInt sg 32 a
    let f := wrapInt len (ax / (2 ^ pos : Nat))
    wrapInt 32 (readInt sg len f)

/-- The insertion of `BFI` (R150): bits past 31 are dropped. -/
def bitInsert (a b c : Nat) : Nat :=
  let pos := c % 256
  let len := min (c / 256 % 256) 32
  let m := (2 ^ len - 1) * 2 ^ pos % 2 ^ 32
  (a &&& (2 ^ 32 - 1 - m)) ||| (b * 2 ^ pos % 2 ^ 32 &&& m)

/-- The byte selection of `BPERM` (R151). -/
def bytePerm (a b c : Nat) : Nat :=
  packElems 8 ((List.range 4).map fun k =>
    let sel := elem 4 c k
    let x := if sel % 8 < 4 then elem 8 a (sel % 8) else elem 8 b (sel % 8 - 4)
    if 8 ≤ sel then (if 128 ≤ x then 0xFF else 0) else x)

/-- The dot product of `DP4` (R152). -/
def dot4 (ty : Nat) (a b c : Nat) : Int :=
  let sg := ty = 6
  (List.range 4).foldl (fun x k => x + readInt sg 8 (elem 8 a k) * readInt sg 8 (elem 8 b k)) (readInt sg 32 c)

/-! ### Meanings -/

/-- R57. -/
def execNop (e : Enc) (s : State) : Out := runInstr .nop e s fun _ s => .done s
/-- R149. -/
def execIadd (e : Enc) (s : State) : Out := runInstr .iadd e s fun i s => i.intOp s fun a b _ => a + b
/-- R149. -/
def execIsub (e : Enc) (s : State) : Out := runInstr .isub e s fun i s => i.intOp s fun a b _ => a - b
/-- R149. -/
def execImul (e : Enc) (s : State) : Out := runInstr .imul e s fun i s => i.intOp s fun a b _ => a * b
/-- R149: the high half of the exact product. -/
def execImulh (e : Enc) (s : State) : Out := runInstr .imulh e s fun i s =>
  i.intOp s fun a b _ => a * b / (2 ^ intWidth i.e.ty.toNat : Nat)
/-- R149. -/
def execImad (e : Enc) (s : State) : Out := runInstr .imad e s fun i s => i.intOp s fun a b c => a * b + c
/-- R149. -/
def execImin (e : Enc) (s : State) : Out := runInstr .imin e s fun i s => i.intOp s fun a b _ => min a b
/-- R149. -/
def execImax (e : Enc) (s : State) : Out := runInstr .imax e s fun i s => i.intOp s fun a b _ => max a b
/-- R149. -/
def execIabs (e : Enc) (s : State) : Out := runInstr .iabs e s fun i s => i.intOp s fun a _ _ => (a.natAbs : Int)
/-- R149. -/
def execIneg (e : Enc) (s : State) : Out := runInstr .ineg e s fun i s => i.intOp s fun a _ _ => -a
/-- R149. -/
def execAnd (e : Enc) (s : State) : Out := runInstr .and e s fun i s => i.bitOp s fun a b => a &&& b
/-- R149. -/
def execOr (e : Enc) (s : State) : Out := runInstr .or e s fun i s => i.bitOp s fun a b => a ||| b
/-- R149. -/
def execXor (e : Enc) (s : State) : Out := runInstr .xor e s fun i s => i.bitOp s fun a b => a ^^^ b
/-- R149. -/
def execNot (e : Enc) (s : State) : Out := runInstr .not e s fun i s =>
  i.bitOp s fun a _ => 2 ^ i.opWidth - 1 - a
/-- R149: a and not b. -/
def execAndn (e : Enc) (s : State) : Out := runInstr .andn e s fun i s =>
  i.bitOp s fun a b => a &&& (2 ^ i.opWidth - 1 - b)
/-- R149: a × 2^n. -/
def execShl (e : Enc) (s : State) : Out := runInstr .shl e s fun i s =>
  i.shiftOp s fun w a n => readInt (intSigned i.e.ty.toNat) w a * (2 ^ n : Nat)
/-- R149: floor(a / 2^n), a unsigned whatever the `TYPE`. -/
def execShr (e : Enc) (s : State) : Out := runInstr .shr e s fun i s =>
  i.shiftOp s fun _ a n => (a / 2 ^ n : Nat)
/-- R149: floor(a / 2^n), a signed whatever the `TYPE`. -/
def execSar (e : Enc) (s : State) : Out := runInstr .sar e s fun i s =>
  i.shiftOp s fun w a n => readInt true w a / (2 ^ n : Nat)
/-- R150. -/
def execBfe (e : Enc) (s : State) : Out := runInstr .bfe e s fun i s =>
  i.vec s false fun t => ⟨bitField (i.e.ty.toNat == 0) (i.a false t) (i.b false t), 0⟩
/-- R150. -/
def execBfi (e : Enc) (s : State) : Out := runInstr .bfi e s fun i s =>
  i.vec s false fun t => ⟨bitInsert (i.a false t) (i.b false t) (i.c false t), 0⟩
/-- R149: one register for every `TYPE`. -/
def execPopc (e : Enc) (s : State) : Out := runInstr .popc e s fun i s =>
  i.vec s false fun t => ⟨popcount i.opWidth (i.a i.wideTy t), 0⟩
/-- R149. -/
def execClz (e : Enc) (s : State) : Out := runInstr .clz e s fun i s =>
  i.vec s false fun t => ⟨clz i.opWidth (i.a i.wideTy t), 0⟩
/-- R149. -/
def execCtz (e : Enc) (s : State) : Out := runInstr .ctz e s fun i s =>
  i.vec s false fun t => ⟨ctz i.opWidth (i.a i.wideTy t), 0⟩
/-- R149. -/
def execBrev (e : Enc) (s : State) : Out := runInstr .brev e s fun i s =>
  i.vec s i.wideTy fun t => ⟨bitrev i.opWidth (i.a i.wideTy t), 0⟩
/-- R151. -/
def execBperm (e : Enc) (s : State) : Out := runInstr .bperm e s fun i s =>
  i.vec s false fun t => ⟨bytePerm (i.a false t) (i.b false t) (i.c false t), 0⟩
/-- R153. -/
def execIcmp (e : Enc) (s : State) : Out := runInstr .icmp e s fun i s =>
  let sg := intSigned i.e.ty.toNat
  let w := i.opWidth
  i.predTo s i.e.d.toNat fun t =>
    icmpHolds i.e.opx.toNat (readInt sg w (i.a i.wideTy t)) (readInt sg w (i.b i.wideTy t))
/-- R154. -/
def execSel (e : Enc) (s : State) : Out := runInstr .sel e s fun i s =>
  i.vec s i.wideTy fun t => ⟨if (i.w.pred i.e.c.toNat).getLsbD t then i.a i.wideTy t else i.b i.wideTy t, 0⟩
/-- R155. -/
def execMov (e : Enc) (s : State) : Out := runInstr .mov e s fun i s => i.vec s i.wideTy fun t => ⟨i.b i.wideTy t, 0⟩
/-- R152. -/
def execDp4 (e : Enc) (s : State) : Out := runInstr .dp4 e s fun i s =>
  i.vec s false fun t =>
    intElem i.e.sat (i.e.ty.toNat == 6) 32 (dot4 i.e.ty.toNat (i.a false t) (i.b false t) (i.c false t))

/-- A field of `XSET` (R157): the number itself, or bits [7:0] of a scalar register. -/
def Issue.xsetField (i : Issue) (k : Kind) (n : BitVec 8) : Nat :=
  if k = .sca then (i.sp.sreg n.toNat).toNat % 256 else n.toNat
/-- R157. -/
def execXset (e : Enc) (s : State) : Out := runOnce .xset e s fun i s =>
  .done (s.modSplit i.w.uid i.sp.num fun p =>
    { p with x := sset 0 p.x i.e.d.toNat <|
        BitVec.ofNat 32 (i.xsetField i.e.bk i.e.b * 256 + i.xsetField i.e.ak i.e.a) })

/-- The register that an index names for a thread, or none where R158 traps BOUNDS. -/
def Issue.indexed (i : Issue) (t : Nat) : Option Nat :=
  let x := (sget 0 i.sp.x (i.e.opx.extractLsb' 0 2).toNat).toNat
  let base := x % 256
  let limit := x / 256 % 256
  let wide := i.wideTy
  let n := if wide then 2 else 1
  let k := i.bNum t * n
  if limit < k + n || (wide && base % 2 == 1) || i.w.regs < base + k + n then none else some (base + k)

/-- The enabled threads whose index fails (R158). -/
def Issue.indexFails (i : Issue) : Word := i.en &&& maskOf fun t => (i.indexed t).isNone
/-- R158. -/
def execLdx (e : Enc) (s : State) : Out := runInstr .ldx e s fun i s =>
  if i.indexFails != 0 then .trap (maskTrap .bounds i.indexFails 0 false) s
  else i.vec s i.wideTy fun t =>
    let r := (i.indexed t).getD 0
    ⟨if i.wideTy then (i.w.vpair r t).toNat else (i.w.vreg r t).toNat, 0⟩
/-- R158. -/
def execStx (e : Enc) (s : State) : Out := runInstr .stx e s fun i s =>
  if i.indexFails != 0 then .trap (maskTrap .bounds i.indexFails 0 false) s
  else .done (s.modWave i.w.uid fun w =>
    forEach (lanesOf i.en) (fun w t => w.setVW ((i.indexed t).getD 0) i.wideTy t (i.a i.wideTy t)) w)

end Sys2Proof.Machine
end

