-- ==== Sys2Proof/Machine/VectorFloat.lean ====
section
/-! DEFINITION. The vector floating-point, conversion and block-format instructions, and the special-function queue (R148,
R159-R172). -/

namespace Sys2Proof.Machine

/-! ### Shared computations -/

/-- Rounding an exact result with its invalid flag (R148). -/
def roundRes (f : Fmt) (r : Rnd) (sat : Bool) (v : Val × Bool) : FRes :=
  let x := roundF f r sat v.1
  ⟨x.bits, x.fl ||| (if v.2 then flNV else 0)⟩

/-- The exact results of R159. -/
def exAdd (r : Rnd) (a b _c : Val) : Val × Bool := exactSum r [a, b]
def exSub (r : Rnd) (a b _c : Val) : Val × Bool := exactSum r [a, b.negate]
def exMul (_r : Rnd) (a b _c : Val) : Val × Bool := a.mul b
def exFma (r : Rnd) (a b c : Val) : Val × Bool :=
  let p := a.mul b
  let x := exactSum r [p.1, c]
  (x.1, (p.2 || x.2) && !c.isNan)

/-- A floating operation on each element of the operands (R148, R159). -/
def fltResult (ty : Nat) (r : Rnd) (sat : Bool) (f : Rnd → Val → Val → Val → Val × Bool) (a b c : Nat) : FRes :=
  let m := fmtOf ty
  let w := m.width
  packRes w ((List.range (32 / w)).map fun k =>
    roundRes m r sat (f r (decodeF m (elem w a k)) (decodeF m (elem w b k)) (decodeF m (elem w c k))))

/-- A floating instruction over the enabled threads. -/
def Issue.fltOp (i : Issue) (s : State) (f : Rnd → Val → Val → Val → Val × Bool) : Res :=
  i.vec s false fun t => fltResult i.e.ty.toNat i.e.rnd i.e.sat f (i.a false t) (i.b false t) (i.c false t)

/-- `FMIN` and `FMAX` on each element (R160). -/
def Issue.minmaxOp (i : Issue) (s : State) (wantMax : Bool) : Res :=
  let m := fmtOf i.e.ty.toNat
  let w := m.width
  i.vec s false fun t =>
    ⟨packElems w ((List.range (32 / w)).map fun k =>
      fminmax m wantMax (elem w (i.a false t) k) (elem w (i.b false t) k)), 0⟩

/-! ### Arithmetic -/

/-- R159. -/
def execFadd (e : Enc) (s : State) : Out := runInstr .fadd e s fun i s => i.fltOp s exAdd
/-- R159. -/
def execFsub (e : Enc) (s : State) : Out := runInstr .fsub e s fun i s => i.fltOp s exSub
/-- R159. -/
def execFmul (e : Enc) (s : State) : Out := runInstr .fmul e s fun i s => i.fltOp s exMul
/-- R159: one rounding. -/
def execFfma (e : Enc) (s : State) : Out := runInstr .ffma e s fun i s => i.fltOp s exFma
/-- R160. -/
def execFmin (e : Enc) (s : State) : Out := runInstr .fmin e s fun i s => i.minmaxOp s false
/-- R160. -/
def execFmax (e : Enc) (s : State) : Out := runInstr .fmax e s fun i s => i.minmaxOp s true
/-- R161. -/
def execFcmp (e : Enc) (s : State) : Out := runInstr .fcmp e s fun i s =>
  i.predTo s i.e.d.toNat fun t => fcmp i.e.opx.toNat (decodeF fp32 (i.a false t)) (decodeF fp32 (i.b false t))
/-- R162. -/
def execFclass (e : Enc) (s : State) : Out := runInstr .fclass e s fun i s =>
  i.vec s false fun t => ⟨fclass (i.a false t), 0⟩
/-- R163. -/
def execFrnd (e : Enc) (s : State) : Out := runInstr .frnd e s fun i s =>
  i.vec s false fun t => ⟨frnd i.e.rnd (i.a false t), 0⟩
/-- The scale of `FSCL` as an s32. Beyond ±1,000 every non-zero FP32 value overflows or falls below the least subnormal in
the same way, so the exponent is held there. -/
def fsclBy (b : Nat) : Int := max (-1000) (min 1000 (readInt true 32 b))
/-- R164. -/
def execFscl (e : Enc) (s : State) : Out := runInstr .fscl e s fun i s =>
  i.vec s false fun t =>
    roundRes fp32 i.e.rnd i.e.sat ((decodeF fp32 (i.a false t)).scale (fsclBy (i.bNum t)), false)
/-- R165. -/
def execFexp (e : Enc) (s : State) : Out := runInstr .fexp e s fun i s =>
  i.vec s false fun t => fexp (i.a false t)
/-- R159. -/
def execFaddp (e : Enc) (s : State) : Out := runInstr .faddp e s fun i s => i.fltOp s exAdd
/-- R159. -/
def execFsubp (e : Enc) (s : State) : Out := runInstr .fsubp e s fun i s => i.fltOp s exSub
/-- R159. -/
def execFmulp (e : Enc) (s : State) : Out := runInstr .fmulp e s fun i s => i.fltOp s exMul
/-- R159. -/
def execFfmap (e : Enc) (s : State) : Out := runInstr .ffmap e s fun i s => i.fltOp s exFma
/-- R160. -/
def execFminp (e : Enc) (s : State) : Out := runInstr .fminp e s fun i s => i.minmaxOp s false
/-- R160. -/
def execFmaxp (e : Enc) (s : State) : Out := runInstr .fmaxp e s fun i s => i.minmaxOp s true
/-- R161: 0xFFFF or 0 in each element. -/
def execFcmpp (e : Enc) (s : State) : Out := runInstr .fcmpp e s fun i s =>
  let m := fmtOf i.e.ty.toNat
  i.vec s false fun t =>
    ⟨packElems 16 ((List.range 2).map fun k =>
      if fcmp i.e.opx.toNat (decodeF m (elem 16 (i.a false t) k)) (decodeF m (elem 16 (i.b false t) k)) then 0xFFFF
      else 0), 0⟩

/-! ### Conversions -/

/-- The width of an element of a type of `CVT`. -/
def cvtWidth (flt : Bool) (ty : Nat) : Nat := if flt then (fmtOf ty).width else intWidth ty

/-- The conversion of one element (R80-R82, R166). -/
def cvtElem (sf : Bool) (st : Nat) (df : Bool) (dt : Nat) (r : Rnd) (sat : Bool) (x : Nat) : FRes :=
  if sf = df && st = dt then ⟨x, 0⟩
  else match sf, df with
    | false, false => intElem sat (intSigned dt) (intWidth dt) (readInt (intSigned st) (intWidth st) x)
    | false, true => roundF (fmtOf dt) r sat (.ofInt (readInt (intSigned st) (intWidth st) x))
    | true, false => floatToInt r (intSigned dt) (intWidth dt) (decodeF (fmtOf st) x)
    | true, true => roundF (fmtOf dt) r sat (decodeF (fmtOf st) x)

/-- The conversion of one thread (R166): by the ratio of the element counts, from A, from A and B, into a part of D chosen
by the selector, or from a part of A chosen by it. -/
def cvtThread (e : Enc) (a b sel d : Nat) : FRes :=
  let sf := cvtSrcFlt e
  let df := cvtDstFlt e
  let st := cvtSrc e
  let dt := e.ty.toNat
  let ws := cvtWidth sf st
  let wd := cvtWidth df dt
  let ca := cvtCA e
  let cd := cvtCD e
  let conv (x : Nat) : FRes := cvtElem sf st df dt e.rnd e.sat x
  if ca = cd then packRes wd ((List.range cd).map fun k => conv (elem ws a k))
  else if cd = 2 * ca then
    packRes wd ((List.range cd).map fun k => if k < ca then conv (elem ws a k) else conv (elem ws b (k - ca)))
  else if ca < cd then
    let p := sel % (cd / ca)
    packRes wd ((List.range cd).map fun k =>
      if p * ca ≤ k && k < p * ca + ca then conv (elem ws a (k - p * ca)) else ⟨elem wd d k, 0⟩)
  else
    let p := sel % (ca / cd)
    packRes wd ((List.range cd).map fun k => conv (elem ws a (p * cd + k)))

/-- R166. -/
def execCvt (e : Enc) (s : State) : Out := runInstr .cvt e s fun i s =>
  let sw := cvtSrcWide i.e
  i.vec s (cvtDstWide i.e) fun t =>
    cvtThread i.e (i.a sw t) (i.b sw t) (i.bNum t) (i.w.vreg i.e.d.toNat t).toNat

/-- The FP32 bits of the registers from v[A] of a thread. -/
def Issue.regsFrom (i : Issue) (r n t : Nat) : List Nat := (List.range n).map fun k => (i.w.vreg (r + k) t).toNat

/-- R167. -/
def execPkmx (e : Enc) (s : State) : Out := runInstr .pkmx e s fun i s =>
  let m := i.e.opx.toNat
  i.vec s false fun t =>
    packRes (mxWidth m) ((i.regsFrom i.e.a.toNat (mxCount m) t).map fun x =>
      mxEncode m (i.bNum t % 256) (decodeF fp32 x))
/-- R167. -/
def execUpmx (e : Enc) (s : State) : Out := runInstr .upmx e s fun i s =>
  let m := i.e.opx.toNat
  .done (s.modWave i.w.uid fun w => w.multiResult i.e i.en fun t =>
    let rs := (List.range (mxCount m)).map fun k =>
      roundF fp32 i.e.rnd false (mxDecode m (elem (mxWidth m) (i.a false t) k) (i.bNum t % 256))
    (rs.map (·.bits), rs.foldl (fun f r => f ||| r.fl) 0))

/-- The pairs of a list. -/
def pairsOf {α : Type} : List α → List (α × α)
  | a :: b :: r => (a, b) :: pairsOf r
  | _ => []

/-- R168. -/
def execPkq4 (e : Enc) (s : State) : Out := runInstr .pkq4 e s fun i s =>
  i.vec s false fun t =>
    let x := i.bNum t % 256
    if x = 0xFF then ⟨0, flNV⟩
    else
      let rs := (pairsOf (i.regsFrom i.e.a.toNat 8 t)).map fun p => q4Encode x (decodeF fp32 p.1) (decodeF fp32 p.2)
      ⟨packElems 4 (rs.flatMap fun r => [r.1, r.2.1]), rs.foldl (fun f r => f ||| r.2.2) 0⟩
/-- R168. -/
def execUpq4 (e : Enc) (s : State) : Out := runInstr .upq4 e s fun i s =>
  .done (s.modWave i.w.uid fun w => w.multiResult i.e i.en fun t =>
    let x := i.bNum t % 256
    let rs := (List.range 4).map fun k => q4Pair x (elem 4 (i.a false t) (2 * k)) (elem 4 (i.a false t) (2 * k + 1))
    let vs := (rs.flatMap fun r => [r.1, r.2.1]).map fun v => roundF fp32 i.e.rnd false v
    (vs.map (·.bits), (vs.foldl (fun f r => f ||| r.fl) 0) ||| (if rs.any fun r => r.2.2 then flFMTX else 0)))

/-! ### The special-function queue and tokens -/

/-- The token that `MOD`[3:0] names (R171). -/
def tokenOf (e : Enc) : Nat := e.mod.toNat % 16

/-- R169, R170: a request with its operand values per enabled thread; the instruction stalls until the queue holds them
all. -/
def execSfq (e : Enc) (s : State) : Out := runInstr .sfq e s fun i s =>
  if 256 < s.sfqUsed i.w.core i.w.lane + popMask i.en then .block .roomSfq s
  else
    let (seq, s) := s.freshUid
    .done (addPend s i seq i.en (.vec i.e.d.toNat 1) (.token (tokenOf i.e))
      (.sfq i.e.opx.toNat ((lanesOf i.en).map fun t =>
        (t, BitVec.ofNat 32 (i.a false t), BitVec.ofNat 32 (i.b false t)))))

/-- The writes that a `WAITK` covers (R172), fixed when it issues. -/
def Issue.waitkSet (i : Issue) : List Nat :=
  match i.sp.st with
  | .blocked (.writes l) => l
  | _ => (i.w.pend.filter fun p => match i.e.opx.toNat with
      | 0 => p.wait == .token (tokenOf i.e)
      | 1 => p.wait == .ld
      | _ => true).map (·.seq)

/-- The failures of threads among some writes (R229, R392, R418): thread, cause and address. -/
def gathFails (w : Wave) (seqs : List Nat) : List (Nat × Cause × Nat) :=
  (w.pend.filter fun p => seqs.contains p.seq).flatMap fun p => p.fails

/-- Clearing reported failures: each is reported once. -/
def Wave.clearFails (w : Wave) (seqs : List Nat) : Wave :=
  { w with pend := w.pend.map fun p => if seqs.contains p.seq then { p with fails := [] } else p }

/-- Some of the failures are of a `GATH` or of a read over a link, whose trap is repeatable (R229, R336, R418). -/
def gathAgain (w : Wave) (seqs : List Nat) : Bool :=
  w.pend.any fun p => seqs.contains p.seq && !p.fails.isEmpty && (match p.body with | .gath _ | .remote _ => true | _ => false)

/-- The trap of failed elements (R229): the first of PERM, PAGE and ECC, every failing thread, the lowest address that fails
with the cause; SPACE and ALIGN were checked at issue. -/
def gathTrap (l : List (Nat × Cause × Nat)) (again : Bool) : TrapInfo :=
  let has (c : Cause) : Bool := l.any fun x => x.2.1 == c
  let c : Cause :=
    if has .space then .space else if has .perm then .perm else if has .page then .page else if has .ecc then .ecc
    else if has .format then .format else .remote
  let m := maskOfList (l.map (·.1))
  let addrs := (l.filter fun x => x.2.1 == c).map fun x => x.2.2
  maskTrap c m (addrs.foldl min (addrs.headD 0)) again

/-- R172: waits for the writes it covers and completes them; a failed gather traps here (R229). -/
def execWaitk (e : Enc) (s : State) : Out := runOnce .waitk e s fun i s =>
  let l := i.waitkSet
  if !i.w.writesDone l then .block (.writes l) s
  else match gathFails i.w l with
    | [] => .done (s.modWave i.w.uid fun w => { w with pend := w.pend.filter fun p => !l.contains p.seq })
    | fs => .trap (gathTrap fs (gathAgain i.w l)) (s.modWave i.w.uid fun w => w.clearFails l)

/-- A step of the special-function queue (R170): a request of a thread completes, with its result and its flags. -/
def trySfqRequestComplete (w seq thread : Nat) (s : State) : Option State :=
  match s.wave? w with
  | none => none
  | some x => match x.pend.find? fun p => p.seq == seq && p.mask.getLsbD thread with
    | none => none
    | some p => match p.dst, p.body with
      | .vec d _, .sfq fn args => match args.find? fun a => a.1 == thread with
        | none => none
        | some (_, a, b) =>
          if x.halted then none
          else
            let r := sfqResult fn a.toNat b.toNat
            some (s.modWave w fun x =>
              { (x.setV d thread (BitVec.ofNat 32 r.bits)).raise thread r.fl with
                pend := x.pend.map fun q => if q.seq = seq then { q with mask := q.mask &&& ~~~(1#32 <<< thread) } else q })
      | _, _ => none
/-- The step of `trySfqRequestComplete`. -/
def execSfqRequestComplete (w seq thread : Nat) (s : State) : Out := made s (trySfqRequestComplete w seq thread s)

end Sys2Proof.Machine
end

