-- ==== Sys2Proof/Machine/Copies.lean ====
section
/-! DEFINITION. Copy engines: `CPY`, `CPYQ`, `GATH`, `TLWAIT` and `TLRD`, with the steps of their operations (R221-R231). -/

namespace Sys2Proof.Machine

/-! ### The geometry of a copy -/

/-- A copy's parameters (R226, R228): bases, counts, strides of dimensions 1 to 3, element sizes, spaces, barrier and
timeline. -/
structure CopyGeo where
  sa  : Nat
  da  : Nat
  n   : List Nat
  ss  : List Int
  ds  : List Int
  se  : Nat
  de  : Nat
  ssp : Nat
  dsp : Nat
  dims : Nat
  ben : Bool
  bar : Nat
  tl  : Nat

/-- Element sizes of `SFMT` and `DFMT` (R228). -/
def cpyqSrcSize (k : Nat) : Nat := if k = 0 then 4 else 2
def cpyqDstSize (k : Nat) : Nat := if k = 2 || k = 3 then 2 else 1

/-- The geometry of a substituted block and its sources: both bases, then s[C] onward. -/
def copyGeo (op : Op) (e : Enc) (srcs : List DWord) : CopyGeo :=
  let q := op == .cpyq
  let dims := bitsAt e.p3 26 2 + 1
  let c (k : Nat) : Word := (srcs.getD (2 + k) 0).setWidth 32
  let four := !q && decide (3 ≤ dims)
  { sa := (srcs.getD 0 0).toNat, da := (srcs.getD 1 0).toNat,
    n := [bitsAt e.p0 12 13, bitsAt e.p0 0 12, if four then bitsAt (c 0) 0 16 else 1, if four then bitsAt (c 0) 16 16 else 1],
    ss := [sword e.p1, if four then sword (c 1) else 0, if four then sword (c 3) else 0],
    ds := [sword e.p2, if four then sword (c 2) else 0, if four then sword (c 4) else 0],
    se := if q then cpyqSrcSize (bitsAt e.p3 24 2) else 2 ^ bitsAt e.p3 24 2,
    de := if q then cpyqDstSize (bitsAt e.p3 4 3) else 2 ^ bitsAt e.p3 24 2,
    ssp := bitsAt e.p3 22 2, dsp := bitsAt e.p3 20 2, dims, ben := bitsAt e.p3 19 1 == 1, bar := bitsAt e.p3 9 10,
    tl := bitsAt e.p3 7 2 }

/-- The number of elements. -/
def CopyGeo.total (g : CopyGeo) : Nat := g.n.foldl (· * ·) 1

/-- The address of element `k` from a base (R227). -/
def elemAddr (n : List Nat) (base : Nat) (st : List Int) (size k : Nat) : Int :=
  let n0 := max 1 (n.getD 0 1)
  let n1 := max 1 (n.getD 1 1)
  let n2 := max 1 (n.getD 2 1)
  let r := k / n0
  (base : Int) + ((k % n0 * size : Nat) : Int) + ((r % n1 : Nat) : Int) * st.getD 0 0 +
    ((r / n1 % n2 : Nat) : Int) * st.getD 1 0 + ((r / n1 / n2 : Nat) : Int) * st.getD 2 0

/-- Source and destination addresses of element `k`. -/
def CopyGeo.src (g : CopyGeo) (k : Nat) : Int := elemAddr g.n g.sa g.ss g.se k
def CopyGeo.dst (g : CopyGeo) (k : Nat) : Int := elemAddr g.n g.da g.ds g.de k

/-! ### Checks at issue -/

/-- Step 1 of R227, on the substituted block: reserved values, counts and register operands that disagree with the block. -/
def copyFormatBad (i : Issue) (e : Enc) (g : CopyGeo) : Bool :=
  let q := i.op == .cpyq
  let reserved := if q then
      bitsAt e.p3 28 4 != 0 || bitsAt e.p3 0 4 != 0 || bitsAt e.p3 24 2 == 3 || decide (4 < bitsAt e.p3 4 3) ||
      decide (2 < g.dims)
    else bitsAt e.p3 28 4 != 0 || bitsAt e.p3 0 7 != 0
  let cBad := if q then false
    else if 3 ≤ g.dims then i.e.ck != .sca else !absent i.e.ck i.e.c
  reserved || g.ssp == 3 || g.dsp == 3 || (!g.ben && g.bar != 0) || g.n.contains 0 ||
  (g.dims == 1 && g.n.getD 1 1 != 1) || (g.dims == 3 && g.n.getD 3 1 != 1) ||
  (g.ssp == 0 && !evenNum i.e.a) || (g.dsp == 0 && !evenNum i.e.b) || cBad

/-- The `glb` addresses of `CPYQ`'s scale and maximum words (R228). -/
def cpyqScale (srcs : List DWord) : Nat := (srcs.getD 2 0).toNat % 2 ^ 32 + (srcs.getD 3 0).toNat % 2 ^ 32 * 2 ^ 32
def cpyqMax (srcs : List DWord) : Nat := (srcs.getD 4 0).toNat % 2 ^ 32 + (srcs.getD 5 0).toNat % 2 ^ 32 * 2 ^ 32

/-- Step 3 of R227: the first of a base or a stride that is misaligned. -/
def copyAlignBad (q : Bool) (srcs : List DWord) (g : CopyGeo) : Option Nat :=
  let used (l : List Int) : List Int := l.take (g.dims - 1)
  if g.sa % g.se != 0 then some g.sa
  else if g.da % g.de != 0 then some g.da
  else if (used g.ss).any fun x => x % g.se != 0 then some g.sa
  else if (used g.ds).any fun x => x % g.de != 0 then some g.da
  else if q && cpyqScale srcs % 4 != 0 then some (cpyqScale srcs)
  else if q && cpyqMax srcs % 4 != 0 then some (cpyqMax srcs)
  else none

/-- An address of a space lies outside it (step 4 of R227). -/
def spaceBad (s : State) (ctx : Nat) (g : Group) (space : Nat) (u : Use) (a : Int) (n : Nat) : Bool :=
  decide (a < 0) || (resolve s ctx g space u (n == 4) a.toNat n).isNone

/-- Step 4 of R227: the first element address outside its space. -/
def copySpaceBad (s : State) (i : Issue) (gr : Group) (srcs : List DWord) (g : CopyGeo) : Option Int :=
  let bad (sp : Nat) (u : Use) (n : Nat) (a : Int) : Option Int :=
    if spaceBad s i.w.ctx gr sp u a n then some a else none
  let word (u : Use) (a : Nat) : Option Int := if i.op = .cpyq then bad 0 u 4 (a : Int) else none
  ((List.range g.total).findSome? fun k =>
    (bad g.ssp .load g.se (g.src k)).orElse fun _ => bad g.dsp .copy g.de (g.dst k)).orElse fun _ =>
  (word .load (cpyqScale srcs)).orElse fun _ => word .atomic (cpyqMax srcs)

/-- The registers that a copy writes through the register window (R224): wave and number. -/
def copyRegs (s : State) (i : Issue) (gr : Group) (g : CopyGeo) : List (Nat × Nat) :=
  if g.dsp != 0 || (s.ctx i.w.ctx).regwin == 0 then [] else
  ((List.range g.total).filterMap fun k =>
    match resolve s i.w.ctx gr 0 .copy (g.de == 4) (g.dst k).toNat g.de with
    | some (.at (.reg core lane slot _ reg _)) =>
      (s.waves.find? (s.inSlot core lane slot)).map fun w =>
        (List.range ((g.de + 3) / 4)).map fun j => (w.uid, reg + j)
    | _ => none).flatten.eraseDups

/-- The scratchpads that a copy writes, each with the end of its last byte (R273): with the maximum word of `CPYQ` (R228). -/
def copySpans (s : State) (i : Issue) (gr : Group) (srcs : List DWord) (g : CopyGeo) : List (Nat × Nat) :=
  let l := (List.range g.total).foldl (fun l k =>
    match resolve s i.w.ctx gr g.dsp .copy (g.de == 4) (g.dst k).toNat g.de with
    | some (.at p) => spanPlace s l p g.de
    | _ => l) []
  if i.op = .cpyq then
    match resolve s i.w.ctx gr 0 .atomic true (cpyqMax srcs) 4 with
    | some (.at p) => spanPlace s l p 4
    | _ => l
  else l

/-- A place in a scratchpad. -/
def Place.inScratch : Place → Bool
  | .spd .. | .grp .. => true
  | _ => false

/-- The copy reads or writes a scratchpad (R263). -/
def copyScratch (s : State) (i : Issue) (gr : Group) (srcs : List DWord) (g : CopyGeo) : Bool :=
  let reads (sp a n : Nat) : Bool := match resolve s i.w.ctx gr sp .load (n == 4) a n with
    | some (.at p) => p.inScratch
    | _ => false
  !(copySpans s i gr srcs g).isEmpty || (List.range g.total).any (fun k => reads g.ssp (g.src k).toNat g.se) ||
  (i.op == .cpyq && reads 0 (cpyqScale srcs) 4)

/-- The sources of `CPY` and `CPYQ`: the bases, whole or low words by their spaces, and s[C] onward. -/
def copySrcs (i : Issue) (e : Enc) : List DWord :=
  let base (n : BitVec 8) (sp : Nat) : DWord :=
    if sp = 0 then i.sp.spair n.toNat else (i.sp.sreg n.toNat).setWidth 64
  [base i.e.a (bitsAt e.p3 22 2), base i.e.b (bitsAt e.p3 20 2)] ++
  (if i.e.ck = .sca then (List.range 5).map fun k => (i.sp.sreg (i.e.c.toNat + k)).setWidth 64 else [])

/-- The count fields of P0 (R226). -/
def copyCounts : List CountField := [⟨12, 13, 1, 8190⟩, ⟨0, 12, 1, 4094⟩]

/-- The traps of a substituted copy, in their order (R227): cause and address. -/
def copyTrap (s : State) (i : Issue) (gr : Group) (e : Enc) (srcs : List DWord) (g : CopyGeo) : Option (Cause × Nat) :=
  if copyFormatBad i e g then some (.format, 0)
  else if g.ben && decide (gr.bars.length ≤ g.bar) then some (.barrier, g.bar + 2 ^ 10)
  else match copyAlignBad (i.op == .cpyq) srcs g with
    | some a => some (.align, a)
    | none => (copySpaceBad s i gr srcs g).map fun a => (.space, wrapInt 64 a)

/-- Posting a copy after its checks, in their order (R227); a full timeline makes it wait at issue (R222). -/
def copyRun (i : Issue) (s : State) : Res :=
  match i.subBlock copyCounts 0, s.group? i.w.group with
  | some e, some gr =>
    let srcs := copySrcs i e
    let g := copyGeo i.op e srcs
    match copyTrap s i gr e srcs g with
    | some x => .trap (i.plainTrap x.1 x.2) s
    | none =>
      if 64 ≤ (i.w.tl g.tl).open_.length then .block (.roomTl g.tl) s
      else .done (s.postOp i e g.tl srcs (copyRegs s i gr g) (if g.ben then some g.bar else none) (copySpans s i gr srcs g)
        (copyScratch s i gr srcs g))
  | _, _ => .trap (i.plainTrap .format) s

/-- R226, R227. -/
def execCpy (e : Enc) (s : State) : Out := runOnce .cpy e s copyRun
/-- R228. -/
def execCpyq (e : Enc) (s : State) : Out := runOnce .cpyq e s copyRun

/-! ### The engine's steps -/

/-- The format of `SFMT`, and one quantised element (R228). -/
def cpyqSrcFmt (k : Nat) : Fmt := match k with | 1 => fp16 | 2 => bf16 | _ => fp32
def cpyqRound (dfmt : Nat) (r : Rnd) (sat : Bool) (v : Val) : Nat :=
  match dfmt with
  | 0 => (roundF e4m3 r sat v).bits
  | 1 => (roundF e5m2 r sat v).bits
  | 2 => (roundF fp16 r sat v).bits
  | 3 => (roundF bf16 r sat v).bits
  | _ => (floatToInt r true 8 v).bits

/-- An element's quantised value, and the new greatest magnitude (R228). -/
def cpyqElem (e : Enc) (sigma amax : Nat) (x : Nat) : Nat × Nat :=
  let v := decodeF (cpyqSrcFmt (bitsAt e.p3 24 2)) x
  let y := v.mul (decodeF fp32 sigma)
  (cpyqRound (bitsAt e.p3 4 3) e.rnd e.sat y.1,
   if v.isNan then amax else fminmax fp32 true amax (roundNe fp32 v.abs).bits)

/-- The geometry of a posted copy. -/
def EngOp.geo (o : EngOp) : CopyGeo := copyGeo o.op o.e o.srcs

/-- The steps of a copy before its completion: the elements, and for `CPYQ` the read of the scale and the fold. -/
def EngOp.copySteps (o : EngOp) : Nat := if o.op = .cpyq then o.geo.total + 2 else o.geo.total

/-- The element that the next step moves. -/
def EngOp.copyElem (o : EngOp) : Nat := if o.op = .cpyq then o.prog - 1 else o.prog

/-- No later element of the copy writes into the 16-byte granule of an address. -/
def granuleLast (g : CopyGeo) (k : Nat) (granule : Int) : Bool :=
  (List.range (g.total - k - 1)).all fun d =>
    let a := g.dst (k + 1 + d)
    !(decide (a < granule * 16 + 16) && decide (granule * 16 < a + g.de))

/-- Setting full the granules of element `k` whose bytes the copy has all written (R188, R225). -/
def copyFull (s : State) (g : CopyGeo) (k : Nat) (p : Place) : State :=
  let a := g.dst k
  let first := a / 16
  let last := (a + g.de - 1) / 16
  let s := if granuleLast g k first then s.engFull p 1 else s
  if last != first && granuleLast g k last then
    s.engFull (match p with
      | .spd gr off => .spd gr (off + g.de - 1)
      | p => p) 1
  else s

/-- Moving one element of a copy (R223, R227, R228). -/
def copyMove (s : State) (o : EngOp) : State :=
  let g := o.geo
  let k := o.copyElem
  s.opRead o 1 g.ssp (g.src k) g.se fun s x =>
    let q := if o.op = .cpyq then cpyqElem o.e (o.out.headD 0).toNat o.amax.toNat x else (x, 0)
    s.opWrite o 1 g.dsp (g.dst k) q.1 g.de fun s p =>
      (copyFull s g k p).modOp o.id fun o => { o with prog := o.prog + 1, amax := BitVec.ofNat 32 q.2, parked := none }

/-- The wave that a copy's element names, where it is still there (R224): a wave that took the slot after the post is
another. -/
def State.regWave (s : State) (o : EngOp) (core lane slot : Nat) : Option Wave :=
  o.win.findSome? fun x => (s.wave? x.1).filter (s.inSlot core lane slot)

/-- The next element of a copy writes a register (R224): its wave, where there still is one. -/
def copyHolds (s : State) (o : EngOp) : Bool × Option Wave :=
  let g := o.geo
  if (o.op == .cpyq && (o.prog == 0 || decide (g.total < o.prog))) || g.dsp != 0 then (false, none)
  else match resolve s o.ctx ((s.group? o.group).getD noGroup) 0 .copy (g.de == 4) (g.dst o.copyElem).toNat g.de with
    | some (.at (.reg core lane slot _ _ _)) => (true, s.regWave o core lane slot)
    | _ => (false, none)

/-- A held write may be performed: its wave is halted, parked or in a trap, or waits in a `TLWAIT` that covers the copy
(R224). -/
def heldOpen (o : EngOp) (w : Wave) : Bool :=
  w.windowOpen || (w.uid == o.wave && w.tlwaits o.tl o.num)

/-- One step of a copy other than a held write: the read of the scale, an element, or the fold (R228), or the failure of one
whose target wave has exited (R224). -/
def copyStep (s : State) (o : EngOp) : Option State :=
  let g := o.geo
  let h := copyHolds s o
  if !s.opReady o || decide (o.copySteps ≤ o.prog) then none
  else if h.1 then (if h.2.isSome then none else some (s.opFail o .space (g.dst o.copyElem).toNat))
  else if o.op = .cpyq && o.prog = 0 then
    some (s.opRead o 1 0 (cpyqScale o.srcs) 4 fun s x =>
      s.modOp o.id fun o => { o with prog := 1, out := [BitVec.ofNat 32 x], parked := none })
  else if o.op = .cpyq && o.prog = g.total + 1 then
    some (s.opRmw o 1 (cpyqMax o.srcs) (fun old => rmwNew 12 0 old o.amax.toNat 0) fun s =>
      s.modOp o.id fun o => { o with prog := o.prog + 1, parked := none })
  else some (copyMove s o)

/-- The engine performs a write that it held for a wave (R224). -/
def tryRegwinHeldWrite (id : Nat) (s : State) : Option State :=
  match s.op? id with
  | none => none
  | some o =>
    if !(o.op == .cpy || o.op == .cpyq) || !s.opReady o || decide (o.copySteps ≤ o.prog) then none
    else match copyHolds s o with
      | (true, some w) => if heldOpen o w then some (copyMove s o) else none
      | _ => none
/-- The step of `tryRegwinHeldWrite`. -/
def execRegwinHeldWrite (id : Nat) (s : State) : Out := made s (tryRegwinHeldWrite id s)

/-- A copy has finished or failed (R221, R225): the barrier's count is decremented and the operation's number completes. A copy of a
halted context stands as it is until the resume (R222, R327), after the phases that pass their deadline in the halt (R280, R328). -/
def tryCopyOperationComplete (id : Nat) (s : State) : Option State :=
  match s.op? id with
  | none => none
  | some o =>
    if !(o.op == .cpy || o.op == .cpyq) || (o.failed.isNone && decide (o.prog < o.copySteps)) ||
      (s.ctx o.ctx).st != .running then none
    else
      let g := o.geo
      let s := { s with ops := s.ops.filter fun x => x.id != id }
      let s := if g.ben then s.barTransfer o.group g.bar (g.dsp != 0) else s
      some (s.tlDone o.wave o.kernel o.tl o.num (o.failed.map fun f => (o.failNo, f)))
/-- The step of `tryCopyOperationComplete`. -/
def execCopyOperationComplete (id : Nat) (s : State) : Out := made s (tryCopyOperationComplete id s)

/-! ### `GATH` -/

/-- The bytes of an element of a `GATH`. -/
def Issue.gathSize (i : Issue) : Nat := if i.wideTy then 8 else 4

/-- The elements of a `GATH`, one for each enabled thread (R229), before their addresses are resolved; the mode is kept with
them. -/
def gathAccs (s : State) (i : Issue) : List Acc := (lanesOf i.en).map fun t =>
  { thread := t, va := (i.src i.e.bk i.e.b true 0 t + i.gathSize * i.a false t) % 2 ^ 64, size := i.gathSize,
    place := .phys 0, data := 0, data2 := if s.waveSup i.w then 1 else 0 }

/-- The traps of a `GATH` at issue (R229): the elements that are not aligned, or else outside their space. -/
def gathIssueTrap (s : State) (i : Issue) (g : Group) : Option TrapInfo :=
  let n := i.gathSize
  let misaligned := (gathAccs s i).filter fun a => a.va % n != 0
  let lost := (gathAccs s i).filter fun a => (resolve s i.w.ctx g 0 .load (n == 4) a.va n).isNone
  if !misaligned.isEmpty then some (maskTrap .align (accMask misaligned) (lowestVa misaligned) false)
  else if !lost.isEmpty then some (maskTrap .space (accMask lost) (lowestVa lost) false)
  else none

/-- R229: one element for each enabled thread. -/
def execGath (e : Enc) (s : State) : Out := runInstr .gath e s fun i s =>
  if i.en = 0 then .done s
  else match s.group? i.w.group with
    | none => .done s
    | some g => match gathIssueTrap s i g with
      | some t => .trap t s
      | none =>
        let (seq, s') := s.freshUid
        .done (addPend s' i seq i.en (.vec i.e.d.toNat (if i.wideTy then 2 else 1)) (.token (tokenOf i.e)) (.gath (gathAccs s i)))

/-- The gathered element that the engine fetches next: the lowest thread that does not wait for service. -/
def gathNext (p : Pend) (accs : List Acc) : Option Acc := accs.find? fun a => p.free a.thread

/-- The service of a thread's access failed (R243). -/
def Pend.lostAt (p : Pend) (thread : Nat) : Bool := p.waits.any fun x => x.1 == thread && x.2.1 == .failed

/-- Fetching one element (R229): its value is written, or its failure is kept for the `WAITK`, or it waits for service. -/
def gathFetch (s : State) (w : Wave) (p : Pend) (a : Acc) : Option State :=
  let fail (c : Cause) : State :=
    (if c = .ecc then s.retireAt w.ctx a.va else s).modWave w.uid fun w => w.failPend p.seq a.thread c a.va
  let read (s : State) (pl : Place) : Option State :=
    let a := { a with place := pl }
    if mayReturn s w p a then
      let s := s.keepOld w.uid p.seq a.thread pl a.size
      let x := s.readAcc { tid := w.idx * 32 + a.thread, ins := p.seq } a
      some (s.modWave w.uid fun w =>
        ((List.range (a.size / 4)).foldl (fun w k => match p.dst with
          | .vec d _ => w.setV (d + k) a.thread (BitVec.ofNat 32 (x / 2 ^ (32 * k)))
          | .sca .. => w) w).clearPend p.seq a.thread)
    else none
  if p.lostAt a.thread then some (fail .page)
  else match s.group? w.group with
  | none => some (fail .space)
  | some g => match resolve s w.ctx g 0 .load (a.size == 4) a.va a.size with
    | none => some (fail .space)
    | some (.at pl) => if s.scratchBad pl a.size || (s.grpBad pl).isSome then some (fail .ecc) else read s pl
    | some .virt => match translate s .io none w.ctx a.va .read (a.data2 == 1) with
      | .ok t pa =>
        if !t.host && inDevice pa 1 && s.badAt pa a.size then some (fail .ecc)
        else read (s.fill t) (pageData g.uid t a.va pa)
      | .fail c => some (fail c)
      | x => match parkFor s w.ctx a.va .read (engineAgent 1) x with
        | .error c => some (fail c)
        | .ok (k, s) => some (s.modWave w.uid fun w => w.waitPend p.seq a.thread k a.va)

/-- A copy engine fetches the next element of a `GATH` (R229). -/
def tryGathReturn (u seq : Nat) (s : State) : Option State :=
  match s.wave? u with
  | none => none
  | some w => match w.pend.find? fun p => p.seq == seq with
    | none => none
    | some p => match p.body with
      | .gath accs =>
        if w.halted || (s.ctx w.ctx).st != .running then none
        else match gathNext p accs with
          | none => none
          | some a => match gathFetch s w p a with
            | some t => some t
            | none => none
      | _ => none
/-- The step of `tryGathReturn`. -/
def execGathReturn (u seq : Nat) (s : State) : Out := made s (tryGathReturn u seq s)

/-! ### `TLWAIT` and `TLRD` -/

/-- A `TLWAIT` has covered the copies up to a number: their registers are held no longer (R185). -/
def Wave.tlCovered (w : Wave) (tl num : Nat) : Wave :=
  w.modTl tl fun t => { t with regs := t.regs.filter fun x => decide (num < x.1) }

/-- Reporting a failure: a timeline forgets it (R225). -/
def Wave.reportFail (w : Wave) (tl num : Nat) : Wave :=
  w.modTl tl fun t => { t with fails := t.fails.filter fun f => f.num != num }

/-- The covered failure of the lowest number (R225). -/
def lowestFail (l : List TlFail) : Option TlFail :=
  match l with
  | [] => none
  | f :: r => some (r.foldl (fun b x => if x.num < b.num then x else b) f)

/-- R230, R225: waits until the target is completed, then reports one failure that it covers. -/
def execTlwait (e : Enc) (s : State) : Out := runOnce .tlwait e s fun i s =>
  let n := (i.sp.spair i.e.a.toNat).toNat
  let k := i.sB false % 8
  let t := i.w.tl k
  if t.completed < n then .block (.timeline k n) s
  else match lowestFail (t.fails.filter fun f => f.num ≤ n) with
    | none => .done (s.modWave i.w.uid fun w => w.tlCovered k n)
    | some f =>
      .trap { cause := f.cause, code := 0, mask := BitVec.ofNat 64 f.num, addr := f.addr, rpl := false, num := true }
        (s.modWave i.w.uid fun w => w.reportFail k f.num)

/-- R231. -/
def execTlrd (e : Enc) (s : State) : Out := runOnce .tlrd e s fun i s =>
  let b := i.sB false
  let t := i.w.tl (b % 8)
  i.sca s true (if b / 8 % 2 = 1 then t.posted else t.completed)

end Sys2Proof.Machine
end

