-- ==== Sys2Proof/Machine/Groups.lean ====
section
/-! DEFINITION. Groups and convoys: pools and admission (R256-R260), placement (R255, R264, R297), shedding (R298), grants and
releases (R259, R261, R272, R273), and retirement (R262, R263). -/

namespace Sys2Proof.Machine

/-! ### What a core holds -/

/-- A wave slot in use: its lane and slot, the registers per thread held, those still to be granted, and the group when it is
an ungranted one of a one-group convoy (R257, R260). -/
structure Seat where
  lane : Nat
  slot : Nat
  held : Nat
  need : Nat
  loose : Option Nat

/-- A group on a core holds resources: its context is not swapped out. -/
def State.holdsCore (s : State) (core : Nat) (g : Group) : Bool := g.core == core && (s.ctx g.ctx).st != .swapped

/-- Registers that a `GREL` of the wave gives up when it completes (R261). -/
def Wave.grelHeld (w : Wave) : Nat :=
  w.splits.foldl (fun n p => match p.st with | .blocked (.grel _ _ _ was) => max n was | _ => n) 0

/-- Registers per thread that a wave holds (R258, R261): of a convoy that reserved its allotment, up to the target. -/
def Wave.held (w : Wave) (g : Group) : Nat :=
  max w.grelHeld (if g.reservedAll && !g.granted then max w.regs w.target else w.regs)

/-- An ungranted group of a one-group convoy, for condition 3 of R260, also while it is DONE and holds its scratchpad. -/
def Group.loose (g : Group) : Bool := !g.granted && !g.reservedAll

/-- The wave slots in use on a core: of waves, and of groups still RESERVED (R265). -/
def State.seats (s : State) (core : Nat) : List Seat :=
  (s.waves.filterMap fun w => match s.group? w.group with
    | some g =>
      if s.holdsCore core g then
        some { lane := w.lane, slot := w.slot, held := w.held g, need := if w.exited then 0 else w.target - w.held g,
               loose := if g.loose then some g.uid else none }
      else none
    | none => none) ++
  s.groups.flatMap fun g =>
    if s.holdsCore core g && g.st == .reserved then
      g.plan.map fun p => { lane := p.1, slot := p.2, held := if g.reservedAll then g.fullRegs else g.preRegs,
                            need := if g.reservedAll then 0 else g.fullRegs - g.preRegs,
                            loose := if g.loose then some g.uid else none }
    else []

/-- Scratchpad bytes that a group holds (R258, R261). -/
def State.heldScratch (s : State) (g : Group) : Nat :=
  if g.reservedAll then match s.kernel? g.kernel with | some k => k.scr | none => g.scratch else g.scratch

/-- Barriers that a group holds (R261): until it is DONE and no engine operation names one. -/
def State.heldBars (s : State) (g : Group) : Nat :=
  if g.st == .done && !s.ops.any (fun o => o.group == g.uid && o.bar.isSome) then 0
  else if g.st == .reserved then match s.kernel? g.kernel with | some k => k.bars | none => 0
  else g.bars.length

/-- The sum of a number over a list. -/
def sumOf {α : Type} (f : α → Nat) (l : List α) : Nat := l.foldl (fun n x => n + f x) 0

/-- The greatest of a number over a list, and zero. -/
def maxOf {α : Type} (f : α → Nat) (l : List α) : Nat := l.foldl (fun n x => max n (f x)) 0

/-! ### Admission -/

/-- An `ACQ` request of a running context waits on the core (R259, R260). -/
def State.acqWaiting (s : State) (core : Nat) : Bool :=
  s.acqQ.any fun r => r.core == core && (s.ctx r.ctx).st == .running

/-- One lane can take the next wave of a group beside `mine` already chosen for it: a slot and room in its register file,
and condition 3 of R260. -/
def laneFits (l : List Seat) (k : Kernel) (member : Bool) (mine lane : Nat) : Bool :=
  let here := l.filter fun x => x.lane == lane
  let n := mine + 1
  let loose := here.filter fun x => x.loose.isSome
  let needOf (g : Option Nat) : Nat := sumOf (fun x => if x.loose == g then 32 * x.need else 0) loose
  decide (here.length + n ≤ 4) &&
  decide (sumOf (fun x => 32 * x.held) here + 32 * (if member then k.regs else k.pregs) * n ≤ 6144) &&
  (member ||
    decide (sumOf (fun x => 32 * x.held) loose + 32 * k.pregs * n +
      max (maxOf (fun x => needOf x.loose) loose) (32 * (k.regs - k.pregs) * n) ≤ 6144))

/-- The lane for the next wave (R256): the fewest resident waves, then the lowest number. -/
def pickLane (l : List Seat) (k : Kernel) (member : Bool) (chosen : List (Nat × Nat)) : Option Nat :=
  let mine (x : Nat) : Nat := (chosen.filter fun c => c.1 == x).length
  let load (x : Nat) : Nat := (l.filter fun c => c.lane == x).length + mine x
  ((List.range 64).filter fun x => laneFits l k member (mine x) x).foldl
    (fun b x => match b with
      | none => some x
      | some y => if load x < load y then some x else some y) none

/-- Lanes and slots for the waves of a group. -/
def pickLanes (l : List Seat) (k : Kernel) (member : Bool) : Nat → List (Nat × Nat) → Option (List (Nat × Nat))
  | 0, acc => some acc
  | n + 1, acc => match pickLane l k member acc with
    | none => none
    | some x =>
      let used (y : Nat) : Bool := l.any (fun c => c.lane == x && c.slot == y) || acc.contains (x, y)
      pickLanes l k member n (acc ++ [(x, ((List.range 4).find? fun y => !used y).getD 0)])

/-- Waves per group. -/
def Kernel.wavesPerGroup (k : Kernel) : Nat := (k.gthr + 31) / 32

/-- R260 for one group of a kernel on a core: its lanes and slots. -/
def State.fit (s : State) (core : Nat) (k : Kernel) (member : Bool) : Option (List (Nat × Nat)) :=
  let gs := s.groups.filter fun g => s.holdsCore core g
  let loose := gs.filter Group.loose
  let scr := sumOf s.heldScratch gs + (if member then k.scr else k.pscr)
  let need (g : Group) : Nat := g.scratchTarget - g.scratch
  if s.acqWaiting core then none
  else if 262144 < scr || 1024 < sumOf s.heldBars gs + k.bars then none
  else if !member &&
      decide (262144 < sumOf s.heldScratch loose + k.pscr + max (maxOf need loose) (k.scr - k.pscr)) then none
  else pickLanes (s.seats core) k member k.wavesPerGroup []

/-! ### Places -/

/-- The dies of a partition (R12). -/
def diesOf (n part : Nat) : List Nat := if n ≤ 1 then [0, 1] else [part * 2 / n]

/-- The cores of a quad for a convoy of `g` groups (R255). -/
def quadCores (die q g : Nat) : List Nat := (List.range g).map fun m => die * 128 + 16 * q + m

/-- Numbers below `n` from the one after the last used, round-robin (R264). -/
def roundRobin (n : Nat) (last : Option Nat) : List Nat :=
  let k := match last with | some x => (x + 1) % n | none => 0
  (List.range n).map fun i => (i + k) % n

/-- A place: cores with the lanes and slots of their waves. -/
abbrev Plan := List (Nat × List (Nat × Nat))

/-- The plan of a convoy on some cores, where every core is eligible (R264). -/
def State.planOn (s : State) (k : Kernel) (member : Bool) : List Nat → Option Plan
  | [] => some []
  | c :: r => match s.fit c k member, s.planOn k member r with
    | some l, some p => some ((c, l) :: p)
    | _, _ => none

/-- The candidate sets of cores of a die for a kernel, in round-robin order (R264): cores, or aligned quads. -/
def State.diePlaces (s : State) (k : Kernel) (part die : Nat) : List (List Nat) :=
  let last := s.dist.find? fun d => d.die == die
  let own (c : Nat) : Bool := coreInPart s.mgmt.partn part c
  if k.conv = 1 then
    (((roundRobin 128 (last.map (·.core))).map (die * 128 + ·)).filter own).map fun c => [c]
  else ((roundRobin 8 (last.map (·.quad))).filter fun q => own (die * 128 + 16 * q)).map fun q => quadCores die q k.conv

/-- The first eligible place of a die. -/
def State.placeOnDie (s : State) (k : Kernel) (part die : Nat) : Option Plan :=
  (s.diePlaces k part die).findSome? fun l => s.planOn k (k.conv != 1) l

/-- The dies in order of preference (R264). -/
def State.diesFor (s : State) (k : Kernel) (part : Nat) : List Nat :=
  let all := diesOf s.mgmt.partn part
  let first := match k.pref with
    | some d => if all.contains d then d else all.headD 0
    | none => k.dieLast.getD (all.headD 0)
  first :: all.filter (· != first)

/-- The groups of a kernel's shape that R260 admits now, counted as places (R298). -/
def State.admissible (s : State) (k : Kernel) (part : Nat) : Nat :=
  k.conv * sumOf (fun die => sumOf (fun l => if (s.planOn k (k.conv != 1) l).isSome then 1 else 0)
    (s.diePlaces k part die)) (diesOf s.mgmt.partn part)

/-! ### Shedding -/

/-- Convoys of a kernel, those not yet reserved or shed, and groups. -/
def Kernel.total (k : Kernel) : Nat := k.nx * k.ny * k.nz
def Kernel.left (k : Kernel) : Nat := k.total - k.shed.length - k.next
def Kernel.groups (k : Kernel) : Nat := k.total * k.conv

/-- The mean group time (R298): of the kernel's DONE groups, else the one its queue keeps for the same `CODE`. -/
def State.meanOf (s : State) (k : Kernel) : Option Nat :=
  if 0 < k.gdone then some (k.durSum / k.gdone)
  else match s.queue? k.q with
    | some q => if q.mean != 0 && q.tag == k.code.toNat / 4 then some q.mean else none
    | none => none

/-- The loop of R298 on a number of convoys. -/
def shedLoop (now mean f limit : Nat) : Nat → Kernel → Kernel
  | 0, k => k
  | n + 1, k =>
    let r := k.left * k.conv
    let top := k.total - k.shed.length - 1
    let inRange := decide (k.sfirst ≤ top * k.conv) && decide (top * k.conv + k.conv - 1 ≤ k.slast)
    if k.left = 0 || !inRange || decide (now + (r * mean + f - 1) / f ≤ limit) then k
    else shedLoop now mean f limit n { k with shed := k.shed ++ [top] }

/-- The distributor sheds convoys of a kernel (R298): its `DL` is not "never" and its shed range is not empty. -/
def Kernel.sheds (k : Kernel) : Bool := k.dl != never && k.sfirst != 0xFFFFFFFF

/-- The evaluation of R298. The kernel's resident groups are those of its RESIDENT convoys (R263), DONE ones among them, as
R466 counts them (log 104). -/
def State.shedNow (s : State) (k : Kernel) (part : Nat) : Kernel :=
  if !k.sheds then k
  else match s.meanOf k with
    | none => k
    | some mean =>
      let f := max 1 (k.placed - k.retired * k.conv + s.admissible k part)
      shedLoop s.pt.toNat mean f (k.dl.toNat - k.margin * 10000) ((k.slast - k.sfirst + 1) / k.conv) k

/-- What precedes each reservation (R296, R298): PLACING, then shedding, then DRAINING when no convoy is left. -/
def State.beforeConvoy (s : State) (k : Kernel) (part : Nat) : Kernel :=
  let k := s.shedNow (if k.st = 1 then { k with st := 2 } else k) part
  if k.left = 0 then { k with st := 3 } else k

/-! ### Reservation and commit -/

/-- The record of the places used last on a die (R264). -/
def State.distLast (s : State) (die : Nat) : DistLast :=
  (s.dist.find? fun d => d.die == die).getD { die, core := 127, quad := 7 }

/-- The core used last by convoys of one group, or the quad used last by larger ones. -/
def DistLast.place (d : DistLast) (one : Bool) : Nat := if one then d.core else d.quad
/-- Recording it. -/
def DistLast.set (d : DistLast) (one : Bool) (n : Nat) : DistLast := if one then { d with core := n } else { d with quad := n }
/-- The number of a core, or of its quad, on its die. -/
def distPlace (one : Bool) (core : Nat) : Nat := if one then core % 128 else core % 128 / 16

/-- Recording the place used last (R264). -/
def State.noteDist (s : State) (one : Bool) (die n : Nat) : State :=
  { s with dist := (s.distLast die).set one n :: s.dist.filter fun d => d.die != die }

/-- Reserving a kernel's next convoy at a place (R263, R265). -/
def State.reserve (s : State) (k : Kernel) (plan : Plan) : State :=
  let (cu, s) := s.freshUid
  let one := k.conv == 1
  let gs : List Group := plan.zipIdx.map fun (p, m) =>
    { uid := s.nextUid + m, ctx := k.ctx, kernel := k.uid, convoy := cu, member := m, core := p.1, idx := k.next * k.conv + m,
      waves := k.wavesPerGroup, st := .reserved, granted := false, reservedAll := !one, scratch := k.pscr,
      scratchTarget := k.scr, plan := p.2, preRegs := k.pregs, fullRegs := k.regs, mem := [], full := [], bad := [], bars := [],
      det := [], team := k.team, calls := [], commitPT := 0 }
  let core := (plan.headD (0, [])).1
  let cv : Convoy :=
    { uid := cu, ctx := k.ctx, kernel := k.uid, idx := k.next, st := .reserving, groups := gs.map fun g => g.uid
      dieWas := k.dieLast, distWas := (s.distLast (core / 128)).place one }
  let s := { s with nextUid := s.nextUid + plan.length, groups := s.groups ++ gs, convoys := s.convoys ++ [cv] }
  (s.noteDist one (core / 128) (distPlace one core)).modKernel k.uid fun _ => { k with next := k.next + 1, dieLast := some (core / 128) }

/-- The identifier of a kernel (R294). -/
def Kernel.kid (k : Kernel) : Nat := k.q % 2 ^ 10 * 2 ^ 22 + k.index % 2 ^ 22

/-- The scalar registers of a new wave of a group (R295). -/
def startScalars (k : Kernel) (convoy member idx : Nat) : Sparse Word :=
  let w (n : Nat) : Word := BitVec.ofNat 32 n
  let head := [w k.param.toNat, w (k.param.toNat / 2 ^ 32), w idx, w convoy, w member, w (convoy % k.nx),
    w (convoy / k.nx % k.ny), w (convoy / (k.nx * k.ny)), w k.kid, w k.groups]
  let put (s : Sparse Word) (p : Word × Nat) : Sparse Word := sset 0 s p.2 p.1
  ((k.params.take 16).zipIdx 16).foldl put (head.zipIdx.foldl put [])

/-- A split as a new wave has it (R112). -/
def freshSplit (pc : DWord) (mask : Word) (segw : Nat) : Split :=
  { num := 0, pc, mask, st := .ready, replay := none, s := [], x := [], segw, stack := [], begun := false, held := none, latchOff := false,
    yielded := false, marked := none, issues := 0, lost := 0, waiting := none, also := [], badS := [] }

/-- A new wave (R112): the `i`-th of a group. -/
def freshWave (k : Kernel) (g : Group) (convoy uid i : Nat) (seat : Nat × Nat) : Wave :=
  let n := min 32 (k.gthr - 32 * i)
  let sp := { freshSplit k.code (maskOf fun t => t < n) k.segw with s := startScalars k convoy g.member g.idx }
  { uid, ctx := k.ctx, kernel := k.uid, group := g.uid, core := g.core, lane := seat.1, slot := seat.2, idx := i,
    halted := false, splits := [sp], lastSp := 0, regs := k.pregs, target := k.regs, v := [], badV := [], p := [], fp := [],
    latch := ⟨[], 0, []⟩, stored := false, back := false, udiv := false, pend := [], tls := List.replicate 8 ⟨0, [], [], []⟩, tw := [],
    arr := List.replicate 4 ⟨0, 0, 0, true⟩, dl := k.dl, cls := k.cls, launchCls := k.cls, full := k.full, efl := 0,
    trap := none, stuck := false }

/-- Committing a convoy (R262, R263): its groups run at one instant, with their barriers (R276) and waves (R112). -/
def State.commit (s : State) (c : Convoy) (k : Kernel) : State :=
  let gs := c.groups.filterMap s.group?
  let total := sumOf (·.waves) gs
  let run (g : Group) : Group :=
    let bars := List.replicate k.bars (Barrier.fresh g.waves)
    { g with st := .running, plan := [], commitPT := s.pt,
             bars := if g.member = 0 && 1 < k.conv then bars.set 0 { Barrier.fresh total with scp := 1 } else bars }
  let s1 := gs.foldl (fun s g =>
    { s with nextUid := s.nextUid + g.plan.length,
             waves := s.waves ++ g.plan.zipIdx.map fun (seat, i) => freshWave k g c.idx (s.nextUid + i) i seat }) s
  let s1 := { s1 with
    groups := s1.groups.map fun (g : Group) => if c.groups.contains g.uid then run g else g
    convoys := s1.convoys.map fun (x : Convoy) => if x.uid = c.uid then { x with st := .resident } else x }
  s1.modKernel k.uid fun k =>
    let k := { k with placed := k.placed + k.conv }
    if k.st = 2 && k.left = 0 then { k with st := 3 } else k

/-- The die of a convoy. -/
def State.dieOf (s : State) (c : Convoy) : Nat := match (s.members c.uid).head? with | some g => g.core / 128 | none => 0

/-- The choices of places as if a convoy had not been reserved (R264, R265): where its place is still the one used last, the one
before it is; where another partition has reserved on the die since, that reservation has the one before it as its own. -/
def State.undoDist (s : State) (c : Convoy) : State :=
  let one := c.groups.length == 1
  let die := s.dieOf c
  let mine := distPlace one (match (s.members c.uid).head? with | some g => g.core | none => 0)
  if (s.distLast die).place one = mine then s.noteDist one die c.distWas
  else { s with convoys := s.convoys.map fun x =>
    if x.st == .reserving && x.uid != c.uid && (x.groups.length == 1) == one && s.dieOf x == die && x.distWas == mine then
      { x with distWas := c.distWas } else x }

/-- Cancelling a convoy's reservation (R265): the next choice of a place is as if it had not been made (R264). -/
def State.cancelConvoy (s : State) (c : Convoy) : State :=
  let s := match s.convoy? c.uid with | some x => s.undoDist x | none => s
  { s with convoys := s.convoys.filter fun x => x.uid != c.uid
           groups := s.groups.filter fun g => !c.groups.contains g.uid }.modKernel c.kernel fun k =>
    { k with next := k.next - 1, dieLast := c.dieWas }

/-- Cancelling every reservation of a context (R265). -/
def State.cancelReservations (s : State) (ctx : Nat) : State :=
  (s.convoys.filter fun c => c.ctx == ctx && c.st == .reserving).foldl State.cancelConvoy s

/-- The launch order (R297): class, deadline within REALTIME, entry into READY, queue. -/
def Kernel.before (a b : Kernel) : Bool :=
  let d (k : Kernel) : Nat := if k.cls = 0 then k.dl.toNat else 0
  if a.cls != b.cls then decide (a.cls < b.cls)
  else if d a != d b then decide (d a < d b)
  else if a.readyNo != b.readyNo then decide (a.readyNo < b.readyNo)
  else decide (a.q < b.q)

/-- The distributor starts again from the first kernel of a partition (R297). -/
def State.fromFirst (s : State) (part : Nat) : State :=
  { s with kernels := s.kernels.map fun k => if (s.ctx k.ctx).part = part then { k with passed := false } else k }

/-- The READY and PLACING kernels of a partition's running context, in launch order. -/
def State.launchOrder (s : State) (part : Nat) : List Kernel :=
  let ks := s.kernels.filter fun k => (k.st == 1 || k.st == 2) && (s.ctx k.ctx).st == .running && (s.ctx k.ctx).part == part
  ks.foldl (fun l k => l.filter (fun x => x.before k) ++ k :: l.filter fun x => !x.before k) []

/-- The distributor goes on down the order (R297): the first kernel whose next convoy has a place is reserved; kernels
before it may shed or begin placing, and are passed over. -/
def reservePass (part : Nat) : List Kernel → State → State
  | [], s => s
  | k :: r, s =>
    let k' := { s.beforeConvoy k part with passed := true }
    let s := s.modKernel k.uid fun _ => k'
    if k'.st != 2 then reservePass part r s
    else match (s.diesFor k' part).findSome? fun d => s.placeOnDie k' part d with
      | some plan => s.reserve { k' with passed := false } plan
      | none => reservePass part r s

/-- A step of the distributor in a partition (R263, R264): a reserved convoy commits, or the next one is reserved. -/
def tryConvoyReserve (part : Nat) (s : State) : Option State :=
  let mine (c : Convoy) : Bool :=
    c.st == .reserving && (s.ctx c.ctx).part == part && (s.ctx c.ctx).st == .running
  match s.convoys.find? mine with
  | some c => match s.kernel? c.kernel with
    | some k => some (s.commit c k)
    | none => none
  | none => match (s.launchOrder part).filter fun k => !k.passed with
    | [] => none
    | l => some (reservePass part l s)
/-- The step of `tryConvoyReserve`. -/
def execConvoyReserve (part : Nat) (s : State) : Out := made s (tryConvoyReserve part s)

/-! ### Grants -/

/-- The grant of a group (R259): targets reached at one instant; what it adds reads zero. -/
def State.grant (s : State) (g : Nat) : State :=
  let s := s.modGroup g fun g => { g with granted := true, scratch := max g.scratch g.scratchTarget }
  { s with
    waves := s.waves.map fun w => if w.group = g && !w.exited then { w with regs := max w.regs w.target } else w
    acqQ := s.acqQ.filter fun r => r.group != g }

/-- The distributor's evaluation of shedding when a context goes on (R328): of each of its kernels that waits for places, in launch
order; it starts again from the first kernel. -/
def State.shedAfresh (s : State) (c : Nat) : State :=
  let part := (s.ctx c).part
  ((s.launchOrder part).filter fun k => k.ctx == c).foldl (fun s k => s.modKernel k.uid fun k => s.shedNow k part) (s.fromFirst part)

/-- Every pool of the core has room for the grant of a group (R259). -/
def State.grantRoom (s : State) (g : Group) : Bool :=
  let l := s.seats g.core
  let gs := s.groups.filter fun x => s.holdsCore g.core x
  decide (sumOf s.heldScratch gs + (g.scratchTarget - g.scratch) ≤ 262144) &&
  (List.range 64).all fun lane =>
    let here := l.filter fun x => x.lane == lane
    decide (sumOf (fun x => 32 * x.held) here +
      sumOf (fun x => if x.loose == some g.uid then 32 * x.need else 0) here ≤ 6144)

/-- R272. -/
def execAcq (e : Enc) (s : State) : Out := runOnce .acq e s fun i s =>
  match s.group? i.w.group with
  | none => .done s
  | some g =>
    if g.granted then .done s
    else if g.reservedAll then .done (s.grant g.uid)
    else .block .grant (if s.acqQ.any fun r => r.group == g.uid then s
      else { s with acqQ := s.acqQ ++ [{ core := g.core, ctx := g.ctx, group := g.uid }] })

/-- A core grants the oldest request of its running context (R259). -/
def tryAcqGrant (core : Nat) (s : State) : Option State :=
  match s.acqQ.find? fun r => r.core == core && (s.ctx r.ctx).st == .running with
  | none => none
  | some r => match s.group? r.group with
    | none => none
    | some g => if s.grantRoom g then some (s.grant g.uid) else none
/-- The step of `tryAcqGrant`. -/
def execAcqGrant (core : Nat) (s : State) : Out := made s (tryAcqGrant core s)

/-! ### Releases -/

/-- `a` rounded up to a multiple of `n`. -/
def ceilTo (a n : Nat) : Nat := (a + n - 1) / n * n

/-- Lowering a wave's registers (R273): what is given up is gone. -/
def Wave.lower (w : Wave) (r : Nat) : Wave :=
  { w with regs := r, v := sfilter (fun k => decide (k < r * 32)) w.v, badV := w.badV.filter fun k => decide (k < r * 32) }

/-- Lowering a group's scratchpad (R273). An access that passed its SPACE check before performs on the old bytes, so they stay
where nothing later reaches them. -/
def Group.lower (g : Group) (n : Nat) : Group := { g with scratch := n }

/-- No outstanding write reaches a register at or above a count (R273). -/
def Wave.clearAbove (w : Wave) (r : Nat) : Bool :=
  w.pend.all fun p => p.mask == 0 || (match p.dst with | .vec d n => decide (d + n ≤ r) | .sca .. => true)

/-- An engine operation or matrix task, whoever posted it, writes a group's scratchpad at or above a count (R273). -/
def State.writesAbove (s : State) (g n : Nat) : Bool :=
  s.ops.any (fun o => o.spans.any fun x => x.1 == g && decide (n < x.2)) ||
  s.tasks.any fun t => t.spans.any fun x => x.1 == g && decide (n < x.2)

/-- The part of a `GREL` that can be done now, and whether that is all of it (R273). -/
def State.release (s : State) (w : Wave) (g : Group) (r n : Nat) : State × Bool :=
  if r < w.regs && !w.clearAbove r then (s, false)
  else
    let s := if r < w.regs then s.modWave w.uid fun w => w.lower r else s
    if n < g.scratch then
      if s.writesAbove g.uid n then (s, false) else (s.modGroup g.uid fun g => g.lower n, true)
    else (s, true)

/-- R273. While it waits, the wave still holds the registers that it held before it (R261). -/
def execGrel (e : Enc) (s : State) : Out := runOnce .grel e s fun i s =>
  let r := max 8 (ceilTo (i.sA false) 8)
  let n := ceilTo (i.sB false) 16
  match s.group? i.w.group with
  | none => .done s
  | some g =>
    let s := if g.granted then s
      else (s.modWave i.w.uid fun w => { w with target := min w.target r }).modGroup g.uid fun g =>
        { g with scratchTarget := min g.scratchTarget n }
    match s.release i.w g r n with
    | (s, true) => .done s
    | (s, false) => .block (.grel r n i.len (i.w.held g)) s

/-- A waiting `GREL` goes on (R273): what it waited for is over. -/
def tryGrelComplete (u n : Nat) (s : State) : Option State :=
  match s.wave? u with
  | none => none
  | some w => match w.split? n, s.group? w.group with
    | some p, some g => match p.st with
      | .blocked (.grel r b len _) =>
        if w.halted then none
        else match s.release w g r b with
          | (t, true) => some (completeSplit t u n len)
          | (t, false) => if r < w.regs && w.clearAbove r then some t else none
      | _ => none
    | _, _ => none
/-- The step of `tryGrelComplete`. -/
def execGrelComplete (u n : Nat) (s : State) : Out := made s (tryGrelComplete u n s)

/-! ### The end of waves, groups and convoys -/

/-- The last wave of a group is EMPTY (R262): its buffer merges, and its time counts for the kernel's mean. -/
def State.groupDone (s : State) (g : Group) : State :=
  let s := { s.modGroup g.uid fun g => { g.mergeDet with st := .done } with acqQ := s.acqQ.filter fun r => r.group != g.uid }
  s.modKernel g.kernel fun k => { k with gdone := k.gdone + 1, durSum := k.durSum + (ptSub s.pt g.commitPT).toNat }

/-- An EXITED wave becomes EMPTY (R113, R261): its failures that no `TLWAIT` reported go to its kernel (R225). -/
def tryWaveFree (u : Nat) (s : State) : Option State :=
  match s.wave? u with
  | none => none
  | some w =>
    if !w.exited || w.pend.any fun p => p.mask != 0 then none
    else
      let s := (w.tls.flatMap (·.fails)).foldl (fun s f => s.kernelFail w.kernel f.order f.cause) s
      let s := { s with waves := s.waves.filter fun x => x.uid != u, lanes := s.lanes.filter fun l => l.wave != u }
      match s.group? w.group with
      | some g => some (if g.st == .running && !s.waves.any (fun x => x.group == g.uid) then s.groupDone g else s)
      | none => some s
/-- The step of `tryWaveFree`. -/
def execWaveFree (u : Nat) (s : State) : Out := made s (tryWaveFree u s)

/-- A range of addresses meets the member or the group-reduction window of a context. -/
def Ctx.meetsWindows (c : Ctx) (a n : Nat) : Bool :=
  (c.mbrwin != 0 && overlap a n c.mbrwin (2 ^ 22)) || (c.grpwin != 0 && overlap a n c.grpwin (2 ^ 24))

/-- An `LRED` that still reads its block at the origin through a window of its context (R425). -/
def State.lredReads (s : State) (o : LinkOp) : Bool :=
  match o.op.kind, o.src with
  | .lred n, some (a, _) => (s.ctx o.ctx).meetsWindows a (33 * n)
  | _, _ => false

/-- An access, an engine operation or a matrix task to a member's scratchpad is outstanding (R263). -/
def State.convoyBusy (s : State) (c : Convoy) : Bool :=
  s.stores.any (fun m => match m.acc.place with
    | .spd g _ => c.groups.contains g
    | .grp x _ _ _ => x == c.uid
    | _ => false) ||
  s.ops.any (fun o => o.scratch && c.groups.contains o.group) ||
  s.tasks.any (fun t => t.op != .aclr && c.groups.contains t.group) ||
  s.links.any fun l => l.ops.any fun o => c.groups.contains o.group && s.lredReads o

/-- A convoy retires (R263): its groups are FREED; their `DET` effects stay with the kernel (R202). -/
def tryConvoyRetire (u : Nat) (s : State) : Option State :=
  match s.convoy? u with
  | none => none
  | some c =>
    let gs := s.members u
    if c.st != .resident || (s.ctx c.ctx).st == .swapped || gs.any (fun g => g.st != .done) || s.convoyBusy c then none
    else
      let det := gs.filterMap fun g => if g.det.isEmpty then none else some (g.idx, g.det)
      some (({ s with
        convoys := s.convoys.filter fun x => x.uid != u
        groups := s.groups.filter fun g => !c.groups.contains g.uid
        tiles := s.tiles.filter fun t => !c.groups.contains t.group }.modKernel c.kernel fun k =>
          { k with retired := k.retired + 1, det := k.det ++ det }).fromFirst (s.ctx c.ctx).part)
/-- The step of `tryConvoyRetire`. -/
def execConvoyRetire (u : Nat) (s : State) : Out := made s (tryConvoyRetire u s)

end Sys2Proof.Machine
end

