-- ==== Sys2Proof/Machine/Kernels.lean ====
section
/-! DEFINITION. Kernels: the parameter read (R295), the end of a kernel with its `DET` effects and completion record (R202, R296,
R299, R300), and `KSTAT` (R301). -/

namespace Sys2Proof.Machine

/-- Removing a kernel. -/
def State.dropKernel (s : State) (u : Nat) : State := { s with kernels := s.kernels.filter fun k => k.uid != u }

/-- An agent of a context that waits for nothing may go on: its context runs (R327). -/
def mayGoOn (s : State) (ctx : Nat) (p : Option ParkOn) : Bool :=
  (s.ctx ctx).st == .running && (match p with | none | some .ready | some .failed => true | _ => false)

/-! ### The parameter read -/

/-- The parameter read failed (R295): the kernel is discarded and its queue is in ERROR. -/
def State.paramFail (s : State) (k : Kernel) : State := (s.dropKernel k.uid).packetFail k.q k.index 3

/-- A kernel becomes READY (R296); reservations of launches after it in the order are cancelled (R265), and the distributor
starts again from the first kernel (R297). -/
def State.kernelReady (s : State) (k : Kernel) (params : List Word) : State :=
  let (n, s) := s.freshUid
  let k' := { k with st := 1, params, readyNo := n, parkedOn := none }
  let s := s.modKernel k.uid fun _ => k'
  let part := (s.ctx k.ctx).part
  let lower (c : Convoy) : Bool :=
    c.st == .reserving && (s.ctx c.ctx).part == part && c.kernel != k.uid &&
    (match s.kernel? c.kernel with | some x => k'.before x | none => false)
  ((s.convoys.filter lower).foldl State.cancelConvoy s).fromFirst part

/-- The parameter block is read once, when the hazards of a PENDING kernel clear (R295). -/
def tryParameterRead (u : Nat) (s : State) : Option State :=
  match s.kernel? u with
  | none => none
  | some k =>
    let held := match s.queue? k.q, s.packet? k.q k.index with
      | some q, some p => s.heldPacket q p
      | _, _ => false
    if k.st != 0 || held || !mayGoOn s k.ctx k.parkedOn then none
    else if k.parkedOn == some .failed then some (s.paramFail k)
    else if k.param = 0 then some (s.kernelReady k (List.replicate 16 0))
    else match s.cpRead k.ctx k.param.toNat 64 with
      | .ok (x, s) => some (s.kernelReady k (wordsOf 16 x))
      | .fail e => some ((s.lostData e k.ctx k.param.toNat 64).paramFail k)
      | .wait x => match s.cpPark k.ctx k.param.toNat .read x with
        | .ok (p, s) => some (s.modKernel u fun k => { k with parkedOn := some p })
        | .error _ => some (s.paramFail k)
/-- The step of `tryParameterRead`. -/
def execParameterRead (u : Nat) (s : State) : Out := made s (tryParameterRead u s)

/-! ### `DET` effects -/

/-- An item is a byte at an address. -/
def DetItem.byteAt (d : DetItem) (va : Nat) : Bool := match d with | .byte _ _ a _ _ => a == va | .red .. => false

/-- A group's effects in the order of R202: of each byte the last write, then its `RED` operations by ascending `tid`. -/
def detPlan (l : List DetItem) : List DetItem :=
  let bytes := l.foldr (fun d acc => match d with
    | .byte _ _ va _ _ => if acc.any fun x => x.byteAt va then acc else d :: acc
    | .red .. => acc) []
  bytes ++ sortBy DetItem.tid (l.filter fun d => match d with | .red .. => true | _ => false)

/-- The address and kind of an item's access. -/
def DetItem.target : DetItem → Nat × AccKind
  | .byte _ _ va _ _ => (va, .write)
  | .red _ va _ _ _ _ => (va, .rmw)

/-- Applying one effect as an agent of the kernel's context (R202). -/
def applyItem (s : State) (k : Kernel) : DetItem → CpRes State
  | .byte _ _ va b _ => s.cpWrite k.uid k.ctx va b.toNat 1
  | .red _ va size mode ty data => s.cpRmw k.uid k.ctx va size fun old => rmwNew mode ty old data 0

/-- Applying effects until one must wait; a lost one counts in the record (R202). -/
def applyItems (k : Kernel) : List DetItem → State → State × List DetItem × Option ParkOn
  | [], s => (s, [], none)
  | d :: r, s => match applyItem s k d with
    | .ok s => applyItems k r s
    | .fail c => applyItems k r ((s.lostData c k.ctx d.target.1 1).kernelFailNow k.uid c)
    | .wait x => match s.cpPark k.ctx d.target.1 d.target.2 x with
      | .ok (p, s) => (s, d :: r, some p)
      | .error c => applyItems k r (s.kernelFailNow k.uid c)

/-- Applying the effects of groups in ascending index. -/
def applyGroups (k : Kernel) : List (Nat × List DetItem) → State → State × List (Nat × List DetItem) × Option ParkOn
  | [], s => (s, [], none)
  | (n, l) :: r, s => match applyItems k (detPlan l) s with
    | (s, rest, some p) => (s, (n, rest) :: r, some p)
    | (s, _, none) => applyGroups k r s

/-- Dropping the effect whose service failed (R202). -/
def dropFirst : List (Nat × List DetItem) → List (Nat × List DetItem)
  | [] => []
  | (n, l) :: r => match detPlan l with
    | [] => dropFirst r
    | _ :: t => (n, t) :: r

/-! ### The completion record -/

/-- Word `a` of a kernel's `SHED` bitmap (R299). -/
def Kernel.shedWord (k : Kernel) (a : Nat) : Word :=
  maskOf fun i =>
    let g := k.sfirst + 32 * a + i
    decide (g ≤ k.slast) && k.shed.contains (g / k.conv)

/-- Words of the `SHED` bitmap. -/
def Kernel.shedWords (k : Kernel) : Nat := if k.sfirst = 0xFFFFFFFF then 0 else (k.slast - k.sfirst + 1 + 31) / 32

/-- The record's words from byte 4 (R299). -/
def Kernel.body (k : Kernel) : List Word :=
  let w (n : Nat) : Word := BitVec.ofNat 32 n
  [w k.kid, w k.gdone, w (k.shed.length * k.conv), k.donePT.setWidth 32, w (k.donePT.toNat / 2 ^ 32), 0, 0] ++
  (List.range k.shedWords).map k.shedWord

/-- The record's first word (R299). -/
def Kernel.headWord (k : Kernel) : Word :=
  BitVec.ofNat 32 ((match k.fcause with | some c => c.2.code | none => 0) * 2 ^ 16 + min 255 k.fcount * 2 ^ 8 + 5)

/-- Words at rising addresses that the command processor is to write: whether it may write them all, or where it waits or
fails. -/
def cpProbe (s : State) (c : Nat) : Nat → Nat → CpRes Unit × Nat
  | va, 0 => (.ok (), va)
  | va, n + 1 => match s.agentReach c (s.ctx c).ksup .write va 4 with
    | .ok _ => cpProbe s c (va + 4) n
    | .wait x => (.wait x, va)
    | .fail e => (.fail e, va)

/-- Writing words at rising addresses, as the command processor, where it may write them all. -/
def cpWords (src c : Nat) : Nat → List Word → State → State
  | _, [], s => s
  | va, x :: r, s => match s.cpWrite src c va x.toNat 4 with
    | .ok s => cpWords src c (va + 4) r s
    | _ => cpWords src c (va + 4) r s

/-- A kernel is COMPLETE (R296, R300): its queue keeps the mean of one that sheds (R298, R467; log 104), and its packet completes, or
fails with cause 7. -/
def State.kernelComplete (s : State) (k : Kernel) (written : Bool) : State :=
  let keep (q : Queue) : Queue :=
    if k.gdone = 0 || !k.sheds then q
    else { q with mean := max 1 (min (k.durSum / k.gdone) 0xFFFFFFFF), tag := k.code.toNat / 4 }
  let s := (s.dropKernel k.uid).modQueue k.q keep
  if written then s.packetDone k.q k.index else s.packetFail k.q k.index 7

/-- Writing the record (R300): bytes 4 onward, then bytes 0-3. One that cannot be written whole is left unwritten. -/
def State.writeCompletion (s : State) (k : Kernel) : State :=
  match cpProbe s k.ctx k.recA.toNat (k.body.length + 1) with
  | (.fail _, _) => s.kernelComplete k false
  | (.wait x, va) => match s.cpPark k.ctx va .write x with
    | .ok (p, s) => s.modKernel k.uid fun k => { k with parkedOn := some p }
    | .error _ => s.kernelComplete k false
  | (.ok _, _) =>
    let s := cpWords k.uid k.ctx (k.recA.toNat + 4) k.body s
    (cpWords k.uid k.ctx k.recA.toNat [k.headWord] s).kernelComplete k true

/-- Every convoy placed has retired, and every access and engine operation of its waves is performed (R296). -/
def State.drainedKernel (s : State) (k : Kernel) : Bool :=
  k.retired * k.conv == k.placed && !s.stores.any (fun m => m.kernel == k.uid) && !s.ops.any (fun o => o.kernel == k.uid) &&
  !s.tasks.any (fun t => t.kernel == k.uid) && !s.links.any (fun l => l.ops.any fun o => o.kernel == k.uid) &&
  !s.convoys.any fun c => c.kernel == k.uid

/-- A DRAINING kernel finishes, or a FINISHING one goes on (R296, R300). -/
def tryKernelFinish (u : Nat) (s : State) : Option State :=
  match s.kernel? u with
  | none => none
  | some k =>
    if !mayGoOn s k.ctx k.parkedOn || !(k.st == 4 || (k.st == 3 && s.drainedKernel k)) then none
    else
      let k := if k.st = 3 then { k with st := 4, donePT := s.pt, det := sortBy Prod.fst k.det } else k
      if k.parkedOn == some .failed && (k.det.flatMap (·.2)).isEmpty then some (s.kernelComplete k false)
      else
        let s := if k.parkedOn == some .failed then s.kernelFailNow u .page else s
        let det := if k.parkedOn == some .failed then dropFirst k.det else k.det
        let (s, rest, p) := applyGroups k det s
        let s := s.modKernel u fun x => { x with st := 4, donePT := k.donePT, det := rest, parkedOn := p }
        match p, s.kernel? u with
        | none, some k => some (s.writeCompletion k)
        | _, _ => some s
/-- The step of `tryKernelFinish`. -/
def execKernelFinish (u : Nat) (s : State) : Out := made s (tryKernelFinish u s)

/-! ### `KSTAT` -/

/-- A read that a split makes without replay (R240): a value, a wait for a migration, or a trap. -/
inductive PlainRead where
  | ok (x : Nat) (s : State)
  | wait (w : Wait)
  | trap (c : Cause)

/-- Reading bytes within a page for a split, without replay, fault record or page request (R240). -/
def plainRead (s : State) (w : Wave) (va n : Nat) : PlainRead :=
  match s.agentReach w.ctx (s.waveSup w) .read va n with
  | .ok (p, t) => .ok (s.readPlace outside p n) (s.fill t)
  | .wait .migrating => .wait (.migration va)
  | .wait _ => .trap .page
  | .fail c => .trap c

/-- The trap of a read that a split makes without replay (R240): PAGE, PERM and ECC name the threads whose access was not made
(R218), every enabled one (log 87). -/
def Issue.readTrap (i : Issue) (c : Cause) (va : Nat) : TrapInfo :=
  match c with
  | .page | .perm | .ecc => { i.plainTrap c va with mask := i.en.setWidth 64 }
  | _ => i.plainTrap c va

/-- `KSTAT` of a kernel that is not complete (R301). -/
def Kernel.stat (k : Kernel) (sel a : Nat) : Nat :=
  match sel with
  | 0 => k.st
  | 1 => k.gdone
  | 2 => k.shed.length * k.conv
  | _ => if a < k.shedWords then (k.shedWord a).toNat else 0

/-- R301. -/
def execKstat (e : Enc) (s : State) : Out := runOnce .kstat e s fun i s =>
  let r := (i.sp.spair i.e.b.toNat).toNat
  let sel := i.e.opx.toNat
  let a := if sel = 3 then i.sA false else 0
  let trap (c : Cause) (va : Nat) (s : State) : Res := .trap (i.readTrap c va) (s.lostData c i.w.ctx va 16)
  match s.kernels.find? fun k => k.ctx == i.w.ctx && decide (k.st < 5) && k.recA.toNat == r with
  | some k => i.sca s false (k.stat sel a)
  | none =>
    if 2 ^ 57 ≤ r || r % 64 != 0 then trap .space r s
    else i.released s (match plainRead s i.w r 16 with
      | .wait w => .block w s
      | .trap c => trap c r s
      | .ok x s =>
        let done := x % 256 == 5
        match sel with
        | 0 => i.sca s false (if done then 5 else 7)
        | 1 => i.sca s false (if done then x / 2 ^ 64 % 2 ^ 32 else 0)
        | 2 => i.sca s false (if done then x / 2 ^ 96 else 0)
        | _ =>
          let va := r + 32 + 4 * a
          match plainRead s i.w va 4 with
          | .wait w => .block w s
          | .trap c => trap c va s
          | .ok y s => i.sca s false (if done then y else 0))

end Sys2Proof.Machine
end

