-- ==== Sys2Proof/Machine/Queues.lean ====
section
/-! DEFINITION. Queues: binding (R302, R439), commands (R310), dispatch (R303-R309, R312, R314), packets (R306), eviction and reload
(R318), and `QPOST`, `QWAIT`, `QSTAT` (R319-R322). -/

namespace Sys2Proof.Machine

/-! ### Commands -/

/-- The bound of the indices (R302). -/
def indexBound : Nat := 2 ^ 61

/-- Putting a queue in ERROR for a packet that has not been dispatched, or for a doorbell (R311). -/
def State.queueError (s : State) (q cause index : Nat) : State :=
  (s.modQueue q fun x => { x.error cause index with parkedOn := none, idleSince := none, idle10 := false }).tellQueue q

/-- A DOORBELL on a queue (R310). -/
def Queue.doorbell (q : Queue) (index : Nat) : Queue :=
  if index ≤ q.rd + 2 ^ q.logn then
    let wr := max q.wr index
    { q with wr, st := if q.st = 0 && q.wr < index then 1 else q.st }
  else if q.st < 3 then q.error 4 index else q

/-- The packets from one index to another complete as `NOP`s (R310). -/
def State.skipPackets (s : State) (q a n : Nat) : State := (List.range n).foldl (fun s k => s.packetDone q (a + k)) s

/-- A RESUME on a queue (R310): the head that it skips to is read anew. -/
def State.queueResume (s : State) (q : Queue) (index : Nat) : State :=
  if (q.st = 3 || q.st = 4) && q.rd ≤ index && index ≤ q.wr then
    (s.skipPackets q.num q.rd (index - q.rd)).modQueue q.num fun x =>
      let x := { x with rd := index, parkedOn := none, idleSince := none, idle10 := false }
      { x with st := if x.waitAt.isSome then 2 else x.rest }
  else s

/-- A command applied to a cached queue (R310): `CMD` in [63:61]. -/
def State.queueCommand (s : State) (q : Nat) (cmd : DWord) : State :=
  let index := cmd.toNat % indexBound
  match s.queue? q with
  | none => s
  | some x =>
    let (used, s) := s.freshUid
    let s := s.modQueue q fun x => { x with used }
    (match cmd.toNat / indexBound with
     | 0 => s.modQueue q fun x => x.doorbell index
     | 1 => s.queueResume x index
     | 2 => if index = 0 then s.modQueue q fun x => { x with st := 4 } else s
     | _ => s).tellQueue q

/-- The commands held for a parked queue, in order of arrival (R318). -/
def State.heldFor (s : State) (q : Nat) : List DWord := (s.parkBuf.filter fun x => x.1 == q).map (·.2)

/-- Retaining a doorbell in the bitmap with its highest index (R318), at the place among the held commands where the first
retained one arrived (log 42). -/
def State.keepBell (s : State) (q index : Nat) : State :=
  let b := match s.bellMap.find? fun b => b.1 == q with
    | some b => (max b.2.1 index, b.2.2)
    | none => (index, (s.heldFor q).length)
  { s with bellMap := (q, b) :: s.bellMap.filter fun b => b.1 != q }

/-- A command to a queue (R310, R318): applied, or held for a parked queue. None: it waits at its sender. -/
def State.sendCommand (s : State) (q : Queue) (cmd : DWord) : Option State :=
  if q.onChip then some (s.queueCommand q.num cmd)
  else if s.parkBuf.length < 256 then some { s with parkBuf := s.parkBuf ++ [(q.num, cmd)] }
  else if cmd.toNat / indexBound = 0 then some (s.keepBell q.num (cmd.toNat % indexBound))
  else none

/-- A command word that the device takes (R310): `CMD` is not reserved, and a DISABLE has no index. -/
def commandOk (cmd : DWord) : Bool :=
  cmd.toNat / indexBound < 2 || (cmd.toNat / indexBound == 2 && cmd.toNat % indexBound == 0)

/-- A host's write of a command word to a doorbell (R310, R438): a queue that is not bound takes none, and a reserved command has
no effect. A RESUME or DISABLE that finds the park buffer full waits at its sender: this step has no effect (R318, log 84). -/
def hostCommand (q : Nat) (cmd : DWord) (s : State) : Out :=
  if !commandOk cmd then .next s else made s ((s.queue? q).bind fun x => s.sendCommand x cmd)

/-- The word of a command. -/
def commandWord (cmd index : Nat) : DWord := BitVec.ofNat 64 (cmd * indexBound + index % indexBound)

/-- R310: the host's DOORBELL. -/
def execQueueDoorbell (q index : Nat) (s : State) : Out := hostCommand q (commandWord 0 index) s
/-- R310: the host's RESUME. -/
def execQueueResume (q index : Nat) (s : State) : Out := hostCommand q (commandWord 1 index) s
/-- R310: the host's DISABLE. -/
def execQueueDisable (q : Nat) (s : State) : Out := hostCommand q (commandWord 2 0) s

/-! ### Packets and their checks -/

/-- `n` bytes of a packet from an offset. -/
def pktField (p off n : Nat) : Nat := p / 2 ^ (8 * off) % 2 ^ (8 * n)

/-- Bits of a packet's named bytes; the others are reserved (R305). -/
def pktMask (ty : Nat) : Nat :=
  let f (off n m : Nat) : Nat := m % 2 ^ (8 * n) * 2 ^ (8 * off)
  f 0 4 0xFFFFFFFF + match ty with
  | 2 => f 8 8 (2 ^ 64 - 1) + f 16 8 (2 ^ 64 - 1) + f 24 8 (2 ^ 32 - 1)
  | 3 => f 4 4 7 + f 8 8 (2 ^ 64 - 1) + f 16 8 (2 ^ 64 - 1)
  | 4 => f 4 4 3 + f 8 8 (2 ^ 64 - 1) + f 16 8 (2 ^ 64 - 1)
  | 5 => f 4 4 1 + f 8 8 (2 ^ 64 - 1)
  | 6 => f 8 8 (2 ^ 64 - 1) + f 16 8 (2 ^ 64 - 1)
  | _ => 0

/-- The fields of a `LAUNCH` packet as a kernel (R292). -/
def launchKernel (p uid ctx q index : Nat) : Kernel :=
  let w (off lo n : Nat) : Nat := pktField p off 4 / 2 ^ lo % 2 ^ n
  let d (off : Nat) : DWord := BitVec.ofNat 64 (pktField p off 8)
  { uid, ctx, q, index, st := 0, cls := w 4 30 2, full := w 4 29 1 == 1, segw := 2 ^ w 4 26 3, conv := w 4 22 4 + 1,
    team := w 4 18 4, gthr := w 4 0 11 + 1, regs := 8 * w 8 27 5, pregs := 8 * w 8 22 5, bars := w 8 11 11,
    margin := w 8 0 11, scr := 16 * w 12 17 15, pscr := 16 * w 12 2 15, code := d 16, nx := pktField p 24 4,
    ny := pktField p 28 2, nz := pktField p 30 2, dl := d 32, sfirst := pktField p 40 4, slast := pktField p 44 4,
    param := d 48, recA := d 56, params := [], next := 0, placed := 0, shed := [], gdone := 0, durSum := 0, retired := 0,
    readyNo := 0, passed := false, fcause := none, fcount := 0, donePT := 0, dieLast := none, pref := none, det := [], parkedOn := none }

/-- A `LAUNCH` packet is rejected (R293). -/
def launchBad (p : Nat) : Bool :=
  let k := launchKernel p 0 0 0 0
  let w (off lo n : Nat) : Nat := pktField p off 4 / 2 ^ lo % 2 ^ n
  let high (x : DWord) : Bool := x.toNat / 2 ^ 57 != 0
  let segw := w 4 26 3
  w 4 11 7 != 0 || w 12 0 2 != 0 || segw == 0 || decide (5 < segw) || k.team == 1 || decide (8 < k.team) ||
  decide (1024 < k.gthr) || k.regs == 0 || decide (192 < k.regs) || k.pregs == 0 || decide (k.regs < k.pregs) ||
  decide (1024 < k.bars) || decide (262144 < k.scr) || decide (k.scr < k.pscr) || high k.code || k.code.toNat % 4 != 0 ||
  k.nx == 0 || k.ny == 0 || k.nz == 0 || decide (2 ^ 32 - 1 < k.groups) ||
  (k.sfirst != 0xFFFFFFFF && (k.sfirst % k.conv != 0 || (k.slast + 1) % k.conv != 0 || decide (k.slast < k.sfirst) ||
    decide (k.groups ≤ k.slast) || decide (65536 < k.slast - k.sfirst + 1))) ||
  k.recA == 0 || high k.recA || high k.param || k.recA.toNat % 64 != 0 || k.param.toNat % 64 != 0

/-- A packet's body is malformed (R312). -/
def State.bodyBad (s : State) (c ty p : Nat) : Bool :=
  let a := pktField p 8 8
  let kind := pktField p 4 4 % 4
  if ty = 1 then launchBad p
  else p / 2 ^ 32 != (p &&& pktMask ty) / 2 ^ 32 ||
    (match ty with
     | 2 => pktField p 24 8 == 0
     | 3 => decide (1 < kind) || a % 8 != 0 || a / 2 ^ 57 != 0
     | 4 => match kind with
       | 0 => a / 2 ^ 10 != 0 || !s.queues.any fun q => q.num == a && q.ctx == c
       | 1 => a / 2 ^ 4 != 0
       | 2 => a % 8 != 0 || a / 2 ^ 57 != 0
       | _ => a != 0
     | _ => false)

/-- Range `k` of a range record: base, length, access (R303). -/
def rangeOf (r k : Nat) : Nat × Nat × Nat :=
  (pktField r (16 * k) 8, pktField r (16 * k + 8) 6, pktField r (16 * k + 8) 8 / 2 ^ 62)

/-- A range is malformed (R303, R312). -/
def rangeBad (r k : Nat) : Bool :=
  let x := rangeOf r k
  x.2.2 == 0 || pktField r (16 * k + 14) 2 % 2 ^ 14 != 0 || x.2.1 == 0 || decide (2 ^ 57 < x.1 + x.2.1)

/-- The error cause of a head packet with its range record, or 0 (R312, R313). -/
def State.packetCause (s : State) (q : Queue) (p r : Nat) : Nat :=
  let h := pktField p 0 4
  let ty := h / 2 ^ 26
  let n := h / 2 ^ 20 % 16
  if 6 < ty then 1
  else if h % 2 ^ 19 != 0 || 4 < n || (n != 0 && q.rngs = 0) || (List.range n).any (rangeBad r) || s.bodyBad q.ctx ty p then 2
  else 0

/-- The header is accepted: valid, with the parity of its lap (R308). -/
def headerOk (q : Queue) (h : Nat) : Bool := h / 2 ^ 25 % 2 == 1 && h / 2 ^ 24 % 2 == q.rd / 2 ^ q.logn % 2

/-! ### Dispatch -/

/-- A read of the head packet or its range record waits or fails (R311, R313). -/
def State.headWait (s : State) (q : Queue) (va : Nat) (x : Xl) : State :=
  match s.cpPark q.ctx va .read x with
  | .ok (p, s) => s.modQueue q.num fun q => { q with parkedOn := some p }
  | .error _ => s.queueError q.num 5 q.rd

/-- Entering an accepted, well-formed packet (R309, R314): its ranges, the read index, and a packet that runs. -/
def State.enterPacket (s : State) (q : Queue) (p r : Nat) : State :=
  let h := pktField p 0 4
  let ty := h / 2 ^ 26
  let n := h / 2 ^ 20 % 16
  let (order, s) := s.freshUid
  let iv (k : Nat) : Interval :=
    let x := rangeOf r k
    { ctx := q.ctx, base := x.1, len := x.2.1, acc := x.2.2, q := q.num, index := q.rd, order }
  let pk : RPkt := { index := q.rd, ty, body := p, ord := h / 2 ^ 19 % 2 == 1 || ty == 3, started := false, parked := none, order }
  let s := ({ s with itable := s.itable ++ (List.range n).map iv }.modQueue q.num fun x =>
    let x := { x with rd := x.rd + 1, running := x.running ++ [pk], idleSince := none, idle10 := false, parkedOn := none,
                      used := order, waitAt := if ty = 4 then some q.rd else x.waitAt }
    { x with st := if ty = 4 then 1 else x.rest }).tellQueue q.num
  if ty = 0 then s.packetDone q.num q.rd else s

/-- The queue may dispatch: cached, ACTIVE, with packets announced, no `WAIT` outstanding, its context running (R309). -/
def State.mayDispatch (s : State) (q : Queue) : Bool :=
  q.onChip && q.st == 1 && decide (q.rd < q.wr) && q.waitAt.isNone && mayGoOn s q.ctx q.parkedOn

/-- The address of a slot. -/
def slotOf (base logn index : Nat) : Nat := base + 64 * (index % 2 ^ logn)

/-- The command processor takes the head packet of a queue (R308, R309). A header that is not accepted is noted once, and
read again at a later step. -/
def tryPacketDispatch (n : Nat) (s : State) : Option State :=
  match s.queue? n with
  | none => none
  | some q =>
    if !s.mayDispatch q then none
    else if q.parkedOn == some .failed then some ((s.queueError n 5 q.rd).modQueue n fun q => { q with parkedOn := none })
    else
      let va := slotOf q.ring q.logn q.rd
      match s.cpRead q.ctx va 64 with
      | .fail e => some ((s.lostData e q.ctx va 64).queueError n 5 q.rd)
      | .wait x => some (s.headWait q va x)
      | .ok (p, s) =>
        let h := pktField p 0 4
        if !headerOk q h then
          if q.idleSince.isSome then none else some (s.modQueue n fun q => { q with idleSince := some s.pt })
        else
          let m := h / 2 ^ 20 % 16
          let finish (s : State) (r : Nat) : Option State :=
            let c := s.packetCause q p r
            if c != 0 then some (s.queueError n c q.rd)
            else if 512 < s.itable.length + m then none
            else some (s.enterPacket q p r)
          if m = 0 || 4 < m || q.rngs = 0 then finish s 0
          else
            let ra := slotOf q.rngs q.logn q.rd
            match s.cpRead q.ctx ra 64 with
            | .fail e => some ((s.lostData e q.ctx ra 64).queueError n 5 q.rd)
            | .wait x => some (s.headWait q ra x)
            | .ok (r, s) => finish s r
/-- The step of `tryPacketDispatch`. -/
def execPacketDispatch (n : Nat) (s : State) : Out := made s (tryPacketDispatch n s)

/-- A head header has not been accepted for 10 µs (R318). -/
def tryHeadHeaderTimeout (n : Nat) (s : State) : Option State :=
  match s.queue? n with
  | none => none
  | some q => match q.idleSince with
    | none => none
    | some t =>
      if q.idle10 || q.st != 1 || s.pt.toNat < t.toNat + 10000 then none
      else match s.cpRead q.ctx (slotOf q.ring q.logn q.rd) 64 with
        | .ok (p, _) => if headerOk q (pktField p 0 4) then none else some (s.modQueue n fun q => { q with idle10 := true })
        | _ => none
/-- The step of `tryHeadHeaderTimeout`. -/
def execHeadHeaderTimeout (n : Nat) (s : State) : Out := made s (tryHeadHeaderTimeout n s)

/-! ### The run of a packet -/

/-- A dispatched packet of a type that has not started, of a running context. -/
def State.waitingPacket (s : State) (n index ty : Nat) : Option (Queue × RPkt) :=
  match s.queue? n, s.packet? n index with
  | some q, some p => if p.ty = ty && !p.started && mayGoOn s q.ctx p.parked then some (q, p) else none
  | _, _ => none

/-- A packet has started. -/
def State.startPacket (s : State) (n index : Nat) : State := s.modPacket n index fun p => { p with started := true, parked := none }

/-- The die that homes most bytes of a packet's ranges (R264): a free value, for the spec does not give the map from
addresses to dies; none for a tie or for no ranges (log 15). -/
def State.dieChoice (s : State) (n index : Nat) : Option Nat × State :=
  if s.itable.any fun e => e.q == n && e.index == index then
    let r := s.freeDWord
    (match r.1.toNat % 3 with | 0 => some 0 | 1 => some 1 | _ => none, r.2)
  else (none, s)

/-- R306: a `LAUNCH` packet creates a kernel in PENDING. -/
def tryPacketLaunch (n index : Nat) (s : State) : Option State :=
  match s.waitingPacket n index 1 with
  | none => none
  | some (q, p) =>
    let (pref, s) := s.dieChoice n index
    let (u, s) := s.freshUid
    some ({ s with kernels := s.kernels ++ [{ launchKernel p.body u q.ctx n index with pref }] }.startPacket n index)
/-- The step of `tryPacketLaunch`. -/
def execPacketLaunch (n index : Nat) (s : State) : Out := made s (tryPacketLaunch n index s)

/-- R306: a `COPY` packet starts a copy. -/
def tryPacketCopy (n index : Nat) (s : State) : Option State :=
  match s.waitingPacket n index 2 with
  | none => none
  | some (q, p) =>
    if s.heldPacket q p then none
    else
      let (id, s) := s.freshUid
      let c : PktCopy := { id, ctx := q.ctx, q := n, index, src := pktField p.body 8 8, dst := pktField p.body 16 8,
                           len := pktField p.body 24 8, prog := 0, failed := false, parked := none }
      some ({ s with pktCopies := s.pktCopies ++ [c] }.startPacket n index)
/-- The step of `tryPacketCopy`. -/
def execPacketCopy (n index : Nat) (s : State) : Out := made s (tryPacketCopy n index s)

/-- Changing a `COPY` packet's copy. -/
def State.modPktCopy (s : State) (id : Nat) (f : PktCopy → PktCopy) : State :=
  { s with pktCopies := s.pktCopies.map fun c => if c.id = id then f c else c }

/-- One byte of a `COPY` packet (R306, R223); none when it cannot go on. -/
def packetCopyStep (s : State) (c : PktCopy) : Option State :=
  let fail (s : State) : State := s.modPktCopy c.id fun c => { c with failed := true, parked := none }
  let park (s : State) (va : Nat) (k : AccKind) (x : Xl) : State := match s.cpPark c.ctx va k x with
    | .ok (p, s) => s.modPktCopy c.id fun c => { c with parked := some p }
    | .error _ => fail s
  if c.failed || decide (c.len ≤ c.prog) || !mayGoOn s c.ctx c.parked then none
  else if c.parked == some .failed then some (fail s)
  else match s.cpRead c.ctx (c.src + c.prog) 1 with
    | .fail e => some (fail (s.lostData e c.ctx (c.src + c.prog) 1))
    | .wait x => some (park s (c.src + c.prog) .read x)
    | .ok (b, s) => match s.cpWrite c.id c.ctx (c.dst + c.prog) b 1 with
      | .fail _ => some (fail s)
      | .wait x => some (park s (c.dst + c.prog) .write x)
      | .ok s => some (s.modPktCopy c.id fun c => { c with prog := c.prog + 1, parked := none })

/-- R306: every byte is performed, or the copy failed. -/
def tryCopyPacketComplete (id : Nat) (s : State) : Option State :=
  match s.pktCopies.find? fun c => c.id == id with
  | none => none
  | some c =>
    if !c.failed && c.prog < c.len then none
    else
      let s := { s with pktCopies := s.pktCopies.filter fun x => x.id != id }
      some (if c.failed then s.packetFail c.q c.index 6 else s.packetDone c.q c.index)
/-- The step of `tryCopyPacketComplete`. -/
def execCopyPacketComplete (id : Nat) (s : State) : Out := made s (tryCopyPacketComplete id s)

/-- A packet's access waits for service, or fails with a cause (R311, R313). -/
def State.packetWait (s : State) (q : Queue) (index va : Nat) (k : AccKind) (cause : Nat) (x : Xl) : State :=
  match s.cpPark q.ctx va k x with
  | .ok (p, s) => s.modPacket q.num index fun pk => { pk with parked := some p }
  | .error _ => s.packetFail q.num index cause

/-- R306: a `SIGNAL` writes or adds, and may raise the context's interrupt. -/
def tryPacketSignal (n index : Nat) (s : State) : Option State :=
  match s.waitingPacket n index 3 with
  | none => none
  | some (q, p) =>
    if s.heldPacket q p then none
    else if p.parked == some .failed then some (s.packetFail n index 6)
    else
      let w := pktField p.body 4 4
      let va := pktField p.body 8 8
      let v := pktField p.body 16 8
      let add := w % 4 == 1
      let r := if add then s.cpRmw p.order q.ctx va 8 fun old => (old + v) % 2 ^ 64 else s.cpWrite p.order q.ctx va v 8
      match r with
      | .fail e => some ((s.lostData e q.ctx va 8).packetFail n index 6)
      | .wait x => some (s.packetWait q index va (if add then .rmw else .write) 6 x)
      | .ok s => some ((if w / 4 % 2 = 1 then s.raiseMsixOf q.ctx else s).packetDone n index)
/-- The step of `tryPacketSignal`. -/
def execPacketSignal (n index : Nat) (s : State) : Out := made s (tryPacketSignal n index s)

/-- The condition of a `WAIT` (R309): it holds, it does not, or its word cannot be read now. -/
inductive WaitRes where
  | holds (s : State)
  | not (s : State)
  | wait (va : Nat) (x : Xl)
  | fail (s : State)

/-- The condition of a `WAIT` packet (R309). -/
def State.waitCond (s : State) (q : Queue) (p : Nat) : WaitRes :=
  let obj := pktField p 8 8
  let n := pktField p 16 8
  let of (b : Bool) : WaitRes := if b then .holds s else .not s
  match pktField p 4 4 % 4 with
  | 0 => of (match s.queue? obj with | some x => decide (n ≤ x.done) | none => false)
  | 1 => of (match s.links[obj]? with | some l => decide (n ≤ l.done) | none => false)
  | 2 => match s.cpRead q.ctx obj 8 with
    | .ok (x, s) => if n ≤ x then .holds s else .not s
    | .wait x => .wait obj x
    | .fail e => .fail (s.lostData e q.ctx obj 8)
  | _ => of (s.reached (BitVec.ofNat 64 n))

/-- R309: a dispatched `WAIT` holds its queue unless its condition holds at once. -/
def tryPacketWait (n index : Nat) (s : State) : Option State :=
  match s.waitingPacket n index 4 with
  | none => none
  | some (q, p) =>
    let hold (s : State) : State :=
      ((s.startPacket n index).modQueue n fun q => { q with st := if q.st = 1 then 2 else q.st }).tellQueue n
    if s.heldPacket q p then some (hold s)
    else match s.waitCond q p.body with
      | .holds s => some (s.packetDone n index)
      | .not s => some (hold s)
      | .wait va x => some ((hold s).packetWait q index va .read 5 x)
      | .fail s => some (s.packetFail n index 5)
/-- The step of `tryPacketWait`. -/
def execPacketWait (n index : Nat) (s : State) : Out := made s (tryPacketWait n index s)

/-- R309: the condition of a queue's outstanding `WAIT` holds, and the packet completes. -/
def tryWaitConditionMet (n : Nat) (s : State) : Option State :=
  match s.queue? n with
  | none => none
  | some q => match q.waitAt.bind fun k => s.packet? n k with
    | none => none
    | some p =>
      if !p.started || !q.onChip || !mayGoOn s q.ctx p.parked || s.heldPacket q p then none
      else if p.parked == some .failed then some (s.packetFail n p.index 5)
      else match s.waitCond q p.body with
        | .holds s => some (s.packetDone n p.index)
        | .not _ => none
        | .wait va x => some (s.packetWait q p.index va .read 5 x)
        | .fail s => some (s.packetFail n p.index 5)
/-- The step of `tryWaitConditionMet`. -/
def execWaitConditionMet (n : Nat) (s : State) : Out := made s (tryWaitConditionMet n s)

/-! ### Cached and parked queues -/

/-- The words of a queue's descriptor (R302). -/
def Queue.descriptor (q : Queue) : Nat :=
  let f (off v n : Nat) : Nat := v % 2 ^ (8 * n) * 2 ^ (8 * off)
  f 0 q.ring 8 + f 8 q.rngs 8 + f 16 q.rd 8 + f 24 q.wr 8 + f 32 q.done 8 + f 40 (q.ecause * 2 ^ 24 + q.eslot % 2 ^ 16) 4 +
  f 44 (q.ctx * 2 ^ 8 + q.logn * 2 ^ 3 + q.st) 4 + f 48 q.mean 4 + f 52 q.tag 4 + f 56 (q.tag / 2 ^ 32 % 2 ^ 23) 4

/-- Writing a queue's descriptor back. -/
def State.writeQueue (s : State) (q : Queue) : State := s.poke q.desc 64 q.descriptor

/-- Cached queues (R318). -/
def State.cached (s : State) : List Queue := s.queues.filter (·.onChip)

/-- A cached queue may be evicted (R318): it is not ACTIVE, or it is not dispatching, for its head header has not been accepted for
10 µs or its head packet waits for interval-table entries. -/
def State.evictable (s : State) (q : Queue) : Bool :=
  q.onChip && (q.st != 1 || (q.parkedOn.isNone && q.waitAt.isNone && (q.idle10 || (match decide (q.rd < q.wr), s.cpRead q.ctx
        (slotOf q.ring q.logn q.rd) 64 with
     | true, .ok (p, _) =>
       headerOk q (pktField p 0 4) && decide (512 < s.itable.length + pktField p 0 4 / 2 ^ 20 % 16)
     | _, _ => false))))

/-- R318: with 64 queues cached, firmware evicts the least recently used one that it may, and writes it back. -/
def tryQueueEvict (n : Nat) (s : State) : Option State :=
  match s.queue? n with
  | none => none
  | some q =>
    if !s.evictable q || s.cached.length < 64 || s.cached.any (fun x => s.evictable x && decide (x.used < q.used)) then none
    else some ((s.writeQueue q).modQueue n fun q => { q with onChip := false, parkedOn := none })
/-- The step of `tryQueueEvict`. -/
def execQueueEvict (n : Nat) (s : State) : Out := made s (tryQueueEvict n s)

/-- R318: a parked queue is cached again, and what was held for it is applied in order of arrival. -/
def tryQueueReload (n : Nat) (s : State) : Option State :=
  match s.queue? n with
  | none => none
  | some q =>
    if q.onChip || 64 ≤ s.cached.length then none
    else
      let mine := s.heldFor n
      let bells := (s.bellMap.filter fun x => x.1 == n).map (·.2)
      let items := match bells with
        | [] => mine
        | (index, after) :: _ => mine.take after ++ commandWord 0 index :: mine.drop after
      let (used, s) := s.freshUid
      let s := { s with parkBuf := s.parkBuf.filter (fun x => x.1 != n), bellMap := s.bellMap.filter fun x => x.1 != n }
      let s := s.modQueue n fun q => { q with onChip := true, idleSince := none, idle10 := false, used }
      some (items.foldl (fun s c => s.queueCommand n c) s)
/-- The step of `tryQueueReload`. -/
def execQueueReload (n : Nat) (s : State) : Out := made s (tryQueueReload n s)

/-- A descriptor is malformed (R302, R439). -/
def descriptorBad (d : Nat) : Bool :=
  let f (off n : Nat) : Nat := pktField d off n
  f 0 8 % 4096 != 0 || f 0 8 / 2 ^ 57 != 0 || f 8 8 % 4096 != 0 || f 8 8 / 2 ^ 57 != 0 || f 16 8 / 2 ^ 61 != 0 ||
  f 24 8 / 2 ^ 61 != 0 || f 32 8 / 2 ^ 61 != 0 || f 42 1 != 0 || f 44 4 / 2 ^ 14 != 0 ||
  decide (f 44 4 / 2 ^ 3 % 2 ^ 5 < 4) || decide (16 < f 44 4 / 2 ^ 3 % 2 ^ 5) || decide (4 < f 44 4 % 2 ^ 3) ||
  f 56 4 / 2 ^ 23 != 0 || f 60 4 != 0

/-- A queue as its descriptor gives it (R302): no packet of it runs and no `WAIT` is outstanding, whatever `STATE` and `DONE` say
(log 103). -/
def queueOf (n desc d : Nat) (onChip : Bool) (used : Nat) : Queue :=
  let f (off n : Nat) : Nat := pktField d off n
  { num := n, ctx := f 44 4 / 2 ^ 8 % 2 ^ 6, desc, ring := f 0 8, rngs := f 8 8, rd := f 16 8, wr := f 24 8, done := f 32 8,
    doneSet := [], ecause := f 43 1, eslot := f 40 2, logn := f 44 4 / 2 ^ 3 % 2 ^ 5, st := f 44 4 % 2 ^ 3, mean := f 48 4,
    tag := f 52 4 + f 56 4 % 2 ^ 23 * 2 ^ 32, onChip, idleSince := none, idle10 := false, waitAt := none, running := [], used,
    parkedOn := none }

/-- Unbinding a queue (R302, R439): its state is written back. Its packets that have been dispatched and not completed are
dropped (log 103). -/
def State.unbind (s : State) (n : Nat) : State :=
  match s.queue? n with
  | none => s
  | some q =>
    let s := s.writeQueue q
    { s with queues := s.queues.filter (fun x => x.num != n), parkBuf := s.parkBuf.filter (fun x => x.1 != n),
             bellMap := s.bellMap.filter fun x => x.1 != n }

/-- R439: a write of `qbind` with [31] clear binds queue [9:0] from the descriptor at `qdesc`; one that cannot be bound stays
unbound. Its reserved bits are ignored (R6). Where the queue is bound already, or 64 are cached, log 103 says what happens. -/
def execQueueBind (v : DWord) (s : State) : Out :=
  let n := v.toNat % 2 ^ 10
  let a := s.mgmt.qdesc
  let s0 := s
  if v.getLsbD 31 then .next s0
  else if !inDevice a 64 || s.badAt a 64 then .next s0
  else
    let s := s.unbind n
    let d := readLe s.mem a 64
    let (used, s) := s.freshUid
    let q := queueOf n a d (decide (s.cached.length < 64)) used
    if descriptorBad d || (s.ctx q.ctx).st == .empty then .next s0
    else .next ({ s with queues := s.queues ++ [q] }.tellQueue n)

/-- R439: a write of `qbind` with [31] set unbinds queue [9:0]; its reserved bits are ignored (R6). -/
def execQueueUnbind (v : DWord) (s : State) : Out :=
  .next (if v.getLsbD 31 then s.unbind (v.toNat % 2 ^ 10) else s)

/-! ### Instructions -/

/-- The queue that an instruction names, where it is bound to the issuing context (R319). -/
def Issue.queueOf? (i : Issue) (s : State) (n : Nat) : Option Queue :=
  match s.queue? (n % 2 ^ 10) with
  | some q => if q.ctx = i.w.ctx then some q else none
  | none => none

/-- R320. -/
def execQpost (e : Enc) (s : State) : Out := runOnce .qpost e s fun i s =>
  let cmd := i.sp.spair i.e.b.toNat
  match i.queueOf? s (i.sA false) with
  | none => .trap (i.plainTrap .space) s
  | some q =>
    if !commandOk cmd then
      .trap (i.plainTrap .format) s
    else i.released s (match s.sendCommand q cmd with
      | some t => .done t
      | none => .block (.roomPark q.num) s)

/-- R321. -/
def execQwait (e : Enc) (s : State) : Out := runOnce .qwait e s fun i s =>
  match i.queueOf? s (i.sB false) with
  | none => .trap (i.plainTrap .space) s
  | some q =>
    if i.e.opx.toNat = 0 then
      let a := i.sA false % 8
      if 4 < a then .trap (i.plainTrap .format) s
      else if q.st = a || i.sp.st = .blocked .over then .done s else .block (.queueState q.num a) s
    else
      let n := (i.sp.spair i.e.a.toNat).toNat
      if n ≤ q.done then .done s else .block (.queueDone q.num n) s

/-- R322. -/
def execQstat (e : Enc) (s : State) : Out := runOnce .qstat e s fun i s =>
  match i.queueOf? s (i.sB false) with
  | none => .trap (i.plainTrap .space) s
  | some q => match i.e.opx.toNat with
    | 0 => i.sca s false (q.st + if q.onChip then 0 else 8)
    | 1 => i.sca s true q.rd
    | 2 => i.sca s true q.wr
    | 3 => i.sca s true q.done
    | _ => i.sca s false (q.ecause * 2 ^ 24 + q.eslot % 2 ^ 16)

end Sys2Proof.Machine
end

