-- ==== Sys2Proof/Machine/Reservoirs.lean ====
section
/-! DEFINITION. Reservoirs: the counter hash (R93) and the reservoir instructions (R375-R383). -/

namespace Sys2Proof.Machine

/-- R93. -/
def hash32 (seed n : Word) : Word :=
  let x := seed ^^^ (n * 0x9E3779B9#32)
  let x := x ^^^ (x >>> 16)
  let x := x * 0x6A09E667#32
  let x := x ^^^ (x >>> 13)
  let x := x * 0xBB67AE85#32
  x ^^^ (x >>> 16)

/-- R93: a 24-bit draw. -/
def rsvDraw (seed n : Word) : Nat := (hash32 seed n).toNat / 2 ^ 8

/-- The flag `RSVW` of a rejected weight (R83, R380). -/
def rsvwIf (b : Bool) : Byte := if b then flRSVW else 0

/-- A reservoir of a thread (R375). -/
structure Rsv where
  wsum : Nat
  m    : Nat
  y    : Nat
  ph   : Nat

/-- The lowest register of a reservoir (R375). -/
def rsvBase (w : Wave) (q : Nat) : Nat := w.regs - 4 * (q + 1)

/-- Reading a reservoir of a thread. -/
def Wave.rsv (w : Wave) (q t : Nat) : Rsv :=
  let b := rsvBase w q
  { wsum := (w.vreg b t).toNat, m := (w.vreg (b + 1) t).toNat, y := (w.vreg (b + 2) t).toNat, ph := (w.vreg (b + 3) t).toNat }

/-- Writing four registers of a thread from a number. -/
def Wave.setV4 (w : Wave) (b t : Nat) (l : List Nat) : Wave :=
  (List.range 4).foldl (fun w k => w.setV (b + k) t (BitVec.ofNat 32 (l.getD k 0))) w

/-- Writing a reservoir of a thread. -/
def Wave.setRsv (w : Wave) (q t : Nat) (r : Rsv) : Wave := w.setV4 (rsvBase w q) t [r.wsum, r.m, r.y, r.ph]

/-- A reservoir's new value in each enabled thread, with flags. -/
def Issue.rsvOp (i : Issue) (s : State) (f : Nat → Rsv × Byte) : Res :=
  .done (s.modWave i.w.uid fun w => forEach (lanesOf i.en) (fun w t =>
    let r := f t
    let w := w.setRsv i.e.d.toNat t r.1
    if r.2 = 0 then w else w.raise t r.2) w)

/-- The exact acceptance test of R380: d × `wsum` is 0 for d = 0, whatever `wsum` holds (R93), and a comparison that involves NaN
is false. -/
def rsvAccept (d wsum w : Nat) : Bool :=
  let lhs : Val := if d = 0 then .fin false 0 0 else ((Val.fin false d 0).mul (decodeF fp32 wsum)).1
  !lhs.isNan && decide (cmpVal false lhs ((decodeF fp32 w).scale 24) < 0)

/-- Adding a candidate of weight `w`, worth `cnt` candidates, to a reservoir (R380, R381). -/
def Rsv.add (q : Rsv) (seed w cnt y ph : Nat) : Rsv × Byte :=
  let x := exactSum .ne [decodeF fp32 q.wsum, decodeF fp32 w]
  let sum := roundNe fp32 x.1
  let d := rsvDraw (BitVec.ofNat 32 seed) (BitVec.ofNat 32 q.m)
  let take := rsvAccept d sum.bits w
  ({ wsum := sum.bits, m := min (q.m + cnt) 0xFFFFFFFF, y := if take then y else q.y, ph := if take then ph else q.ph },
   sum.fl ||| (if x.2 then flNV else 0))

/-- A weight is NaN, infinite or negative; −0 is zero. -/
def rsvBadWeight (v : Val) : Bool := v.isNan || v.isInf || (v.neg? && !v.isZero)

/-- R379. -/
def execRsvi (e : Enc) (s : State) : Out := runInstr .rsvi e s fun i s => i.rsvOp s fun _ => (⟨0, 0, 0, 0⟩, 0)

/-- Operand C where it is present: 0 in the base form (R378). -/
def Issue.seedOf (i : Issue) (t : Nat) : Nat := if i.e.form = .base then 0 else i.c false t

/-- R380. -/
def execRsvu (e : Enc) (s : State) : Out := runInstr .rsvu e s fun i s => i.rsvOp s fun t =>
  let a := i.a true t
  let w := a % 2 ^ 32
  let bad := rsvBadWeight (decodeF fp32 w)
  let w := if bad || (decodeF fp32 w).isZero then 0 else w
  let r := (i.w.rsv i.e.d.toNat t).add (i.seedOf t) w 1 (i.b false t) (a / 2 ^ 32 % 2 ^ 32)
  (r.1, r.2 ||| rsvwIf bad)

/-- An exact product of magnitudes over another, with a sticky bit: (n × 2^e) / d. -/
def quotVal (neg : Bool) (n d : Nat) (e : Int) : Val :=
  if n = 0 then .fin neg 0 0 else ratio neg (n * 2 ^ (Nat.log2 d - Nat.log2 n)) d (e - ((Nat.log2 d - Nat.log2 n : Nat) : Int))

/-- The magnitude and exponent of a finite value. -/
def Val.parts : Val → Nat × Int
  | .fin _ m e => (m, e)
  | _ => (0, 0)

/-- The weight of a merge (R381), with its flags and whether it was rejected. -/
def rsvmWeight (phd : Nat) (q : Rsv) (mc : Nat) : Nat × Byte :=
  let p := decodeF fp32 phd
  let ph := decodeF fp32 q.ph
  let ws := decodeF fp32 q.wsum
  if rsvBadWeight p || rsvBadWeight ph || rsvBadWeight ws then (0, flRSVW)
  else if mc = 0 || ws.isZero || ph.isZero || p.isZero then (0, 0)
  else
    let n := p.parts.1 * ws.parts.1 * mc
    let d := q.m * ph.parts.1
    let r := roundNe fp32 (quotVal false n d (p.parts.2 + ws.parts.2 - ph.parts.2))
    if r.bits = fp32.infCode then (0, r.fl ||| flRSVW) else (r.bits, r.fl)

/-- R381. -/
def execRsvm (e : Enc) (s : State) : Out := runInstr .rsvm e s fun i s => i.rsvOp s fun t =>
  let q := i.w.rsv i.e.a.toNat t
  let phd := if i.e.bk = .imm then immFlt i.e 0 else i.b false t
  let c := if i.e.form = .base then 0xFFFFFFFF * 2 ^ 32 else i.c true t
  let mc := min q.m (c / 2 ^ 32 % 2 ^ 32)
  let w := rsvmWeight phd q mc
  let r := (i.w.rsv i.e.d.toNat t).add (c % 2 ^ 32) w.1 mc q.y phd
  (r.1, r.2 ||| w.2)

/-- The contribution weight of R382. -/
def rsvWeight (q : Rsv) : FRes :=
  let ws := decodeF fp32 q.wsum
  let ph := decodeF fp32 q.ph
  if ws.isZero || ph.isZero || q.m = 0 then ⟨0, 0⟩
  else match ws, ph with
    | .nan, _ | _, .nan => ⟨fp32.nanCode, 0⟩
    | .inf _, .inf _ => ⟨fp32.nanCode, flNV⟩
    | .inf n, .fin k _ _ => roundNe fp32 (.inf (n != k))
    | .fin n _ _, .inf k => roundNe fp32 (.fin (n != k) 0 0)
    | .fin n a e, .fin k b f => roundNe fp32 (quotVal (n != k) a (q.m * b) (e - f))

/-- R382. -/
def execRsvf (e : Enc) (s : State) : Out := runInstr .rsvf e s fun i s =>
  i.vec s false fun t => rsvWeight (i.w.rsv i.e.a.toNat t)

/-- R383. -/
def execRsvget (e : Enc) (s : State) : Out := runInstr .rsvget e s fun i s =>
  .done (s.modWave i.w.uid fun w => w.multiResult i.e i.en fun t =>
    let q := i.w.rsv i.e.a.toNat t
    ([q.wsum, q.m, q.y, q.ph], 0))

/-- R383. -/
def execRsvset (e : Enc) (s : State) : Out := runInstr .rsvset e s fun i s => i.rsvOp s fun t =>
  let x (k : Nat) : Nat := (i.w.vreg (i.e.a.toNat + k) t).toNat
  (⟨x 0, x 1, x 2, x 3⟩, 0)

end Sys2Proof.Machine
end

