-- ==== Sys2Proof/Machine/Frames.lean ====
section
/-! DEFINITION. Flows and frames: configurations (R397, R442), frame descriptors and stored lines (R399, R400), the frame engine
(R401-R403, R410), and the `FRAME` packets (R404, R405). -/

namespace Sys2Proof.Machine

/-! ### Fields -/

/-- Bits of a record held as a number: `w` bits from bit `lo` of byte `byte`. -/
def fld (x byte lo w : Nat) : Nat := x / 2 ^ (8 * byte + lo) % 2 ^ w

/-- Replacing `n` bytes of a record from byte `byte`. -/
def setFld (x byte n v : Nat) : Nat :=
  x - x / 2 ^ (8 * byte) % 2 ^ (8 * n) * 2 ^ (8 * byte) + v % 2 ^ (8 * n) * 2 ^ (8 * byte)

/-- Fields of a frame descriptor (R399), from its first 64 bytes. -/
def fdPt (d : Nat) : Nat := fld d 0 0 64
def fdDl (d : Nat) : Nat := fld d 8 0 64
def fdBuf (d : Nat) : Nat := fld d 16 0 64
def fdPrev (d : Nat) : Nat := fld d 24 0 64
def fdFlow (d : Nat) : Nat := fld d 32 11 8
def fdLgrp (d : Nat) : Nat := fld d 32 9 2
def fdPol (d : Nat) : Nat := fld d 32 7 2
def fdState (d : Nat) : Nat := fld d 32 0 3
def fdHeight (d : Nat) : Nat := fld d 36 16 16
def fdWidth (d : Nat) : Nat := fld d 36 0 16
def fdStride (d : Nat) : Nat := fld d 40 0 32
def fdFmt (d : Nat) : Nat := fld d 44 0 32
def fdPack (d : Nat) : Bool := fld d 44 11 1 == 1
def fdDepth (d : Nat) : Nat := match fld d 44 6 2 with | 0 => 8 | 1 => 10 | 2 => 12 | _ => 16
def fdSamp (d : Nat) : Nat := fld d 44 0 4
def fdConst (d k : Nat) : Nat := fld d (48 + 2 * k) 0 16

/-- Flows 128 to 255 transmit (R397). -/
def isTx (flow : Nat) : Bool := decide (128 ≤ flow)

/-- The video samplings. -/
def isVideo (samp : Nat) : Bool := decide (samp ≤ 4)

/-! ### Formats -/

/-- A format word is listed in R397, with its size: reserved bits and codes zero. -/
def formatOk (fmt h w : Nat) : Bool :=
  let samp := fmt % 16
  let depth := fmt / 2 ^ 6 % 4
  fmt / 2 ^ 16 == 0 && fmt / 2 ^ 8 % 8 == 0 && fmt / 2 ^ 4 % 4 == 0 && decide (fmt / 2 ^ 12 % 16 < 8) &&
  (if isVideo samp then decide (1 ≤ w) && decide (w ≤ 8192) && decide (1 ≤ h) && decide (h ≤ 8192)
   else if samp = 8 then decide (depth ≤ 1) && decide (1 ≤ w) && decide (w ≤ 64) && decide (1 ≤ h)
   else samp == 9 && w == 0 && decide (1 ≤ h))

/-- Pixels and samples of a pgroup of a sampling at a depth (ST 2110-20). -/
def pgroup (samp depth : Nat) : Nat × Nat :=
  match samp with
  | 0 => (2, 4)
  | 2 => if depth = 10 then (4, 12) else (2, 6)
  | 4 => match depth with | 8 => (1, 1) | 10 => (4, 4) | 12 => (2, 2) | _ => (1, 1)
  | _ => match depth with | 8 => (1, 3) | 10 => (4, 12) | 12 => (2, 6) | _ => (1, 3)

/-- Samples of a stored video line, to whole pgroups. -/
def lineSamples (d : Nat) : Nat :=
  let g := pgroup (fdSamp d) (fdDepth d)
  (fdWidth d + g.1 - 1) / g.1 * g.2

/-- Bytes of a line as the wire carries it: pgroups, or one sample instant of every channel. -/
def wireLine (d : Nat) : Nat :=
  if fdSamp d = 8 then fdWidth d * (if fdDepth d = 8 then 2 else 3) else lineSamples d * fdDepth d / 8

/-- Bytes of a stored line (R399): of an ancillary packet, at least its length. -/
def storedLine (d : Nat) : Nat :=
  if fdSamp d = 9 then 4 else if isVideo (fdSamp d) && fdPack d then 2 * lineSamples d else wireLine d

/-- Stored lines of a frame: one for two picture lines in 4:2:0 (R400). -/
def storedLines (d : Nat) : Nat := if fdSamp d = 2 then fdHeight d / 2 else fdHeight d

/-- A descriptor is malformed (R400), from its bytes 0 to 63. -/
def frameBad (d : Nat) : Bool :=
  fld d 32 19 13 != 0 || fld d 32 3 4 != 0 || decide (2 ≤ fdPol d) || decide (6 ≤ fdState d) ||
  !formatOk (fdFmt d) (fdHeight d) (fdWidth d) || decide (1024 * 2 ^ fdLgrp d < fdHeight d) ||
  (fdSamp d == 2 && fdHeight d % 2 == 1) || fdStride d % 64 != 0 || decide (fdStride d < storedLine d) ||
  fdBuf d % 64 != 0 || fdBuf d / 2 ^ 57 != 0 || fdPrev d % 64 != 0 || fdPrev d / 2 ^ 57 != 0 ||
  (fdPol d != 0 && fdPrev d != 0) || (isTx (fdFlow d) && decide (fdPt d < fdDl d))

/-- Reserved bytes 88 to 127 of a descriptor read whole. -/
def frameTailBad (d : Nat) : Bool := fld d 88 0 320 != 0

/-! ### Flows -/

/-- A flow; one never written holds zero. -/
def State.flow (s : State) (n : Nat) : Flow :=
  (s.flows.find? fun f => f.num == n).getD
    { num := n, cfg := 0, cur := none, curTs := none, inbox := [], parked := none, parkVa := 0, last := none, seq := 0 }

/-- Changing a flow. -/
def State.modFlow (s : State) (n : Nat) (f : Flow → Flow) : State :=
  { s with flows := f (s.flow n) :: s.flows.filter fun x => x.num != n }

/-- Fields of a configuration entry (R442). -/
def Flow.en (f : Flow) : Bool := fld f.cfg 0 31 1 == 1
def Flow.twoPaths (f : Flow) : Bool := fld f.cfg 0 30 1 == 1
def Flow.portOf (f : Flow) (path : Nat) : Nat := if path = 0 then fld f.cfg 0 24 4 else fld f.cfg 0 20 4
def Flow.ctx (f : Flow) : Nat := fld f.cfg 0 14 6
def Flow.ssrc (f : Flow) : Word := BitVec.ofNat 32 (fld f.cfg 44 0 32)
def Flow.payt (f : Flow) : Nat := fld f.cfg 28 0 7
def Flow.ttl (f : Flow) : Nat := fld f.cfg 48 0 8
def Flow.dscp (f : Flow) : Nat := fld f.cfg 48 8 6
/-- The addresses and UDP ports of a path. -/
def Flow.dst (f : Flow) (path : Nat) : Word := BitVec.ofNat 32 (fld f.cfg (if path = 0 then 16 else 32) 0 32)
def Flow.src (f : Flow) (path : Nat) : Word := BitVec.ofNat 32 (fld f.cfg (if path = 0 then 20 else 36) 0 32)
def Flow.dport (f : Flow) (path : Nat) : Nat := fld f.cfg (if path = 0 then 24 else 40) 16 16
def Flow.sport (f : Flow) (path : Nat) : Nat := fld f.cfg (if path = 0 then 24 else 40) 0 16

/-- The paths of a flow. -/
def Flow.paths (f : Flow) : List Nat := if f.twoPaths then [0, 1] else [0]

/-- A configuration can be taken (R442) with a number of ports: direction, ports that exist, format, and no reserved bit. -/
def flowOk (ports n c : Nat) : Bool :=
  let two := fld c 0 30 1 == 1
  let samp := fld c 4 0 4
  decide (fld c 0 24 4 < ports) && (!two || decide (fld c 0 20 4 < ports)) &&
  (if isTx n then fld c 0 28 2 != 3 else fld c 0 28 2 == 0) && (two || fld c 0 20 4 == 0) && fld c 0 0 14 == 0 &&
  formatOk (fld c 4 0 32) (fld c 8 16 16) (fld c 8 0 16) && fld c 12 2 30 == 0 &&
  (if samp = 8 then decide (fld c 12 0 2 ≤ 1) else fld c 12 0 2 == 0) && fld c 28 7 25 == 0 &&
  (two || fld c 32 0 96 == 0) && fld c 48 14 18 == 0 && fld c 52 0 96 == 0

/-- A descriptor mismatches its flow (R400): format, `PACK` ignored, or size. -/
def mismatch (f : Flow) (d : Nat) : Bool :=
  let noPack (x : Nat) : Nat := x - x / 2 ^ 11 % 2 * 2 ^ 11
  noPack (fdFmt d) != noPack (fld f.cfg 4 0 32) || fld d 36 0 32 != fld f.cfg 8 0 32

/-- A port that the present breakout has is up (R13). -/
def State.portUp (s : State) (p : Nat) : Bool :=
  decide (p < s.breakout) && (match s.ports[p]? with | some x => x.up | none => false)

/-! ### Frames -/

/-- A frame by its number, and the frame of a descriptor: not one whose descriptor has been armed again since. -/
def State.frame? (s : State) (id : Nat) : Option Frame := s.frames.find? fun f => f.id == id
def State.frameAt (s : State) (c va : Nat) : Option Frame := s.frames.find? fun f => f.ctx == c && f.va == va && !f.gone

/-- Changing a frame. -/
def State.modFrame (s : State) (id : Nat) (f : Frame → Frame) : State :=
  { s with frames := s.frames.map fun x => if x.id = id then f x else x }

/-- A state code is terminal for a direction (R401). -/
def terminal (tx : Bool) (st : Nat) : Bool := if tx then st == 4 || st == 5 else st == 2 || st == 3

/-- A place some bytes on. -/
def Place.plus (p : Place) (k : Nat) : Place :=
  match p with
  | .phys pa => .phys (pa + k)
  | .host pa => .host (pa + k)
  | p => p

/-- Bytes 56 to 255 of a descriptor (R399). -/
def Frame.tail (f : Frame) : Nat :=
  f.rtpts + f.lines * 2 ^ 32 + f.spt.toNat * 2 ^ 64 + f.lost * 2 ^ 128 + f.dup * 2 ^ 160 + f.refuse * 2 ^ 192 +
  f.latep * 2 ^ 224 + f.map * 2 ^ 576

/-- The port engine writes `STATE` and bytes 56 to 255 of a frame's descriptor (R399); where the page needs service, the
write waits for it. A frame whose descriptor has been armed again writes nothing more there. -/
def State.flushFrame (s : State) (id : Nat) : State :=
  match s.frame? id with
  | none => s
  | some f => if f.gone then s else match s.agentReach f.ctx (s.ctx f.ctx).ksup .write f.va 256 with
    | .fail _ => s.modFrame id fun f => { f with dirty := none }
    | .wait x => match parkFor s f.ctx f.va .write (engineAgent 2) x with
      | .ok (k, s) => s.modFrame id fun f => { f with dirty := some k }
      | .error _ => s.modFrame id fun f => { f with dirty := none }
    | .ok (p, t) =>
      let s := s.fill t
      let s := s.store id (p.plus 32) (fld f.d 32 0 32 / 8 * 8 + f.st) 4
      let s := s.store id (p.plus 56) f.tail 200
      s.modFrame id fun f => { f with dirty := none }

/-- Changing a frame and writing its descriptor. -/
def State.putFrame (s : State) (id : Nat) (f : Frame → Frame) : State := (s.modFrame id f).flushFrame id

/-- A saturating 32-bit counter. -/
def satAdd (x n : Nat) : Nat := min (x + n) (2 ^ 32 - 1)

/-! ### Receive -/

/-- The numbers from the first of a range, where it is known, to the highest received that never came (R403). -/
def lostSeqs (first : Option Nat) (l : List Nat) : Nat :=
  match l.eraseDups with
  | [] => 0
  | x :: r =>
    let low := r.foldl min x
    r.foldl max x + 1 - min (first.getD low) low - (x :: r).length

/-- A frame is detached from its flow (R403): the sequence numbers of its range that are missing count in `LOST`, with `more`
missing ones after the highest received. -/
def Frame.detach (f : Frame) (more : Nat) : Frame :=
  if f.detached then f else
  { f with detached := true, lost := if f.st = 1 then satAdd f.lost (lostSeqs f.first f.seqs + more) else f.lost }

/-- A receive frame's deadline has passed (R401): LATE, detached, its map frozen. -/
def Frame.late (f : Frame) (pt : DWord) : Frame :=
  if f.tx then { f with st := 3 } else { f.detach 0 with st := 3, spt := pt }

/-- A deadline has been reached. -/
def State.deadlinePassed (s : State) (f : Frame) : Bool := s.reached (BitVec.ofNat 64 (fdDl f.d))

/-- The frames of a flow whose deadline has been reached are LATE before its next packet is taken (R402). -/
def State.lateFrames (s : State) (n : Nat) : State :=
  (s.frames.filter fun f => f.flow == n && f.st == 1 && s.deadlinePassed f).foldl
    (fun s f => s.putFrame f.id fun f => f.late s.pt) s

/-- How many of the numbers missing between two timestamps of a flow are the earlier one's (R403): all, where the packet starts its
frame; none, where the earlier frame is COMPLETE; else a free value, for the earlier one may have lost its last packets and the later one
its first (log 54). -/
def State.splitLost (s : State) (cur : Option Frame) (starts : Bool) (gap : Nat) : Nat × State :=
  if gap = 0 || starts then (gap, s)
  else if (match cur with | some f => f.st == 2 | none => false) then (0, s)
  else
    let r := s.freeDWord
    (r.1.toNat % (gap + 1), r.2)

/-- The flow's packets attach to a frame (R403): a timestamp ahead of the present one detaches the frame and attaches the
oldest armed frame that is FILLING and has stored nothing. -/
def State.attach (s : State) (n : Nat) (p : RtpPacket) : State :=
  let s := s.lateFrames n
  let fl := s.flow n
  let ahead := match fl.curTs with
    | none => true
    | some t => t != p.ts && decide ((p.ts - t).toNat < 2 ^ 31)
  if !ahead then s
  else
    let gap := match fl.last with | some l => p.seq - (l + 1) | none => 0
    let (own, s) := s.splitLost (fl.cur.bind s.frame?) (p.line == 0 && p.offset == 0) gap
    let s := match fl.cur with
      | some id => s.putFrame id fun f => f.detach own
      | none => s
    let next := s.frames.find? fun f => f.flow == n && !f.tx && f.st == 1 && f.parts.isEmpty && !f.detached && !f.cut
    let first := fl.last.map fun _ => p.seq - (gap - own)
    let s := s.modFlow n fun f => { f with curTs := some p.ts, cur := next.map (·.id), last := some p.seq }
    match next with
    | some f => s.putFrame f.id fun f => { f with rtpts := p.ts.toNat, first }
    | none => s

/-- A piece of a packet's payload: its line, the range of wire bytes of the line, its address and its stored bytes. -/
structure Piece where
  line : Nat
  lo   : Nat
  hi   : Nat
  va   : Nat
  bytes : List Byte

/-- The bits of bytes, most significant first, as a number. -/
def beNat (l : List Byte) : Nat := l.foldl (fun x b => x * 256 + b.toNat) 0

/-- `n` bytes of a number, most significant first. -/
def beBytes (n x : Nat) : List Byte := (List.range n).map fun k => BitVec.ofNat 8 (x / 2 ^ (8 * (n - 1 - k)))

/-- `n` bytes of a number, least significant first. -/
def leBytes (n x : Nat) : List Byte := (List.range n).map fun k => BitVec.ofNat 8 (x / 2 ^ (8 * k))

/-- The samples of packed bytes, each in 16 bits (R399). -/
def unpackWire (depth : Nat) (l : List Byte) : List Byte :=
  let n := 8 * l.length / depth
  let x := beNat l
  (List.range n).flatMap fun k => leBytes 2 (x / 2 ^ (8 * l.length - depth * (k + 1)) % 2 ^ depth)

/-- The pieces of a packet (R403); none when it does not fit the frame. -/
def piecesOf (d : Nat) (p : RtpPacket) : Option (List Piece) :=
  let at_ (line : Nat) : Nat := fdBuf d + fdStride d * line
  if fdSamp d = 9 then
    if p.line < fdHeight d && 4 + p.bytes.length ≤ fdStride d then
      some [{ line := p.line, lo := 0, hi := 1, va := at_ p.line, bytes := leBytes 4 p.bytes.length ++ p.bytes }]
    else none
  else
    let wl := wireLine d
    let a := p.line * wl + p.offset
    let b := a + p.bytes.length
    if p.bytes.isEmpty || storedLines d * wl < b then none
    else
      some ((List.range ((b - 1) / wl - a / wl + 1)).map fun k =>
        let line := a / wl + k
        let lo := max a (line * wl)
        let hi := min b ((line + 1) * wl)
        let raw := (p.bytes.drop (lo - a)).take (hi - lo)
        if isVideo (fdSamp d) && fdPack d then
          { line, lo := lo - line * wl, hi := hi - line * wl, va := at_ line + 2 * ((lo - line * wl) * 8 / fdDepth d),
            bytes := unpackWire (fdDepth d) raw }
        else { line, lo := lo - line * wl, hi := hi - line * wl, va := at_ line + (lo - line * wl), bytes := raw })

/-- The first byte that the engine cannot store now, with why. -/
def State.pieceStop (s : State) (c : Nat) (l : List Piece) : Option (Nat × CpRes (Place × Tlb)) :=
  (l.flatMap fun p => (List.range p.bytes.length).map fun k => p.va + k).findSome? fun va =>
    match s.agentReach c (s.ctx c).ksup .write va 1 with
    | .ok _ => none
    | r => some (va, r)

/-- Storing the bytes of pieces. -/
def State.storePieces (s : State) (c src : Nat) (l : List Piece) : State :=
  l.foldl (fun s p => ((List.range p.bytes.length).zip p.bytes).foldl (fun s kb =>
    match s.agentReach c (s.ctx c).ksup .write (p.va + kb.1) 1 with
    | .ok (pl, t) => (s.fill t).store src pl kb.2.toNat 1
    | _ => s) s) s

/-- How far the stored parts of a line reach from its first byte. -/
def partsReach (l : List (Nat × Nat × Nat)) (line : Nat) : Nat :=
  let mine := l.filter fun p => p.1 == line
  mine.foldl (fun r _ => mine.foldl (fun r p => if p.2.1 ≤ r then max r p.2.2 else r) r) 0

/-- A stored line is complete. -/
def Frame.lineDone (f : Frame) (line : Nat) : Bool :=
  if fdSamp f.d = 9 then f.parts.any fun p => p.1 == line else decide (wireLine f.d ≤ partsReach f.parts line)

/-- The number of arrival bits (R399). -/
def mapBits (d : Nat) : Nat := (fdHeight d + 2 ^ fdLgrp d - 1) / 2 ^ fdLgrp d

/-- Every picture line that arrival bit `i` covers has been stored. -/
def Frame.bitDone (f : Frame) (i : Nat) : Bool :=
  (List.range (2 ^ fdLgrp f.d)).all fun k =>
    let y := i * 2 ^ fdLgrp f.d + k
    decide (fdHeight f.d ≤ y) || f.lineDone (if fdSamp f.d = 2 then y / 2 else y)

/-- A frame with pieces stored: its lines, its arrival bits, and COMPLETE with the last bit (R401, R403). -/
def Frame.storeParts (f : Frame) (l : List Piece) (pt : DWord) : Frame :=
  let lines := (l.map (·.line)).eraseDups
  let old := lines.filter f.lineDone
  let g := { f with parts := f.parts ++ l.map fun (p : Piece) => (p.line, p.lo, p.hi) }
  let fresh := (lines.filter g.lineDone).filter fun k => !old.contains k
  let bits := (fresh.flatMap fun k =>
    if fdSamp f.d = 2 then [2 * k / 2 ^ fdLgrp f.d, (2 * k + 1) / 2 ^ fdLgrp f.d] else [k / 2 ^ fdLgrp f.d]).eraseDups
  let map := bits.foldl (fun m i => if g.bitDone i then m ||| 2 ^ i else m) f.map
  let g := { g with lines := satAdd f.lines fresh.length, map }
  if map = 2 ^ mapBits f.d - 1 then { g with st := 2, spt := pt } else g

/-- Dropping the first waiting packet of a flow. -/
def State.popPacket (s : State) (n : Nat) : State :=
  s.modFlow n fun f => { f with inbox := f.inbox.drop 1, parked := none }

/-- The frame that has the first copy of a packet of two paths (R403), in whatever state it is. -/
def State.firstCopy (s : State) (n : Nat) (p : RtpPacket) : Option Frame :=
  if !(s.flow n).twoPaths then none
  else s.frames.find? fun f =>
    f.flow == n && !f.tx && !f.cut && !f.gone && f.rtpts == p.ts.toNat && f.seqs.contains p.seq

/-- Handling the first waiting packet of a flow (R403): it is attached, merged, stored, or dropped, or its store waits. -/
def State.headPacket (s : State) (n : Nat) (p : RtpPacket) : State :=
  let s := s.attach n p
  let s := s.modFlow n fun f =>
    { f with last := if f.curTs = some p.ts then some (max p.seq (f.last.getD p.seq)) else f.last }
  let fl := s.flow n
  match s.firstCopy n p, fl.cur.bind s.frame? with
  | some f, _ => (s.putFrame f.id fun f => { f with dup := satAdd f.dup 1 }).popPacket n
  | none, none => s.popPacket n
  | none, some f =>
    if f.st != 1 || f.detached || f.cut || fl.curTs != some p.ts then s.popPacket n
    else match piecesOf f.d p with
      | none => (s.modFrame f.id fun f => { f with seqs := p.seq :: f.seqs }).popPacket n
      | some l => match s.pieceStop f.ctx l with
        | none =>
          ((s.storePieces f.ctx f.id l).putFrame f.id fun f => { f.storeParts l s.pt with seqs := p.seq :: f.seqs }).popPacket n
        | some (va, .wait x) => match parkFor s f.ctx va .write (engineAgent 2) x with
          | .ok (k, s) => s.modFlow n fun f => { f with parked := some k, parkVa := va }
          | .error _ => s.popPacket n
        | some _ => s.popPacket n

/-- Handling a flow's waiting packets in order until one waits for service. -/
def State.drainInbox (s : State) (n : Nat) : Nat → State
  | 0 => s
  | fuel + 1 =>
    let f := s.flow n
    match f.inbox, f.parked with
    | p :: _, none => (s.headPacket n p).drainInbox n fuel
    | _, _ => s

/-- Handling every packet of a flow that does not wait. -/
def State.runFlow (s : State) (n : Nat) : State := s.drainInbox n (s.flow n).inbox.length

/-- A packet is one of a flow that receives (R442): its destination and ports are those of its path, and its source address and
source identifier are those of the configuration, where that names one. -/
def Flow.takes (f : Flow) (p : RtpPacket) : Bool :=
  f.en && f.paths.contains p.path && f.dst p.path == p.dst && (f.src p.path == 0 || f.src p.path == p.src) &&
  f.dport p.path == p.dport && f.sport p.path == p.sport && (f.ssrc == 0 || f.ssrc == p.ssrc) && p.payt == f.payt

/-- R403: a packet of a receive flow arrives on a path whose port is up. -/
def tryRtpPacketReceive (flow : Nat) (pkt : RtpPacket) (s : State) : Option State :=
  let f := s.flow flow
  if isTx flow || !f.takes pkt || !s.portUp (f.portOf pkt.path) then none
  else some ((s.modFlow flow fun f => { f with inbox := f.inbox ++ [pkt] }).runFlow flow)
/-- The step of `tryRtpPacketReceive`. -/
def execRtpPacketReceive (flow : Nat) (pkt : RtpPacket) (s : State) : Out := made s (tryRtpPacketReceive flow pkt s)

/-! ### Flow configuration -/

/-- Stopping a flow (R442): its frames keep their states, nothing more is stored or sent. -/
def State.stopFlow (s : State) (n : Nat) : State :=
  { s.modFlow n fun f => { f with cur := none, curTs := none, inbox := [], parked := none, last := none } with
    frames := s.frames.map fun f => if f.flow = n then { f with cut := true, txLine := none } else f }

/-- A receive flow that runs and has a multicast destination joins or leaves its group on each of its ports (R442). -/
def State.groupMsgs (s : State) (n : Nat) (join : Bool) : State :=
  let f := s.flow n
  if isTx n || !f.en then s
  else { s with out := s.out ++ (f.paths.filter fun k => (f.dst k).toNat / 2 ^ 28 == 14).map fun k =>
                  .igmp (f.portOf k) (f.dst k) (f.src k) join }

/-- A write of bytes 0 to 3 of a flow's configuration (R442): `EN` = 1 takes the configuration when it can be taken; anything
else stops the flow. -/
def State.writeFlowWord (s : State) (flow : Nat) (v : Word) : State :=
  let c := setFld (s.flow flow).cfg 0 4 v.toNat
  let s := s.groupMsgs flow false
  if v.getLsbD 31 && flowOk s.breakout flow c then (s.modFlow flow fun f => { f with cfg := c }).groupMsgs flow true
  else (s.stopFlow flow).modFlow flow fun f => { f with cfg := setFld f.cfg 0 4 (v.toNat % 2 ^ 31) }

/-- R442: a write of bytes 0 to 3 with `EN` = 1. -/
def tryFlowEnable (flow : Nat) (v : Word) (s : State) : Option State :=
  if !v.getLsbD 31 || 256 ≤ flow then none
  else some (if s.answers then s.writeFlowWord flow v else s)
/-- The step of `tryFlowEnable`. -/
def execFlowEnable (flow : Nat) (v : Word) (s : State) : Out := made s (tryFlowEnable flow v s)

/-- R442: a write of bytes 0 to 3 with `EN` = 0. -/
def tryFlowDisable (flow : Nat) (v : Word) (s : State) : Option State :=
  if v.getLsbD 31 || 256 ≤ flow then none
  else some (if s.answers then s.writeFlowWord flow v else s)
/-- The step of `tryFlowDisable`. -/
def execFlowDisable (flow : Nat) (v : Word) (s : State) : Out := made s (tryFlowDisable flow v s)

/-! ### Arming and presenting -/

/-- A frame as a descriptor describes it. -/
def frameOf (id c va d : Nat) : Frame :=
  { id, ctx := c, va, flow := fdFlow d, d := d % 2 ^ 448, tx := isTx (fdFlow d), st := 1, map := 0, lines := 0, rtpts := 0,
    spt := 0, lost := 0, dup := 0, refuse := 0, latep := 0, parts := [], seqs := [], first := none, detached := false,
    txLine := none, txSeq := 0, cut := false, gone := false, dirty := none }

/-- A rendezvous names the frame, which it may have to send again (R432). -/
def State.rdvNames (s : State) (id : Nat) : Bool :=
  s.rdvs.any fun r => r.last == some id || r.insts.any fun x => x.frame == some id

/-- The frame of a descriptor that is armed again: it is kept while the port still sends it or a rendezvous names it, and no longer
answers to the descriptor. -/
def State.leave (s : State) (f : Frame) : Option Frame :=
  if f.txLine.isSome || s.rdvNames f.id then some { f with gone := true, dirty := none } else none

/-- A frame is armed (R401): FILLING, or SUBSTITUTED when the deadline of a transmit frame has passed. -/
def State.arm (s : State) (c va d : Nat) : State :=
  let (id, s) := s.freshUid
  let f := frameOf id c va d
  let f := if f.tx then { f with map := fld d 128 0 1024 } else f
  let f := if f.tx && s.reached (BitVec.ofNat 64 (fdDl d)) then
      { f with st := 5, rtpts := fld d 56 0 32, lines := fld d 60 0 32, spt := BitVec.ofNat 64 (fld d 64 0 64),
               lost := fld d 72 0 32, dup := fld d 76 0 32, refuse := fld d 80 0 32, latep := satAdd (fld d 84 0 32) 1 }
    else f
  { s with frames := (s.frames.filterMap fun (x : Frame) => if x.ctx = c && x.va = va && !x.gone then s.leave x else some x) ++
                     [f] }.flushFrame id

/-- R404: an arm packet. -/
def tryFrameArm (q index : Nat) (s : State) : Option State :=
  match s.waitingPacket q index 5 with
  | none => none
  | some (qu, p) =>
    let va := pktField p.body 8 8
    if pktField p.body 4 4 % 2 != 0 || s.heldPacket qu p then none
    else if p.parked == some .failed then some (s.packetFail q index 5)
    else if va % 256 != 0 then some (s.packetFail q index 2)
    else match s.cpRead qu.ctx va 256 with
      | .fail e => some ((s.lostData e qu.ctx va 256).packetFail q index 5)
      | .wait x => some (s.packetWait qu index va .read 5 x)
      | .ok (d, s) =>
        let fl := s.flow (fdFlow d)
        if frameBad (d % 2 ^ 512) || frameTailBad d || !fl.en || fl.ctx != qu.ctx then some (s.packetFail q index 2)
        else
          let live := match s.frameAt qu.ctx va with
            | some f => if terminal f.tx f.st then none else some f.id
            | none => none
          match live with
          | some id => some ((s.putFrame id fun f => { f with refuse := satAdd f.refuse 1 }).packetDone q index)
          | none =>
            if fdState d == 0 || terminal (isTx (fdFlow d)) (fdState d) then some ((s.arm qu.ctx va d).packetDone q index)
            else match s.cpWrite p.order qu.ctx (va + 80) (satAdd (fld d 80 0 32) 1) 4 with
              | .fail _ => some (s.packetFail q index 5)
              | .wait x => some (s.packetWait qu index (va + 80) .write 5 x)
              | .ok s => some (s.packetDone q index)
/-- The step of `tryFrameArm`. -/
def execFrameArm (q index : Nat) (s : State) : Out := made s (tryFrameArm q index s)

/-- The PT of instant `n` of a rendezvous (R430), from its object. -/
def rdvTime (obj n : Nat) : DWord :=
  let t := fld obj 0 0 64 + n * fld obj 8 0 64
  if t < 2 ^ 64 then BitVec.ofNat 64 t else never

/-- A rendezvous has a late mark due for a frame (R432): PT has reached the guard of the instant that the frame names. -/
def State.markDue (s : State) (id : Nat) : Bool :=
  s.rdvs.any fun r => r.insts.any fun x =>
    x.frame == some id && x.st == .arrived &&
    s.reached (ptSub (rdvTime r.obj x.n) (BitVec.ofNat 64 (fld r.obj 16 0 32)))

/-- Presenting a frame at the frame engine (R410). -/
def State.present (s : State) (id : Nat) : State :=
  match s.frame? id with
  | none => s
  | some f =>
    if f.st = 1 && !s.deadlinePassed f && !s.markDue id then s.putFrame id fun f => { f with st := 2 }
    else s.putFrame id fun f => { f with st := if f.st = 1 then 3 else f.st, latep := satAdd f.latep 1 }

/-- R404: a present packet. -/
def tryFramePresent (q index : Nat) (s : State) : Option State :=
  match s.waitingPacket q index 5 with
  | none => none
  | some (qu, p) =>
    if pktField p.body 4 4 % 2 != 1 || s.heldPacket qu p then none
    else match s.frameAt qu.ctx (pktField p.body 8 8) with
      | some f => some ((if f.tx && (f.st == 1 || f.st == 3) then s.present f.id else s).packetDone q index)
      | none => some (s.packetDone q index)
/-- The step of `tryFramePresent`. -/
def execFramePresent (q index : Nat) (s : State) : Out := made s (tryFramePresent q index s)

/-! ### Deadlines, presentations and transmission -/

/-- R401: PT reaches a FILLING frame's deadline. -/
def tryFrameDeadline (id : Nat) (s : State) : Option State :=
  match s.frame? id with
  | none => none
  | some f => if f.st != 1 || !s.deadlinePassed f then none else some (s.putFrame id fun f => f.late s.pt)
/-- The step of `tryFrameDeadline`. -/
def execFrameDeadline (id : Nat) (s : State) : Out := made s (tryFrameDeadline id s)

/-- The RTP timestamp of a transmit frame (R403). -/
def rtpStamp (d : Nat) : Nat := fdPt d * (if fdSamp d = 8 then 48000 else 90000) / 10 ^ 9 % 2 ^ 32

/-- R401: PT reaches a transmit frame's PT; transmission begins unless the flow was stopped. -/
def tryFramePresentation (id : Nat) (s : State) : Option State :=
  match s.frame? id with
  | none => none
  | some f =>
    if !f.tx || !(f.st == 2 || f.st == 3) || !s.reached (BitVec.ofNat 64 (fdPt f.d)) then none
    else some (s.putFrame id fun f =>
      { f with st := if f.st = 2 then 4 else 5, spt := s.pt, rtpts := rtpStamp f.d, txSeq := 0,
               txLine := if f.cut then none else some 0 })
/-- The step of `tryFramePresentation`. -/
def execFramePresentation (id : Nat) (s : State) : Out := made s (tryFramePresentation id s)

/-- A byte of the buffer that the port reads; one that cannot be read is a free value, and its page gets a record. -/
def State.txByte (s : State) (c va : Nat) : Byte × State :=
  match s.agentReach c (s.ctx c).ksup .read va 1 with
  | .ok (p, t) => (BitVec.ofNat 8 (s.readPlace outside p 1), s.fill t)
  | .wait x =>
    let s := match parkFor s c va .read (engineAgent 2) x with | .ok (_, s) => s | .error _ => s
    let r := s.freeDWord
    (r.1.setWidth 8, r.2)
  | .fail e =>
    let r := (if e = .ecc then s.retireAt c va else s).freeDWord
    (r.1.setWidth 8, r.2)

/-- Bytes of the buffer from an address. -/
def State.txBytes (s : State) (c va : Nat) : Nat → List Byte × State
  | 0 => ([], s)
  | n + 1 =>
    let b := s.txByte c va
    let r := b.2.txBytes c (va + 1) n
    (b.1 :: r.1, r.2)

/-- Free bytes. -/
def State.freeBytes (s : State) : Nat → List Byte × State
  | 0 => ([], s)
  | n + 1 =>
    let x := s.freeDWord
    let r := x.2.freeBytes n
    (x.1.setWidth 8 :: r.1, r.2)

/-- The component that sample `i` of a line carries, in pgroup order. -/
def sampleComp (samp i : Nat) : Nat :=
  match samp with
  | 0 => match i % 4 with | 0 => 1 | 2 => 2 | _ => 0
  | 1 => match i % 3 with | 0 => 1 | 1 => 0 | _ => 2
  | 2 => match i % 6 with | 4 => 1 | 5 => 2 | _ => 0
  | 3 => i % 3
  | _ => 0

/-- The code of a component's FP16 value at a depth (R408). -/
def pixelCode (depth x : Nat) : Nat :=
  let v := decodeF fp16 x
  if v.isNan || v.neg? then 0
  else
    let one := Val.fin false 1 0
    let v := if cmpVal false one v < 0 then one else v
    (floatToInt .ne false 32 (v.mul (.ofInt ((2 ^ depth - 1 : Nat) : Int))).1).bits

/-- A line of the constant picture as the wire carries it. -/
def constLine (d : Nat) : List Byte :=
  let b := fdDepth d
  beBytes (wireLine d) ((List.range (lineSamples d)).foldl (fun x i =>
    x * 2 ^ b + pixelCode b (fdConst d (sampleComp (fdSamp d) i))) 0)

/-- Samples of 16 bits packed as the wire carries them. -/
def packWire (d : Nat) (l : List Byte) : List Byte :=
  let b := fdDepth d
  beBytes (l.length / 2 * b / 8) ((List.range (l.length / 2)).foldl (fun x i =>
    x * 2 ^ b + ((l.getD (2 * i) 0).toNat + 256 * (l.getD (2 * i + 1) 0).toNat) % 2 ^ b) 0)

/-- Lines that the next packet carries: one, or the sample instants of a packet time (R397). -/
def packetLines (f : Flow) (d : Nat) : Nat := if fdSamp d = 8 then (if fld f.cfg 12 0 2 = 0 then 48 else 6) else 1

/-- The payload of the packet at a line (R403): of the buffer, the previous buffer, or the constant picture. -/
def State.txPayload (s : State) (f : Frame) (line n : Nat) : List Byte × State :=
  let d := f.d
  if f.st = 5 && fdPol d = 1 then
    if isVideo (fdSamp d) then (constLine d, s) else if fdSamp d = 8 then s.freeBytes (n * wireLine d) else ([], s)
  else
    let base := if f.st = 5 then fdPrev d else fdBuf d
    let at_ (k : Nat) : Nat := base + fdStride d * k
    if fdSamp d = 9 then
      let r := s.txBytes f.ctx (at_ line) 4
      r.2.txBytes f.ctx (at_ line + 4) (min (beNat r.1.reverse) (fdStride d - 4))
    else if isVideo (fdSamp d) then
      let r := s.txBytes f.ctx (at_ line) (storedLine d)
      (if fdPack d then packWire d r.1 else r.1, r.2)
    else (List.range n).foldl (fun acc k =>
      let r := acc.2.txBytes f.ctx (at_ (line + k)) (wireLine d)
      (acc.1 ++ r.1, r.2)) ([], s)

/-- R403: the port sends the next packet of a frame, on both paths under ST 2022-7. -/
def tryRtpPacketTransmit (id : Nat) (s : State) : Option State :=
  match s.frame? id with
  | none => none
  | some f => match f.txLine with
    | none => none
    | some line =>
      let fl := s.flow f.flow
      let n := min (packetLines fl f.d) (storedLines f.d - line)
      let r := s.txPayload f line n
      let pkt (path : Nat) : RtpPacket :=
        { path, src := fl.src path, dst := fl.dst path, sport := fl.sport path, dport := fl.dport path, ttl := fl.ttl,
          dscp := fl.dscp, ssrc := fl.ssrc, payt := fl.payt, seq := fl.seq, ts := BitVec.ofNat 32 f.rtpts, line, offset := 0,
          bytes := r.1 }
      let paths := fl.paths.filter fun k => s.portUp (fl.portOf k)
      let silent := f.st == 5 && fdPol f.d == 1 && fdSamp f.d == 9
      let s := r.2
      let s := if silent then s else { s with out := s.out ++ paths.map fun k => .rtp f.flow (pkt k) }
      let s := s.modFlow f.flow fun f => { f with seq := f.seq + 1 }
      let s := s.modFrame id fun f =>
        { f with txSeq := f.txSeq + 1, txLine := if line + n < storedLines f.d then some (line + n) else none }
      some { s with frames := s.frames.filter fun f => !(f.gone && f.txLine.isNone && !s.rdvNames f.id) }
/-- The step of `tryRtpPacketTransmit`. -/
def execRtpPacketTransmit (id : Nat) (s : State) : Out := made s (tryRtpPacketTransmit id s)

end Sys2Proof.Machine
end

