-- ==== Sys2Proof/Machine/MemInstr.lean ====
section
/-! DEFINITION. Loads, stores, atomics, scalar accesses, cache instructions and fences (R205-R220), with the steps in which loads
return, stores perform, and full/empty loads are served. -/

namespace Sys2Proof.Machine

/-! ### Addresses -/

/-- A 32-bit number sign-extended to 64 bits, as a number. -/
def sext32 (x : Nat) : Nat := wrapInt 64 (readInt true 32 (x % 2 ^ 32))

/-- The address of R206 for a thread: P is source A, Q a given source that may be absent. In `glb`, `TYPE` 0 adds the
sign-extended P to the 64-bit Q and `TYPE` 2 the sign-extended Q to the 64-bit P; elsewhere both are 32-bit. -/
def Issue.addr (i : Issue) (qk : Kind) (q : BitVec 8) (hasQ : Bool) (t : Nat) : Nat :=
  if i.e.space = 0 then
    if i.e.ty = 2 then
      let p := i.src i.e.ak i.e.a true (immSx i.e 64) t
      let off := if !hasQ then 0 else if qk = .imm then immSx i.e 64 else sext32 (i.src qk q false 0 t)
      (p + off) % 2 ^ 64
    else
      let base := if hasQ then i.src qk q true (immSx i.e 64) t else 0
      (base + sext32 (i.src i.e.ak i.e.a false (immSx i.e 32) t)) % 2 ^ 64
  else
    let off := if hasQ then i.src qk q false (immSx i.e 32) t else 0
    (i.src i.e.ak i.e.a false (immSx i.e 32) t + off) % 2 ^ 32

/-- The scalar pair that is a uniform base (R238): Q with `TYPE` 0, or P with `TYPE` 2. -/
def Issue.uniformBase (i : Issue) (qk : Kind) (q : BitVec 8) (hasQ : Bool) : Option Nat :=
  if i.e.space != 0 then none
  else if i.e.ty = 2 then (if i.e.ak = .sca then some i.e.a.toNat else none)
  else if hasQ && qk == .sca then some q.toNat else none

/-- The address of `ATOM`, `RED` and `STN4` (R206): A alone. -/
def Issue.addrA (i : Issue) (t : Nat) : Nat :=
  if i.e.space = 0 then i.src i.e.ak i.e.a true (immSx i.e 64) t else i.src i.e.ak i.e.a false (immSx i.e 32) t
def Issue.uniformA (i : Issue) : Option Nat :=
  if i.e.space = 0 && i.e.ak == .sca then some i.e.a.toNat else none

/-- An access of a thread before its address is resolved. -/
def accAt (t va size data data2 : Nat) : Acc := { thread := t, va, size, place := .phys 0, data, data2 }

/-- The data of a store of `n` bytes (R205, R210): the low bits of a register, a pair, four registers, a latch slot, or the
immediate sign-extended to the access size. The upper half of a 128-bit store from a latch is a given value, for a slot
holds 64 bits (log 14). -/
def Issue.storeData (i : Issue) (n t upper : Nat) : Nat :=
  match i.e.bk with
  | .imm => immSx i.e (8 * n)
  | .lat =>
    let x := i.src .lat i.e.b true 0 t
    if n = 16 then x + upper * 2 ^ 64 else x % 2 ^ (8 * n)
  | k =>
    if n ≤ 8 then i.src k i.e.b (n == 8) 0 t % 2 ^ (8 * n)
    else i.src k i.e.b true 0 t + 2 ^ 64 * i.src k (i.e.b + 2) true 0 t

/-! ### Effects -/

/-- The number of the instruction: a replay keeps that of its first issue, and with it its place in program order (R191). -/
def insNum (i : Issue) (s : State) : Nat × State :=
  match i.sp.replay with
  | some { mask := _, accs := _, pend := some k } => (k, s)
  | _ => s.freshUid

/-- The effect of a load: its register write is outstanding for the threads that reached memory and for those that park. A
replay adds its accesses to the write of its first issue; a trap drops the threads it leaves undone. -/
def loadEffect (i : Issue) (dst : Dst) (body : List Acc → PendBody) : MemEffect := fun s oks parked undone =>
  let go := accMask oks ||| parked
  let (seq, s) := insNum i s
  let begun := match i.sp.replay with | some { mask := _, accs := _, pend := some k } => i.w.pend.any fun p => p.seq == k | _ => false
  if begun then
    (s.modWave i.w.uid fun w => w.modPend seq fun p =>
      { p with mask := (p.mask ||| go) &&& ~~~undone, all := p.all ||| go, body := addAccs p.body oks }, some seq)
  else (addPend s i seq go dst .ld (body oks), some seq)
where
  /-- Adding accesses to an outstanding load. -/
  addAccs (b : PendBody) (l : List Acc) : PendBody :=
    match b with
    | .load o sc sz accs => .load o sc sz (accs ++ l)
    | b => b

/-- The effect of stores and of read-modify-writes without a result. -/
def storeEffect (i : Issue) (fn : MemFn) : MemEffect := fun s oks _ _ =>
  let (ins, s) := insNum i s
  (queueOps s i.w ins i.e.order i.e.scope fn none oks, some ins)

/-- The effect of an `ATOM`: its old values return to v[D]. -/
def atomEffect (i : Issue) (fn : MemFn) (size : Nat) : MemEffect := fun s oks parked undone =>
  let r := loadEffect i (.vec i.e.d.toNat (size / 4)) (fun _ => .atom i.e.order i.e.scope size []) s oks parked undone
  let seq := r.2.getD 0
  (queueOps r.1 i.w seq i.e.order i.e.scope fn (some seq) oks, r.2)

/-- An sc access takes its number, and the register write of one with a destination is outstanding from its issue, parked or
waiting (R172, R198). -/
def scPend (i : Issue) (work : ScWork) (parked undone : Word) (s : State) : State × Option Nat :=
  match work with
  | .load d sz accs => loadEffect i (.vec d (szRegs sz)) (fun _ => .later) s accs parked undone
  | .ops _ _ _ (some (d, n)) accs => loadEffect i (.vec d (n / 4)) (fun _ => .later) s accs parked undone
  | .fence | .ops _ _ _ none _ =>
    let r := insNum i s
    (r.2, some r.1)

/-- An sc access or fence (R198): it drains what it covers, then waits for its tick. -/
def scBlock (i : Issue) (threads : Word) (work : ScWork) (s : State) : Res :=
  match s.wave? i.w.uid with
  | none => .done s
  | some w =>
    let r := scPend i work 0 0 s
    let num := r.2.getD 0
    .block (.scDrain num ((s.drainSet w threads).filter (· < num)) (decide (4 ≤ i.e.scope)) i.len work) r.1

/-- Running an sc access: every thread must reach its place before any access is made; then the split drains with its
accesses. -/
def scRun (i : Issue) (s : State) (ask : MemAsk) (accs : List Acc) (work : List Acc → ScWork) : Res :=
  memWith i s ask accs fun s l =>
    let r := sortReach l
    if r.2.1.isEmpty && r.2.2.isEmpty then scBlock i i.en (work (r.1.map (·.1))) (s.fillAll r.1)
    else memFinish i ask true (fun s _ parked undone => scPend i (work []) parked undone s) .done s l

/-! ### Loads and stores -/

/-- What `LD` asks of memory, and its access per enabled thread. -/
def ldAsk (i : Issue) : MemAsk :=
  { kind := .read, use := .load, space := i.e.space, plain := i.e.opx == 0, win := i.uniformBase i.e.bk i.e.b true }
def ldAccs (i : Issue) : List Acc :=
  (lanesOf i.en).map fun t => accAt t (i.addr i.e.bk i.e.b true t) (szBytes i.e.sz) 0 0

/-- R208, R209. -/
def execLd (e : Enc) (s : State) : Out := runInstr .ld e s fun i s =>
  if i.en = 0 then .done s
  else if i.e.order = 4 then scRun i s (ldAsk i) (ldAccs i) fun l => .load i.e.d.toNat i.e.sz l
  else memRun i s (ldAsk i) (ldAccs i) false
    (loadEffect i (.vec i.e.d.toNat (szRegs i.e.sz)) fun l => .load i.e.order i.e.scope i.e.sz l) .done

/-- The address part C of a store is present. -/
def Issue.hasC (i : Issue) : Bool := !absent i.e.ck i.e.c

/-- What `ST` asks of memory, and the access of `ST` and `STFE` per enabled thread, with the free upper half of a 128-bit
latch operand (log 14). -/
def stAsk (i : Issue) : MemAsk :=
  { kind := .write, use := .store, space := i.e.space, plain := i.e.opx == 0, ordered := i.e.order != 0,
    win := i.uniformBase i.e.ck i.e.c i.hasC }
def stAccs (i : Issue) (upper : Nat) : List Acc :=
  (lanesOf i.en).map fun t =>
    accAt t (i.addr i.e.ck i.e.c i.hasC t) (szBytes i.e.sz) (i.storeData (szBytes i.e.sz) t upper) 0

/-- The state after a store has drawn its free value, if it needs one. -/
def stFree (i : Issue) (s : State) : State := if szBytes i.e.sz = 16 && i.e.bk == .lat then s.freeDWord.2 else s

/-- R208, R210. -/
def execSt (e : Enc) (s : State) : Out := runInstr .st e s fun i s =>
  let accs := stAccs i s.freeDWord.1.toNat
  let s := stFree i s
  if i.en = 0 then .done s
  else if i.e.order = 4 then scRun i s (stAsk i) accs fun l => .ops 4 i.e.scope .store none l
  else memRun i s (stAsk i) accs false (storeEffect i .store) .done

/-- R208, R211: the split waits until every enabled thread has been served. -/
def execLdfe (e : Enc) (s : State) : Out := runInstr .ldfe e s fun i s =>
  let n := szBytes i.e.sz
  let ask : MemAsk := { kind := .read, use := .fe, space := i.e.space, plain := false }
  let accs := i.accsOf ((lanesOf i.en).map fun t => accAt t (i.addr i.e.bk i.e.b true t) n 0 0)
  if i.en = 0 then .done s
  else match s.group? i.w.group with
    | none => .done s
    | some g => match memPre s i g ask accs with
      | some t => .trap t s
      | none =>
        let l := accs.filterMap fun a => match reach s i g ask none a with | .ok a _ => some a | _ => none
        let r := loadEffect i (.vec i.e.d.toNat (szRegs i.e.sz)) (fun _ => .later) s l 0 0
        .block (.ldfe i.e.d.toNat i.e.sz (i.e.pol == 1) i.len (r.2.getD 0) l) r.1

/-- What `STFE` asks of memory. -/
def stfeAsk (i : Issue) : MemAsk := { kind := .write, use := .fe, space := i.e.space, plain := false }

/-- R208, R211. -/
def execStfe (e : Enc) (s : State) : Out := runInstr .stfe e s fun i s =>
  let accs := stAccs i s.freeDWord.1.toNat
  let s := stFree i s
  if i.en = 0 then .done s else memRun i s (stfeAsk i) accs false (storeEffect i .storeFull) .done

/-- What `STN4` asks of memory, and its access per enabled thread: a byte, with a nibble and its place as data. -/
def stn4Ask (i : Issue) : MemAsk :=
  { kind := .write, use := .atomic, space := i.e.space, plain := false, stn4 := true, win := i.uniformA }
def stn4Accs (i : Issue) : List Acc :=
  (lanesOf i.en).map fun t => accAt t (i.addrA t) 1 (i.src i.e.bk i.e.b false (immSx i.e 32) t % 32) 0

/-- R212, R214. -/
def execStn4 (e : Enc) (s : State) : Out := runInstr .stn4 e s fun i s =>
  if i.en = 0 then .done s else memRun i s (stn4Ask i) (stn4Accs i) false (storeEffect i .stn4) .done

/-- What an atomic asks of memory (R187, R203, R212, R213). -/
def atomAsk (i : Issue) (red : Bool) : MemAsk :=
  { kind := .rmw, use := .atomic, space := i.e.space, plain := false, atomic := true, red,
    hostOk := i.e.opx == 0 || i.e.opx == 6 || i.e.opx == 7, win := i.uniformA }

/-- The accesses of an atomic: address, operand and new value per enabled thread. -/
def atomAccs (i : Issue) : List Acc :=
  let wd := atomWide i.e
  let imm := immSx i.e (if wd then 64 else 32)
  (lanesOf i.en).map fun t =>
    accAt t (i.addrA t) (if wd then 8 else 4) (i.src i.e.bk i.e.b wd imm t) (i.src i.e.ck i.e.c wd imm t)

/-- R212, R213. -/
def execAtom (e : Enc) (s : State) : Out := runInstr .atom e s fun i s =>
  let fn : MemFn := .rmw i.e.opx.toNat i.e.ty.toNat
  let n := if atomWide i.e then 8 else 4
  if i.en = 0 then .done s
  else if i.e.order = 4 then
    scRun i s (atomAsk i false) (atomAccs i) fun l => .ops 4 i.e.scope fn (some (i.e.d.toNat, n)) l
  else memRun i s (atomAsk i false) (atomAccs i) false (atomEffect i fn n) .done

/-- R212, R213. -/
def execRed (e : Enc) (s : State) : Out := runInstr .red e s fun i s =>
  if i.en = 0 then .done s
  else memRun i s (atomAsk i true) (atomAccs i) false
    (storeEffect i (.rmw i.e.opx.toNat i.e.ty.toNat)) .done

/-! ### Scalar accesses -/

/-- The address of `SLD` and `SST` (R206). -/
def Issue.sAddr (i : Issue) (qk : Kind) (q : BitVec 8) (hasQ : Bool) : Nat :=
  if i.e.space = 0 then
    let off := if !hasQ then 0 else if qk = .imm then immSx i.e 64 else sext32 (i.src qk q false 0 0)
    ((i.sp.spair i.e.a.toNat).toNat + off) % 2 ^ 64
  else
    let off := if hasQ then i.src qk q false (immSx i.e 32) 0 else 0
    ((i.sp.sreg i.e.a.toNat).toNat + off) % 2 ^ 32

/-- What `SLD` and `SST` ask of memory, and their one access, on behalf of the lowest-numbered enabled thread (R215). -/
def sldAsk (i : Issue) : MemAsk := { kind := .read, use := .load, space := i.e.space, plain := i.e.ty == 0 }
def sldAcc (i : Issue) : Acc :=
  accAt (lowest i.en) (i.sAddr i.e.bk i.e.b true) (if i.e.ty == 2 then 8 else 4) 0 0
def sstAsk (i : Issue) : MemAsk :=
  { kind := .write, use := .store, space := i.e.space, plain := i.e.ty == 0, ordered := i.e.order != 0 }
def sstAcc (i : Issue) : Acc :=
  accAt (lowest i.en) (i.sAddr i.e.ck i.e.c i.hasC) (if i.e.ty == 2 then 8 else 4) (i.sB (i.e.ty == 2)) 0

/-- R215. -/
def execSld (e : Enc) (s : State) : Out := runOnce .sld e s fun i s =>
  memRun i s (sldAsk i) [sldAcc i] false
    (loadEffect i (.sca i.e.d.toNat (if i.e.ty == 2 then 2 else 1)) fun l =>
      .load i.e.order i.e.scope (if i.e.ty == 2 then 1 else 0) l) .done

/-- R215. -/
def execSst (e : Enc) (s : State) : Out := runOnce .sst e s fun i s =>
  memRun i s (sstAsk i) [sstAcc i] false (storeEffect i .store) .done

/-! ### Cache instructions and fences -/

/-- R216, R238: the L1, the home slices and their copies hold the one memory image, so a fetch, a drop or a write-back of a
line changes no value; the instruction never traps, parks or faults. A uniform base fills its translation window. -/
def Issue.cacheRun (i : Issue) (s : State) : Res :=
  .done (askWindow s i { kind := .read, use := .load, space := i.e.space, plain := false, win := i.uniformBase i.e.bk i.e.b true }).2

/-- R216. -/
def execPref (e : Enc) (s : State) : Out := runInstr .pref e s Issue.cacheRun
/-- R216. -/
def execCinv (e : Enc) (s : State) : Out := runInstr .cinv e s Issue.cacheRun
/-- R216. -/
def execCwb (e : Enc) (s : State) : Out := runInstr .cwb e s Issue.cacheRun

/-- R190, R217: an acquire fence waits for the threads' earlier loads, a release fence for all their earlier operations;
`FENCE.sc` drains and waits for its tick (R198). -/
def execFence (e : Enc) (s : State) : Out := runInstr .fence e s fun i s =>
  if i.en = 0 then .done s
  else if i.e.order = 4 then scBlock i i.en .fence s
  else
    let loads := (i.w.pend.filter fun p => p.readsFor i.en).map (·.seq)
    let seqs := if i.e.order = 1 then loads else s.drainSet i.w i.en
    if s.drained i.w seqs then .done s else .block (.drain seqs) s

/-- R198, R217: every earlier memory operation of the wave, in any split. -/
def execFencesc (e : Enc) (s : State) : Out := runOnce .fencesc e s fun i s => scBlock i 0xFFFFFFFF .fence s

/-! ### Steps of the memory system -/

/-- The value of a loaded access in a register: sizes 8 and 16 are zero- or sign-extended (R209). -/
def loadValue (sz x : Nat) : Nat :=
  match sz with
  | 4 => wrapInt 32 (readInt true 8 x)
  | 6 => wrapInt 32 (readInt true 16 x)
  | _ => x

/-- Writing `n` registers of a destination for a thread from a number, lowest first; a scalar write reaches the listed copies
(log 83). -/
def Wave.setDst (w : Wave) (dst : Dst) (copies : List Nat) (t x : Nat) : Wave :=
  match dst with
  | .vec d n => (List.range n).foldl (fun w k => w.setV (d + k) t (BitVec.ofNat 32 (x / 2 ^ (32 * k)))) w
  | .sca d n => copies.foldl (fun w c => w.modCopy c fun p =>
      (List.range n).foldl (fun p k => p.setS (d + k) (BitVec.ofNat 32 (x / 2 ^ (32 * k)))) p) w

/-- Returning some threads of an outstanding load (R209): each access is read now. Uncorrectable data is not written: the thread has
failed (R220, R250, R270; log 92). -/
def returnLoad (s : State) (w : Wave) (p : Pend) (sz : Nat) (accs : List Acc) : State :=
  accs.foldl (fun s a =>
    match s.placeBad a with
    | some va => (s.retireAt w.ctx a.va).modWave w.uid fun w => w.failPend p.seq a.thread .ecc va
    | none =>
      let s := s.keepOld w.uid p.seq a.thread a.place a.size
      let x := loadValue sz (s.readAcc { tid := w.idx * 32 + a.thread, ins := p.seq } a)
      s.modWave w.uid fun w => (w.setDst p.dst p.sps a.thread x).clearPend p.seq a.thread) s

/-- The result word of `XLATE` (R252): a `HOST` page whose completion grants Read or Write has a valid translation (log 99). -/
def xlateWord (s : State) (c va : Nat) (sup : Bool) : Nat :=
  let win := if 2 ^ 57 ≤ va then true else (windowOf (s.ctx c) va).isSome
  if 2 ^ 57 ≤ va then 2 ^ 63 + 2 ^ 56
  else if win then 2 ^ 56
  else match walk s c va with
    | .absent l | .malformed l | .bad l => 2 ^ 63 + l * 2 ^ 52
    | .leaf l e =>
      let z := leafLog e
      let host := e.getLsbD 9
      let bits := if host then
          match s.ats? c va with
          | some a =>
            let g := s.grantOf c a.grant
            (e.toNat - (if g.getLsbD 1 then 0 else e.toNat / 8 % 2 * 8) - if g.getLsbD 2 then 0 else e.toNat / 16 % 2 * 16) % 2 ^ 11
          | none => 0
        else e.toNat % 2 ^ 11
      let granted := match s.ats? c va with | some a => a.grant.getLsbD 0 || a.grant.getLsbD 1 | none => false
      if host && !granted then 2 ^ 63 + l * 2 ^ 52
      else
        let pfn := if sup && !host then leafFrame e z / 4096 * 4096 else 0
        let spill := !host && !inDevice (leafFrame e z) 1
        (z - 12) * 2 ^ 58 + (if s.isMigrating c va then 2 ^ 57 else 0) + l * 2 ^ 52 + pfn +
          (if spill then 2 ^ 11 else 0) + bits

/-- A step of the memory pipeline (R209, R213): threads of an outstanding load return. A plain or scalar load reads now; an
`ATOM` returns old values that its home has produced; `XLATE` reports. Nothing returns to a halted wave (R219). -/
def tryLoadReturn (u seq : Nat) (threads : Word) (s : State) : Option State :=
  match s.wave? u with
  | none => none
  | some w => match w.pend.find? fun p => p.seq == seq with
    | none => none
    | some p =>
      if w.halted || threads = 0 || threads &&& ~~~p.mask != 0 then none
      else match p.body with
        | .load _ _ sz accs =>
          let l := accs.filter fun a => threads.getLsbD a.thread
          if accMask l = threads && l.all (fun a => mayReturn s w p a && p.free a.thread) then some (returnLoad s w p sz l) else none
        | .atom _ _ _ vals =>
          let l := vals.filter fun v => threads.getLsbD v.1
          if maskOfList (l.map (·.1)) = threads then
            some (l.foldl (fun s v => s.modWave u fun w => (w.setDst p.dst p.sps v.1 v.2).clearPend seq v.1) s)
          else none
        | .xlate va =>
          if s.atsPend.any fun x => x.ctx == w.ctx && x.va == va / 4096 * 4096 then none
          else some (s.modWave u fun w' =>
            (w'.setDst p.dst p.sps 0 (xlateWord s w.ctx va p.sup)).clearPend seq 0)
        | _ => none
/-- The step of `tryLoadReturn`. -/
def execLoadReturn (u seq : Nat) (threads : Word) (s : State) : Out := made s (tryLoadReturn u seq threads s)

/-- A step of a home slice, of a scratchpad or of the host interface (R187): a queued operation performs. -/
def tryHomeSlicePerform (seq : Nat) (s : State) : Option State :=
  match s.stores.find? fun m => m.seq == seq with
  | none => none
  | some m =>
    if mayPerform s m then
      some ((performOp (s.keepOld m.wave m.ins m.acc.thread m.acc.place m.acc.size) m).showStore m.wave m.ins m.acc.thread
        m.acc.place m.acc.size)
    else none
/-- The step of `tryHomeSlicePerform`. -/
def execHomeSlicePerform (seq : Nat) (s : State) : Out := made s (tryHomeSlicePerform seq s)

/-- An uncorrectable word that a waiting `LDFE` consumes (R220, R250): it traps ECC for the threads not served (R218). -/
def ldfeEcc (s : State) (w : Wave) (p : Split) (len seq : Nat) (accs : List Acc) (a : Acc) : State :=
  let s := s.modWave w.uid fun w => accs.foldl (fun w b => w.clearPend seq b.thread) w
  match s.wave? w.uid with
  | none => s
  | some x => takeTrap s x { p with st := .ready, replay := none } len
      { maskTrap .ecc (accMask accs) a.va true with again := accs, ins := some seq }

/-- A thread of a waiting `LDFE` may be served: its granules are full and nothing of its own orders it later; under `.clear` the lower
threads that name one of its granules have been served (R211). -/
def ldfeMay (s : State) (w : Wave) (clear : Bool) (seq : Nat) (accs : List Acc) (a : Acc) : Bool :=
  let granule (b : Acc) : Nat × Nat × Nat := (b.place.key.1, b.place.key.2.1, b.place.key.2.2 / 16)
  s.isFull a.place a.size && !storeBlocks s w.uid seq a false && !loadBlocks w seq a false &&
  !(clear && accs.any fun b => decide (b.thread < a.thread) && granule b == granule a)

/-- A step of a scratchpad (R188, R211): the lowest thread of a waiting `LDFE` that may be served is served, one
granule step at a time; under `.clear` the granules become empty. The instruction completes with its last thread. -/
def tryLdfeServe (u n : Nat) (s : State) : Option State :=
  match s.wave? u with
  | none => none
  | some w => match w.split? n with
    | none => none
    | some p => match p.st with
      | .blocked (.ldfe d sz clear len seq accs) =>
        if w.halted then none
        else match accs.find? (ldfeMay s w clear seq accs) with
          | none => none
          | some a =>
            if s.scratchBad a.place a.size then some (ldfeEcc s w p len seq accs a) else
            let s := s.keepOld u seq a.thread a.place a.size
            let x := s.readPlace outside a.place a.size
            let s := if clear then s.setFull a.place a.size false else s
            let s := s.modWave u fun w => (w.setDst (.vec d (szRegs sz)) [] a.thread x).clearPend seq a.thread
            let rest := accs.filter fun b => b.thread != a.thread
            if rest.isEmpty then some (completeSplit s u n len)
            else some (s.modSplit u n fun p => { p with st := .blocked (.ldfe d sz clear len seq rest) })
      | _ => none
/-- The step of `tryLdfeServe`. -/
def execLdfeServe (u n : Nat) (s : State) : Out := made s (tryLdfeServe u n s)

/-- A step of the memory system (R198): an sc operation has drained what it covers and waits for its tick. -/
def tryScDrainDone (u n : Nat) (s : State) : Option State :=
  match s.wave? u with
  | none => none
  | some w => match w.split? n with
    | none => none
    | some p => match p.st with
      | .blocked (.scDrain num seqs sys len work) =>
        if !w.halted && s.drained w seqs then some (s.modSplit u n fun p => { p with st := .blocked (.scTick sys len num work) })
        else none
      | _ => none
/-- The step of `tryScDrainDone`. -/
def execScDrainDone (u n : Nat) (s : State) : Out := made s (tryScDrainDone u n s)

/-- What an sc operation does at its tick (R198, R199): its access is made at once, and the split goes on. -/
def scPerform (s : State) (w : Wave) (n len num : Nat) (work : ScWork) : State :=
  let s := match work with
    | .fence => s
    | .load _ sz accs => match w.pend.find? fun p => p.seq == num with
      | some p => returnLoad s w p sz accs
      | none => s
    | .ops order scope fn dst accs =>
      let s := match dst with
        | some (_, size) => s.modWave w.uid fun w => w.modPend num fun p => { p with body := .atom order scope size [] }
        | none => s
      let before := s.stores
      let s := queueOps s w num order scope fn (dst.map fun _ => num) accs
      (s.stores.filter fun m => !before.contains m).foldl performOp s
  completeSplit s w.uid n len

/-- The sc operations that wait for a tick, in the order of S within the tick (R199): by core and lane, then issue
order. -/
def scWaiting (s : State) (sys : Bool) : List (Wave × Nat × Nat × ScWork × Nat) :=
  let l := s.waves.flatMap fun w => if w.halted then [] else w.splits.filterMap fun p => match p.st with
    | .blocked (.scTick sy len num work) => if sy == sys then some (w, p.num, len, work, num) else none
    | _ => none
  sortBy (fun a => (a.1.core * 64 + a.1.lane) * 2 ^ 40 + a.2.2.2.2) l

/-- A tick: every waiting sc operation of its kind takes its place in S (R198, R199). -/
def scTick (s : State) (sys : Bool) (tick : Nat) : State :=
  (scWaiting s sys).foldl (fun s x =>
    scPerform { s with sOrder := s.sOrder ++ [(tick, x.1.core * 64 + x.1.lane, x.2.2.2.2)] } x.1 x.2.1 x.2.2.1 x.2.2.2.2 x.2.2.2.1) s

end Sys2Proof.Machine
end

