-- ==== Sys2Proof/Machine/Links.lean ====
section
/-! DEFINITION. Links: the instructions (R421-R425, R428), the origin's link engine (R414-R420), the target (R416, R417, R426), and
the link states (R413, R443). -/

namespace Sys2Proof.Machine

/-! ### Links by number -/

/-- A link. -/
def State.link (s : State) (l : Nat) : Link := s.links.getD l Link.fresh

/-- Changing a link. -/
def State.modLink (s : State) (l : Nat) (f : Link → Link) : State := { s with links := s.links.modify l f }

/-- A posted operation of a link. -/
def Link.op? (k : Link) (seq : Nat) : Option LinkOp := k.ops.find? fun o => o.sent && !o.acked && o.op.seq == seq

/-- Changing an operation of a link. -/
def State.modLinkOp (s : State) (l id : Nat) (f : LinkOp → LinkOp) : State :=
  s.modLink l fun k => { k with ops := k.ops.map fun o => if o.id = id then f o else o }

/-- UP or DEGRADED, which behave alike (R413). -/
def Link.isUp (k : Link) : Bool := k.st == 2 || k.st == 3

/-! ### The origin's engine -/

/-- The bytes of the aperture that an operation writes, as ranges. -/
def nraSpans (o : NraOp) : List (Nat × Nat) :=
  match o.kind with
  | .read | .ready .. | .report .. => []
  | .lred n => o.parts.map fun p => (p.off + 128 * n, 33 * n)
  | _ => o.parts.map fun p => (p.off, o.size)

/-- Two operations write a common byte. -/
def nraMeet (a b : NraOp) : Bool := (nraSpans a).any fun x => (nraSpans b).any fun y => overlap x.1 x.2 y.1 y.2

/-- The operation orders every earlier one of its link context first: a flagged write, or an `RATM` with `ar` (R419). -/
def nraReleases (o : NraOp) : Bool := o.kind == .flagged || (o.kind == .atomicAdd && o.acq)

/-- How far a 48-bit sequence number lies above another (R415). -/
def seqDist (a b : Nat) : Nat := (a % 2 ^ 48 + 2 ^ 48 - b % 2 ^ 48) % 2 ^ 48

/-- An unsent operation may be sent after those posted before it (R415, R419). -/
def mayPost (s : State) (k : Link) (before : List LinkOp) (o : LinkOp) : Bool :=
  let open_ := before.filter fun b => !b.acked
  !o.sent && o.src.isNone &&
  (if nraReleases o.op then open_.all fun b => b.op.kind == .read else !open_.any fun b => nraMeet b.op o.op) &&
  (k.ops.all fun b => !b.sent || b.acked || decide (seqDist k.next b.op.seq < 4096)) && s.afterDone o.wave o.after

/-- The first operation of a link that may be sent. -/
def nextPost (s : State) (k : Link) : List LinkOp → List LinkOp → Option LinkOp
  | _, [] => none
  | before, o :: r => if mayPost s k before o then some o else nextPost s k (before ++ [o]) r

/-- Sending the operations that may be sent (R415). -/
def State.linkPump (s : State) (l : Nat) : Nat → State
  | 0 => s
  | fuel + 1 =>
    let k := s.link l
    if !(k.isUp || k.st == 4) then s
    else match nextPost s k [] k.ops with
      | none => s
      | some o =>
        let op := { o.op with seq := k.next }
        let s := s.modLinkOp l o.id fun o => { o with op, sent := true }
        let s := s.modLink l fun k => { k with next := (k.next + 1) % 2 ^ 48, sends := k.sends ++ [(s.pt, false)] }
        { s with out := s.out ++ [OutMsg.nra l op] }.linkPump l fuel

/-- Sending what a link may send. -/
def State.pump (s : State) (l : Nat) : State := s.linkPump l (s.link l).ops.length

/-- A number on tl5 completes when no link holds an operation of it (R421). -/
def State.linkNumber (s : State) (wave kernel num : Nat) : State :=
  if s.links.any fun k => k.ops.any fun o => o.wave == wave && o.num == num then s else s.tlDone wave kernel 5 num none

/-- A failure that a `TLWAIT` on tl5 will report (R225, R418). -/
def State.linkReport (s : State) (wave kernel num va : Nat) : State := s.tlFail wave kernel 5 num .remote va

/-- DRAIN ends when every operation is acknowledged (R413). -/
def State.linkDrained (s : State) (l : Nat) : State :=
  let k := s.link l
  if k.st == 4 && k.ops.all (·.acked) then s.modLink l fun k => { k with st := 0, since := s.pt } else s

/-- An operation leaves the link engine: its number, the operations that waited for it, and the end of DRAIN. -/
def State.linkLeave (s : State) (l : Nat) (o : LinkOp) : State :=
  let s := s.modLink l fun k => { k with ops := k.ops.filter fun x => x.id != o.id }
  ((s.linkNumber o.wave o.kernel o.num).pump l).linkDrained l

/-- The fabric address of a part (R414). -/
def fabricVa (l : Nat) (p : NraPart) : Nat := l * 2 ^ 32 + p.off

/-- Writing the results of a link read into its wave (R420, R423, R424), or failing its threads (R418). -/
def State.linkWrite (s : State) (l : Nat) (o : LinkOp) (seq : Nat) (a : NraAnswer) : State :=
  s.modWave o.wave fun w => match w.pend.find? fun p => p.seq == seq with
    | none => w
    | some p => match a with
      | .nack => o.op.parts.foldl (fun w x => w.failPend seq x.thread .remote (fabricVa l x)) w
      | .done vals => (o.op.parts.zip vals).foldl (fun w x =>
          (w.setDst p.dst p.sps x.1.thread x.2.toNat).clearPend seq x.1.thread) w

/-- The wave's registers can be written now; a result for another wave is held (R420). -/
def State.waveRuns (s : State) (u : Nat) : Bool :=
  match s.wave? u with
  | some w => !w.halted && (s.ctx w.ctx).st == .running
  | none => true

/-- An operation is answered (R415, R418, R420). -/
def State.linkAnswer (s : State) (l : Nat) (o : LinkOp) (a : NraAnswer) : State :=
  match o.pend with
  | none =>
    let s := if a = .nack then s.linkReport o.wave o.kernel o.num o.va else s
    s.linkLeave l o
  | some seq =>
    if s.waveRuns o.wave then (s.linkWrite l o seq a).linkLeave l o
    else ((s.modLinkOp l o.id fun o => { o with acked := true, answer := some a }).pump l).linkDrained l

/-- The results held for the waves of a context are written at its resume (R420). -/
def State.heldAnswers (s : State) (c : Nat) : State :=
  (List.range 16).foldl (fun s l => ((s.link l).ops.filter fun o => o.ctx == c && o.answer.isSome).foldl (fun s o =>
    match o.pend, o.answer with
    | some seq, some a => (s.linkWrite l o seq a).linkLeave l o
    | _, _ => s) s) s

/-- A link fails (R413): every outstanding operation fails with REMOTE. -/
def State.failLink (s : State) (l : Nat) : State :=
  let s := s.modLink l fun k => { k with st := 5, since := s.pt }
  ((s.link l).ops.filter fun o => !o.acked).foldl (fun s o => s.linkAnswer l o .nack) s

/-- Posting an instruction's operations (R421), each with its link and what it follows: one number on tl5 for all. An
operation posted while the link is DOWN, in DRAIN or FAILED fails at once (R413, R418). -/
def Issue.postLink (i : Issue) (s : State) (ops : List (Nat × NraOp × List Nat)) (pend : Option Nat)
    (src : Option (Nat × Nat)) : State :=
  match s.wave? i.w.uid with
  | none => s
  | some w =>
    let num := w.nextNum 5
    let s := s.modWave w.uid fun w => w.post 5
    let s := ops.foldl (fun s x =>
      let l := x.1
      let (id, s) := s.freshUid
      let o : LinkOp :=
        { id, wave := w.uid, kernel := w.kernel, ctx := w.ctx, group := w.group, sup := s.waveSup w, num, pend, op := x.2.1,
          va := (x.2.1.parts.head?).elim 0 (fabricVa l), sent := false, acked := false, tries := 0, src, after := x.2.2,
          parked := none, parkVa := 0, answer := none }
      let st := (s.link l).st
      if st == 0 || st == 4 || st == 5 then
        match pend with
        | some seq => s.linkWrite l o seq .nack
        | none => s.linkReport w.uid w.kernel num o.va
      else (s.modLink l fun k => { k with ops := k.ops ++ [o] }).pump l) s
    s.linkNumber w.uid w.kernel num

/-! ### Remote instructions -/

/-- The link that a fabric address names. -/
def fabricLink (a : Nat) : Nat := a / 2 ^ 32 % 16

/-- A fabric access is outside its space (R414): a bit above the link, a link of another context, or beyond the aperture,
whose size is known from UP on. -/
def State.fabricBad (s : State) (c a n : Nat) : Bool :=
  let k := s.link (fabricLink a)
  a / 2 ^ 36 != 0 || k.octx != c || (decide (2 ≤ k.st) && decide (k.psize < a % 2 ^ 32 + n)) || decide (2 ^ 32 < a % 2 ^ 32 + n)

/-- The traps of a per-thread remote instruction (R414): the threads whose address is not aligned, or else outside its
space. -/
def Issue.remoteTrap (i : Issue) (s : State) (size : Nat) : Option TrapInfo :=
  let l := lanesOf i.en
  let addr (t : Nat) : Nat := i.a true t
  let odd := l.filter fun t => addr t % size != 0
  let lost := l.filter fun t => s.fabricBad i.w.ctx (addr t) size
  let low (l : List Nat) : Nat := (l.map addr).foldl min (addr (l.headD 0))
  if !odd.isEmpty then some (maskTrap .align (maskOfList odd) (low odd) false)
  else if !lost.isEmpty then some (maskTrap .space (maskOfList lost) (low lost) false)
  else none

/-- The links that the enabled threads' addresses name. -/
def Issue.remoteLinks (i : Issue) : List Nat := ((lanesOf i.en).map fun t => fabricLink (i.a true t)).eraseDups

/-- The earlier acquires of a thread that have not completed: what it does over a link follows them (R419). -/
def Wave.acquires (w : Wave) (t : Nat) : List Nat :=
  (w.pend.filter fun p => p.mask.getLsbD t && (match p.body with
    | .load o .. | .atom o .. => isAcq o
    | b => match b with | .remote a => a | _ => false)).map (·.seq)

/-- The per-thread remote instructions after their checks (R414, R415, R422-R424): one operation for each thread, in ascending
thread index, so that each is answered by itself (R418). `read` gives the register write. -/
def Issue.remote (i : Issue) (s : State) (kind : NraKind) (acq : Bool) (size : Nat) (data : Nat → Nat) (read : Bool) : Res :=
  let l := lanesOf i.en
  let addr (t : Nat) : Nat := i.a true t
  if i.en = 0 then .done s
  else match i.remoteTrap s size with
  | some t => .trap t s
  | none =>
    let links := i.remoteLinks
    let need (k : Nat) : Nat := (l.filter fun t => fabricLink (addr t) == k).length
    match links.find? fun k => !s.linkRoom k (need k) with
    | some k => .block (.roomLink k (need k)) s
    | none =>
      let after (t : Nat) : List Nat := match s.wave? i.w.uid with | some w => w.acquires t | none => []
      let ops := l.map fun t => (fabricLink (addr t),
        ({ seq := 0, kind, size, acq, blob := [],
           parts := [{ thread := t, off := addr t % 2 ^ 32, data := BitVec.ofNat 64 (data t % 2 ^ (8 * size)) }] } : NraOp),
        after t)
      if read then
        let (seq, s) := s.freshUid
        let s := addPend s i seq i.en (.vec i.e.d.toNat (size / 4)) .ld (.remote acq)
        .done (i.postLink s ops (some seq) none)
      else .done (i.postLink s ops none none)

/-- The access size of a remote instruction. -/
def Issue.remoteSize (i : Issue) : Nat := if i.wideTy then 8 else 4

/-- R422. -/
def execRwr (e : Enc) (s : State) : Out := runInstr .rwr e s fun i s =>
  i.remote s .write false i.remoteSize (i.b i.wideTy) false

/-- R422, R419: a release of the earlier operations of the issuing threads. -/
def execRwrf (e : Enc) (s : State) : Out := runInstr .rwrf e s fun i s =>
  if i.en = 0 then .done s
  else i.released s (i.remote s .flagged false i.remoteSize (i.b i.wideTy) false)

/-- R423. -/
def execRrd (e : Enc) (s : State) : Out := runInstr .rrd e s fun i s =>
  i.remote s .read (i.e.order == 1) i.remoteSize (fun _ => 0) true

/-- R424; with `ar` also a release. -/
def execRatm (e : Enc) (s : State) : Out := runInstr .ratm e s fun i s =>
  let ar := i.e.order == 3
  let go := i.remote s .atomicAdd ar i.remoteSize (i.b i.wideTy) true
  if ar && i.en != 0 then i.released s go else go

/-- The traps of an `LRED`, in their order (R425): cause and address. -/
def lredTrap (s : State) (c a src n : Nat) : Option (Cause × Nat) :=
  if n < 1 || 4096 < n then some (.format, 0)
  else if src % 16 != 0 then some (.align, src)
  else if a % 16 != 0 then some (.align, a)
  else if s.fabricBad c a (161 * n) then some (.space, a)
  else if 2 ^ 57 ≤ src + 33 * n then some (.space, src)
  else none

/-- R425: the blocks are read by the link engine, then sent. -/
def execLred (e : Enc) (s : State) : Out := runOnce .lred e s fun i s =>
  let a := (i.sp.spair i.e.a.toNat).toNat
  let src := (i.sp.spair i.e.b.toNat).toNat
  let n := i.sC false
  match lredTrap s i.w.ctx a src n with
  | some t => .trap (i.plainTrap t.1 t.2) s
  | none =>
    let l := fabricLink a
    if !s.linkRoom l 1 then .block (.roomLink l 1) s
    else
      let op : NraOp := { seq := 0, kind := .lred n, size := 4, acq := false, blob := [],
                          parts := [{ thread := 0, off := a % 2 ^ 32, data := 0 }] }
      let after := match s.wave? i.w.uid with | some w => s.drainSet w i.sp.mask | none => []
      .done (i.postLink s [(l, op, after)] none (some (src, 0)))

/-- The next chunk that an `LRED` reads at its origin: address and size. -/
def lredChunk (n src prog : Nat) : Nat × Nat :=
  if prog < 2 * n then (src + 16 * prog, 16) else (src + 32 * n + (prog - 2 * n), 1)

/-- An `LRED`'s origin reads may go on (R425). -/
def State.lredReady (s : State) (o : LinkOp) : Bool :=
  (s.ctx o.ctx).st == .running && (o.parked.isNone || o.parked == some .ready || o.parked == some .failed) &&
  s.afterDone o.wave o.after

/-- One read of an `LRED` at its origin: the operation parks, fails, or is sent when every byte is read (R425). -/
def lredStep (s : State) (l : Nat) (o : LinkOp) : Option State :=
  match o.op.kind, o.src with
  | .lred n, some (src, prog) =>
    if !s.lredReady o then none
    else
      let c := lredChunk n src prog
      let fail (s : State) (e : Cause) : State :=
        let s := if e = .ecc then s.retireAt o.ctx c.1 else s
        (s.tlFail o.wave o.kernel 5 o.num e c.1).linkLeave l o
      if o.parked == some .failed then some (fail s .page)
      else match engReach s o.ctx o.group o.sup 0 .load .read false c.1 c.2 with
        | .fail e => some (fail s e)
        | .wait x => match parkFor s o.ctx c.1 .read (engineAgent 3) x with
          | .ok (k, s) => some (s.modLinkOp l o.id fun o => { o with parked := some k, parkVa := c.1 })
          | .error e => some (fail s e)
        | .ok p t =>
          let s := s.fillOpt t
          let x := s.readAcc outside { thread := 0, va := c.1, size := c.2, place := p, data := 0, data2 := 0 }
          some ((s.modLinkOp l o.id fun o =>
            { o with op := { o.op with blob := o.op.blob ++ leBytes c.2 x }, parked := none,
                     src := if prog + 1 < 3 * n then some (src, prog + 1) else none }).pump l)
  | _, _ => none

/-- R428. -/
def execLstat (e : Enc) (s : State) : Out := runOnce .lstat e s fun i s =>
  let k := s.link (i.sB false % 16)
  if k.octx != i.w.ctx then .trap (i.plainTrap .space) s
  else match i.e.opx.toNat with
    | 0 => i.sca s false k.st
    | 1 => i.sca s false (min k.retx 0xFFFFFFFF)
    | 2 => i.sca s true k.done
    | _ => i.sca s false (k.plink * 2 ^ 16 + k.pnode)

/-! ### Answers at the origin -/

/-- R415: an operation is acknowledged. -/
def tryNraAck (l seq : Nat) (s : State) : Option State :=
  match (s.link l).op? seq with
  | none => none
  | some o => if o.pend.isSome then none else some (s.linkAnswer l o (.done []))
/-- The step of `tryNraAck`. -/
def execNraAck (l seq : Nat) (s : State) : Out := made s (tryNraAck l seq s)

/-- R420: the result of a read or an atomic arrives. -/
def tryNraReadResponse (l seq : Nat) (data : List DWord) (s : State) : Option State :=
  match (s.link l).op? seq with
  | none => none
  | some o => if o.pend.isNone || data.length != o.op.parts.length then none else some (s.linkAnswer l o (.done data))
/-- The step of `tryNraReadResponse`. -/
def execNraReadResponse (l seq : Nat) (data : List DWord) (s : State) : Out := made s (tryNraReadResponse l seq data s)

/-- R418: a final NACK fails an operation. -/
def tryNraFinalNack (l seq : Nat) (s : State) : Option State :=
  match (s.link l).op? seq with
  | none => none
  | some o => some (s.linkAnswer l o .nack)
/-- The step of `tryNraFinalNack`. -/
def execNraFinalNack (l seq : Nat) (s : State) : Out := made s (tryNraFinalNack l seq s)

/-- R415: the target was not ready, and the operation is sent again, without counting. -/
def tryNraReceiverNotReady (l seq : Nat) (s : State) : Option State :=
  match (s.link l).op? seq with
  | none => none
  | some o => some { s with out := s.out ++ [.nra l o.op] }
/-- The step of `tryNraReceiverNotReady`. -/
def execNraReceiverNotReady (l seq : Nat) (s : State) : Out := made s (tryNraReceiverNotReady l seq s)

/-- The sends of the last millisecond. -/
def State.recent (s : State) (l : List (DWord × Bool)) : List (DWord × Bool) :=
  l.filter fun x => decide (s.pt.toNat < x.1.toNat + 1000000)

/-- R413, R415: an acknowledgement is missing. After 16 retransmissions an UP or DEGRADED link fails. -/
def tryNraRetransmit (l seq : Nat) (s : State) : Option State :=
  match (s.link l).op? seq with
  | none => none
  | some o =>
    if 16 ≤ o.tries && (s.link l).isUp then some (s.failLink l)
    else
      let s := s.modLinkOp l o.id fun o => { o with tries := o.tries + 1 }
      let s := s.modLink l fun k =>
        { k with retx := min (k.retx + 1) 0xFFFFFFFF, sends := s.recent k.sends ++ [(s.pt, true)] }
      some { s with out := s.out ++ [.nra l o.op] }
/-- The step of `tryNraRetransmit`. -/
def execNraRetransmit (l seq : Nat) (s : State) : Out := made s (tryNraRetransmit l seq s)

/-! ### The target -/

/-- The accesses of an operation at the target: aperture offset, size and kind; a range is checked in 16-byte pieces. -/
def nraAccesses (o : NraOp) : List (Nat × Nat × AccKind) :=
  let range (a n : Nat) (k : AccKind) : List (Nat × Nat × AccKind) :=
    (List.range ((n + 15) / 16)).map fun j => (a + 16 * j, min 16 (n - 16 * j), k)
  match o.kind with
  | .lred n => o.parts.flatMap fun p => range p.off (128 * n) .read ++ range (p.off + 128 * n) (33 * n) .write
  | .read => o.parts.map fun p => (p.off, o.size, .read)
  | .atomicAdd => o.parts.map fun p => (p.off, o.size, .rmw)
  | .ready .. | .report .. => []
  | _ => o.parts.map fun p => (p.off, o.size, .write)

/-- Whether an operation can be performed at the target (R417). -/
inductive NraReach where
  | ok
  | wait (va : Nat) (k : AccKind) (x : Xl)
  | nack (c : Cause) (va : Nat)

/-- An operation's accesses in order: the first that fails, else the first that waits. -/
def nraReach (s : State) (k : Link) (o : NraOp) : NraReach :=
  let rs := (nraAccesses o).map fun a =>
    let va := k.abase + a.1
    if k.asize < a.1 + a.2.1 then NraReach.nack .space va
    else match s.agentReach k.tctx (s.ctx k.tctx).ksup a.2.2 va a.2.1 with
      | .ok (_, t) => if t.det && a.2.2 == .rmw then .nack .perm va else .ok
      | .wait x => .wait va a.2.2 x
      | .fail c => .nack c va
  let bad (r : NraReach) : Bool := match r with | .nack .. => true | _ => false
  let held (r : NraReach) : Bool := match r with | .wait .. => true | _ => false
  match rs.find? bad with
  | some r => r
  | none => (rs.find? held).getD .ok

/-- Reading `n` bytes at the target. -/
def State.nraRead (s : State) (k : Link) (off n : Nat) : Nat :=
  match s.agentReach k.tctx (s.ctx k.tctx).ksup .read (k.abase + off) n with
  | .ok (p, _) => s.readPlace outside p n
  | _ => 0

/-- Writing `n` bytes at the target. -/
def State.nraWrite (s : State) (k : Link) (src off v n : Nat) : State :=
  match s.agentReach k.tctx (s.ctx k.tctx).ksup .write (k.abase + off) n with
  | .ok (p, t) => (s.fill t).store src p v n
  | _ => s

/-- Encoding 32 FP32 codes as an MXFP8 (E4M3) block (R72): the scale and the elements. -/
def mxBlock (ys : List Nat) : Nat × List Nat :=
  let vs := ys.map (decodeF fp32)
  if vs.any fun v => v.isNan || v.isInf then (0xFF, ys.map fun _ => 0)
  else
    let top := vs.foldl (fun m v => if cmpVal false m v.abs < 0 then v.abs else m) (.fin false 0 0)
    match top with
    | .fin _ (m + 1) e =>
      let ex := max (-127) (min 127 (ilog2 (m + 1) e - 8))
      let x := (ex + 127).toNat
      (x, vs.map fun v => (mxEncode 0 x v).bits)
    | _ => (0, vs.map fun v => (mxEncode 0 0 v).bits)

/-- R426: block `b` of an `LRED` at its target. -/
def lredBlock (s : State) (k : Link) (src off n : Nat) (blob : List Byte) (b : Nat) : State :=
  let x := (blob.getD (32 * n + b) 0).toNat
  let ys := (List.range 32).map fun e =>
    let a := mxDecode 0 (blob.getD (32 * b + e) 0).toNat x
    let d := decodeF fp32 (s.nraRead k (off + 4 * (32 * b + e)) 4)
    (roundNe fp32 (exactSum .ne [a, d]).1).bits
  let r := mxBlock ys
  let s := ((List.range 32).zip r.2).foldl (fun s ey => s.nraWrite k src (off + 128 * n + 32 * b + ey.1) ey.2 1) s
  s.nraWrite k src (off + 160 * n + b) r.1 1

/-- Performing an operation whose accesses all reach (R417, R422-R426): the state and the values read. What a rendezvous message does
is a step of its own (`RDV_READY_MESSAGE`, `RDV_REPORT`). -/
def nraApply (s : State) (l : Nat) (o : NraOp) : State × List DWord :=
  let k := s.link l
  let (src, s) := s.freshUid
  match o.kind with
  | .ready .. | .report .. => (s, [])
  | .write => (o.parts.foldl (fun s p => s.nraWrite k src p.off p.data.toNat o.size) s, [])
  | .flagged => (o.parts.foldl (fun s p =>
      (s.nraWrite k src p.off p.data.toNat o.size).modLink l fun k => { k with done := k.done + 1 }) s, [])
  | .read => (s, o.parts.map fun p => BitVec.ofNat 64 (s.nraRead k p.off o.size))
  | .atomicAdd => o.parts.foldl (fun acc p =>
      let old := acc.1.nraRead k p.off o.size
      (acc.1.nraWrite k src p.off ((old + p.data.toNat) % 2 ^ (8 * o.size)) o.size, acc.2 ++ [BitVec.ofNat 64 old])) (s, [])
  | .lred n => ((List.range n).foldl (fun s b => o.parts.foldl (fun s p => lredBlock s k src p.off n o.blob b) s) s, [])

/-- A number is above the highest received (R416). -/
def Link.above (k : Link) (seq : Nat) : Bool :=
  match k.hi with | some h => seqDist seq h != 0 && decide (seqDist seq h < 2 ^ 47) | none => true

/-- An operation has been received (R416): the window slides to the highest number, whatever becomes of the operation. -/
def State.nraArrive (s : State) (l seq : Nat) : State :=
  s.modLink l fun k => if k.above seq then
    { k with hi := some seq, window := k.window.filter fun x => decide (seqDist seq x.1 < 4096) } else k

/-- An operation is answered and recorded in the replay window (R416). -/
def State.nraRecord (s : State) (l seq : Nat) (a : NraAnswer) : State :=
  let s := s.modLink l fun k =>
    { k with window := (seq, a) :: k.window, lparks := k.lparks.filter fun x => x.1 != seq }
  { s with out := s.out ++ [.answer l seq a] }

/-- A flagged write for a parked queue that waits for the link's completion count finds the park buffer full (R318, R415,
log 44). -/
def State.parkFull (s : State) (l : Nat) (op : NraOp) : Bool :=
  op.kind == .flagged && decide (256 ≤ s.parkBuf.length) && s.queues.any fun q =>
    !q.onChip && q.running.any fun p => p.ty == 4 && pktField p.body 4 4 % 4 == 1 && pktField p.body 8 8 == l

/-- R416, R417: an operation of the peer arrives. -/
def tryNraOperationReceive (l : Nat) (op : NraOp) (s : State) : Option State :=
  let k := s.link l
  let dead := (s.ctx k.tctx).st == .empty || (s.ctx k.tctx).st == .terminated
  let below := match k.hi with | some h => !k.above op.seq && decide (4096 ≤ seqDist h op.seq) | none => false
  if !(k.isUp || k.st == 4) || 2 ^ 48 ≤ op.seq then none
  else match k.window.find? fun x => x.1 == op.seq with
    | some x => some { s with out := s.out ++ [.answer l op.seq x.2] }
    | none =>
      if below then some { s with out := s.out ++ [.answer l op.seq (.done [])] }
      else
      let s := s.nraArrive l op.seq
      if dead && !op.kind.isMessage then some (s.nraRecord l op.seq .nack)
      else if s.parkFull l op then some { s with out := s.out ++ [.notReady l op.seq] }
      else
        let notReady (s : State) : State := { s with out := s.out ++ [.notReady l op.seq] }
        match k.lparks.find? fun x => x.1 == op.seq with
        | some (_, .failed, _) => some (s.nraRecord l op.seq .nack)
        | _ => match nraReach s k op with
          | .nack c va => some ((if c = .ecc then s.retireAt k.tctx va else s).nraRecord l op.seq .nack)
          | .wait va kind x => match parkFor s k.tctx va kind (engineAgent 3) x with
            | .error _ => some (s.nraRecord l op.seq .nack)
            | .ok (p, s) => some (notReady (s.modLink l fun k =>
                { k with lparks := (op.seq, p, va) :: k.lparks.filter fun x => x.1 != op.seq }))
          | .ok =>
            let r := nraApply s l op
            some (r.1.nraRecord l op.seq (.done r.2))
/-- The step of `tryNraOperationReceive`. -/
def execNraOperationReceive (l : Nat) (op : NraOp) (s : State) : Out := made s (tryNraOperationReceive l op s)

/-! ### Link states -/

/-- The configuration lets a link leave DOWN (R443). -/
def Link.cfgOk (k : Link) : Bool :=
  k.resv == 0 && decide (k.port < 16) && k.asize % 4096 == 0 && decide (4096 ≤ k.asize) && decide (k.asize ≤ 2 ^ 32) &&
  k.abase % 4096 == 0

/-- A command of `CMD` (R443): 1 ENABLE, 2 DRAIN, 3 RESET, each with no effect in a state that does not accept it. -/
def State.linkCommand (s : State) (l cmd : Nat) : State :=
  let k := s.link l
  match cmd with
  | 1 =>
    if k.st == 0 && k.cfgOk && s.portUp k.port then
      { s.modLink l fun k => { k with st := 1, since := s.pt } with out := s.out ++ [.handshake l] }
    else s
  | 2 => if k.isUp then (s.modLink l fun k => { k with st := 4, since := s.pt }).linkDrained l else s
  | 3 =>
    if k.st == 5 then s.modLink l fun k => { k with st := 0, since := s.pt, hi := none, window := [], lparks := [] } else s
  | _ => s

/-- R443: ENABLE. -/
def tryLinkEnable (l : Nat) (s : State) : Option State :=
  if 16 ≤ l then none else some (if s.answers then s.linkCommand l 1 else s)
/-- The step of `tryLinkEnable`. -/
def execLinkEnable (l : Nat) (s : State) : Out := made s (tryLinkEnable l s)
/-- R443: DRAIN. -/
def tryLinkDrain (l : Nat) (s : State) : Option State :=
  if 16 ≤ l then none else some (if s.answers then s.linkCommand l 2 else s)
/-- The step of `tryLinkDrain`. -/
def execLinkDrain (l : Nat) (s : State) : Out := made s (tryLinkDrain l s)
/-- R443: RESET. -/
def tryLinkReset (l : Nat) (s : State) : Option State :=
  if 16 ≤ l then none else some (if s.answers then s.linkCommand l 3 else s)
/-- The step of `tryLinkReset`. -/
def execLinkReset (l : Nat) (s : State) : Out := made s (tryLinkReset l s)

/-- R413: the peer answers the handshake. An answer that does not match changes nothing. -/
def tryLinkHandshake (l : Nat) (ans : LinkAnswer) (s : State) : Option State :=
  let k := s.link l
  if k.st != 1 then none
  else if ans.namesUs && ans.node == k.pnode && ans.link == k.plink then
    some ((s.modLink l fun k =>
      { k with st := 2, since := s.pt, next := 0, hi := none, window := [], lparks := [], done := 0, retx := 0, sends := [],
               psize := ans.asize }).pump l)
  else some s
/-- The step of `tryLinkHandshake`. -/
def execLinkHandshake (l : Nat) (ans : LinkAnswer) (s : State) : Out := made s (tryLinkHandshake l ans s)

/-- More than 1 in 1,024 of the last millisecond's operations were retransmitted (R413). -/
def State.lossy (s : State) (k : Link) : Bool :=
  let l := s.recent k.sends
  decide ((l.filter fun x => !x.2).length < (l.filter fun x => x.2).length * 1024)

/-- The port of a link runs at a fallback rate. -/
def State.fallback (s : State) (k : Link) : Bool := match s.ports[k.port]? with | some p => p.fallback | none => false

/-- R413: UP becomes DEGRADED. -/
def tryLinkDegrade (l : Nat) (s : State) : Option State :=
  let k := s.link l
  if k.st == 2 && (s.lossy k || s.fallback k) then some (s.modLink l fun k => { k with st := 3, since := s.pt })
  else none
/-- The step of `tryLinkDegrade`. -/
def execLinkDegrade (l : Nat) (s : State) : Out := made s (tryLinkDegrade l s)

/-- R413: DEGRADED becomes UP after 1 ms. -/
def tryLinkRecover (l : Nat) (s : State) : Option State :=
  let k := s.link l
  if k.st == 3 && decide (k.since.toNat + 1000000 ≤ s.pt.toNat) && !s.lossy k && !s.fallback k then
    some (s.modLink l fun k => { k with st := 2, since := s.pt })
  else none
/-- The step of `tryLinkRecover`. -/
def execLinkRecover (l : Nat) (s : State) : Out := made s (tryLinkRecover l s)

end Sys2Proof.Machine
end

