-- ==== Sys2Proof/Machine/Teams.lean ====
section
/-! DEFINITION. Matrix teams and the TEAM trap of their roll calls (R341-R343). -/

namespace Sys2Proof.Machine

/-- The team of a wave (R341): its number, and the size of a team; none outside every team. -/
def State.teamOf (s : State) (w : Wave) : Option (Nat × Nat) :=
  match s.group? w.group with
  | some g => if g.team = 0 || g.waves / g.team * g.team ≤ w.idx then none else some (w.idx / g.team, g.team)
  | none => none

/-- The member waves of a team that have not exited. -/
def State.teamWaves (s : State) (g t n : Nat) : List Wave :=
  s.waves.filter fun w => w.group == g && w.idx / n == t && !w.exited

/-- A member's split that waits at a roll call traps TEAM at its team instruction (R343). -/
def State.teamTrap (s : State) (u n len : Nat) : State :=
  match s.wave? u with
  | none => s
  | some w => match w.split? n with
    | none => s
    | some p => match p.st with
      | .blocked .rollCall =>
        let q := { p with st := .ready, begun := false }
        takeTrap (s.modSplit u n fun _ => { q with held := none }) w q len
          { cause := .team, code := 0, mask := p.mask.setWidth 64, addr := 0, rpl := false }
      | _ => s

/-- A member's split that waits at a roll call executes its team instruction again. -/
def State.teamRetry (s : State) (u n : Nat) : State :=
  s.modSplit u n fun p => match p.st with
    | .blocked .rollCall => { p with st := .ready, held := none, begun := false }
    | _ => p

/-- Ending the roll call of a team (R343): every arrived member traps, but for a split of the wave `but`, which itself
traps or has exited. -/
def State.abortCall (s : State) (g t but : Nat) : State :=
  match (s.group? g).bind fun x => x.calls.find? fun c => c.team == t with
  | none => s
  | some rc =>
    let s := s.modGroup g fun x => { x with calls := x.calls.filter fun c => c.team != t }
    rc.arrived.foldl (fun s a => if a.1 = but then s.teamRetry a.1 a.2 else s.teamTrap a.1 a.2 rc.e.form.words) s

/-- A wave's last thread has exited (R343): an open roll call of its team ends with a trap of every arrived member. -/
def State.memberExit (s : State) (u : Nat) : State :=
  match s.wave? u with
  | none => s
  | some w => if !w.exited then s else match s.teamOf w with
    | some (t, _) => s.abortCall w.group t u
    | none => s

end Sys2Proof.Machine
end

