-- ==== Sys2Proof/Machine/Matrix.lean ====
section
/-! DEFINITION. The matrix engines: team instructions and roll calls (R341-R343), tasks and the reservation table (R344, R345), tiles and
the arbiter (R346, R347), the steps (R351-R355, R360, R364-R368), `MSTAT` and `MCNCL` (R361-R363). -/

namespace Sys2Proof.Machine

/-! ### Blocks and descriptors -/

/-- The fields of a substituted `MPOST` block with its scalar sources (R348, R349): k0, then the seed. -/
structure MGeo where
  tile : Nat
  k0   : Nat
  seed : Nat
  ty   : Nat
  ks   : Nat
  m    : Nat
  n    : Nat
  cin  : Nat
  xf   : Nat
  asp  : Nat
  amem : Nat
  afe  : Bool
  aoff : Nat
  bsp  : Nat
  bmem : Nat
  bfe  : Bool
  boff : Nat
  astr : Nat
  bstr : Nat
  bb   : Nat
  cfmt : Nat
  klw  : Nat

/-- The geometry of a substituted block (R349). -/
def mGeo (e : Enc) (srcs : List DWord) : MGeo :=
  let seeded := bitsAt e.p2 30 2 == 2
  { tile := e.d.toNat, k0 := (srcs.getD 0 0).toNat, seed := (srcs.getD 1 0).toNat, ty := e.ty.toNat, ks := bitsAt e.p0 14 11,
    m := 16 * (bitsAt e.p0 12 2 + 1), n := 16 * (bitsAt e.p0 10 2 + 1), cin := bitsAt e.p0 8 2, xf := bitsAt e.p0 5 3,
    asp := bitsAt e.p1 30 2, amem := bitsAt e.p1 26 4, afe := bitsAt e.p1 25 1 == 1, aoff := bitsAt e.p1 0 18,
    bsp := bitsAt e.p2 30 2, bmem := if seeded then 0 else bitsAt e.p2 26 4, bfe := !seeded && bitsAt e.p2 25 1 == 1,
    boff := bitsAt e.p2 0 18, astr := bitsAt e.p3 22 8, bstr := bitsAt e.p3 14 8, bb := bitsAt e.p3 8 6 + 1,
    cfmt := bitsAt e.p3 7 1, klw := if bitsAt e.p3 0 7 = 0 then 64 else bitsAt e.p3 0 7 }

/-- B is built from a seed (R349). -/
def MGeo.seeded (g : MGeo) : Bool := g.bsp == 2

/-- The listed combinations of `TYPE` and `XFMT` (R350). -/
def mFormatOk (ty xf : Nat) : Bool :=
  match ty with
  | 0 => decide (xf ≤ 3)
  | 1 | 2 => xf == 0
  | _ => decide (xf ≤ 1)

/-- Bits per element of an operand format (R350). -/
def mBits (ty xf : Nat) : Nat :=
  match ty with
  | 0 => if xf = 1 || xf = 3 then 4 else 8
  | 1 | 2 => 16
  | 5 => 4
  | _ => 8

/-- The format carries block scales. -/
def mScaled (ty xf : Nat) : Bool := if ty = 0 then decide (2 ≤ xf) else decide (3 ≤ ty) && xf == 1

/-- Elements per step (R350), and scale bytes per step (R351). -/
def MGeo.per (g : MGeo) : Nat := 2048 / mBits g.ty g.xf
def MGeo.scaleStep (g : MGeo) : Nat := if mScaled g.ty g.xf then 64 / mBits g.ty g.xf else 0

/-- Unmasked elements of a step (R351). -/
def MGeo.unmasked (g : MGeo) (i : Nat) : Nat := if i + 1 = g.ks then 32 * g.klw / mBits g.ty g.xf else g.per

/-- Step 4 of R352 on the substituted block. -/
def mFormatBad (e : Enc) (g : MGeo) : Bool :=
  bitsAt e.p0 0 5 != 0 || decide (1 < g.cin) || !mFormatOk g.ty g.xf || decide (1 < g.asp) || g.bsp == 3 ||
  bitsAt e.p1 18 7 != 0 || bitsAt e.p2 18 (if g.seeded then 5 else 7) != 0 || bitsAt e.p3 30 2 != 0 ||
  decide (64 < bitsAt e.p3 0 7) || g.astr == 0 || (g.asp == 0 && g.amem != 0) || (g.bsp == 0 && g.bmem != 0) ||
  (if g.seeded then bitsAt e.p2 23 1 != 0 || g.bstr != 0
   else g.bstr == 0 || bitsAt e.p3 7 7 != 0)

/-- The end of `rows` operand rows from an offset (R352 step 6). -/
def MGeo.rowsEnd (g : MGeo) (off rows stride : Nat) : Nat := off + (rows - 1) * 256 * stride + 256 * g.ks + g.ks * g.scaleStep

/-- The group whose scratchpad an operand names: the own one or a member's (R349). -/
def operandGroup (s : State) (g : Group) (space m : Nat) : Option Group :=
  if space = 1 then (s.members g.convoy)[m]? else some g

/-- The group's full scratchpad allotment (R292). -/
def fullScratch (s : State) (gr : Group) : Nat := match s.kernel? gr.kernel with | some k => k.scr | none => gr.scratch

/-- Step 6 of R352: a member index or cluster that does not exist, or an operand beyond the full allotment, which every group
of a kernel shares. -/
def mSpaceBad (s : State) (gr : Group) (g : MGeo) : Bool :=
  let memBad (sp m : Nat) : Bool := sp == 1 && ((operandGroup s gr 1 m).isNone || m / 4 != gr.member / 4)
  let full := fullScratch s gr
  memBad g.asp g.amem || memBad g.bsp g.bmem || decide (full < g.rowsEnd g.aoff g.m g.astr) ||
  decide (full < if g.seeded then g.boff + 128 * g.bb else g.rowsEnd g.boff g.n g.bstr)

/-- The descriptor of `ACLD` and `ACST` (R359): row stride in bytes, offset, and the size of an element. -/
def accDesc (b : Nat) : Nat × Nat := (16 * (b / 2 ^ 18), b % 2 ^ 18)
def accSize (op : Op) (ty : Nat) : Nat :=
  if op = .acld then 4 else match ty with | 0 => 4 | 1 | 2 => 2 | _ => 1
/-- The bytes of a tile image. -/
def accLen (stride size : Nat) : Nat := 63 * stride + 64 * size

/-! ### Posts -/

/-- The cluster of a core (R10). -/
def clusterOf (core : Nat) : Nat := core / 4

/-- A group's roll calls and tiles are in its cluster's engine: those of a context that is swapped out left with its image
(R357). -/
def State.inEngine (s : State) (g : Group) : Bool := (s.ctx g.ctx).st != .swapped

/-- Full roll calls of a cluster wait for a record (R343). -/
def State.fullCalls (s : State) (cl : Nat) : List (Nat × Group × RollCall) :=
  s.groups.flatMap fun g => if clusterOf g.core = cl && s.inEngine g then g.calls.filterMap fun c => c.full.map fun n => (n, g, c) else []

/-- A record of the cluster's table is free for a new post. -/
def State.tableRoom (s : State) (cl : Nat) : Bool := decide (s.tableUsed cl < 16) && (s.fullCalls cl).isEmpty

/-- Entering a task of some waves, which take the next number on a timeline each (R221, R344); the post releases their earlier
memory operations (R358, R369). The first wave gives class and deadline. -/
def State.enterTask (s : State) (cl : Nat) (op : Op) (e : Enc) (srcs : List DWord) (ws : List Wave) (team : Option Nat)
    (tl : Nat) (spans : List (Nat × Nat)) : State :=
  match ws with
  | [] => s
  | w :: _ =>
    let (id, s) := s.freshUid
    let t : Task :=
      { id, cl, op, e, srcs, ctx := w.ctx, sup := s.waveSup w, kernel := w.kernel, group := w.group, team, tl,
        members := ws.map fun x => (x.uid, x.nextNum tl), cls := w.cls, dl := w.dl, st := .queued, prog := 0, begun := false,
        flags := 0, coef := none, vals := [], cancel := false, failed := none, parked := none, parkVa := 0,
        after := ws.flatMap fun x => (s.drainSet x 0xFFFFFFFF).map fun k => (x.uid, k), spans }
    ws.foldl (fun s x => s.modWave x.uid fun y => y.post tl) { s with tasks := s.tasks ++ [t] }

/-- The scratchpad bytes that a team instruction writes: `ACST`'s image (R273). -/
def teamSpans (g : Group) (op : Op) (e : Enc) (srcs : List DWord) : List (Nat × Nat) :=
  if op = .acst then
    let d := accDesc (srcs.getD 0 0).toNat
    [(g.uid, d.2 + accLen d.1 (accSize op e.ty.toNat))]
  else []

/-- A full roll call becomes a task, and every member but the one issuing is released (R343). -/
def State.postTeam (s : State) (g : Group) (rc : RollCall) (but : Nat) : State :=
  let ws := sortBy Wave.idx (rc.arrived.filterMap fun a => s.wave? a.1)
  let srcs := rc.srcs.take 2
  let s := s.enterTask (clusterOf g.core) rc.op rc.e srcs ws (some rc.team) 4 (teamSpans g rc.op rc.e srcs)
  let s := s.modGroup g.uid fun x => { x with calls := x.calls.filter fun c => c.team != rc.team }
  rc.arrived.foldl (fun s a => if a.1 = but then s else completeSplit s a.1 a.2 rc.e.form.words) s

/-- Arriving at the roll call of a team (R343). `srcs` holds the content's values. An arrival opens the roll call whether or not
another member has already exited, as the table's first row says. -/
def Issue.arriveTeam (i : Issue) (s : State) (g : Group) (t n : Nat) (e : Enc) (srcs : List DWord) : Res :=
  let bad (s : State) : Res := .trap (i.plainTrap .team) (s.abortCall g.uid t i.w.uid)
  let me := (i.w.uid, i.sp.num)
  match g.calls.find? fun c => c.team == t with
    | some rc =>
      if rc.op != i.op || rc.e != e || rc.srcs != srcs || rc.arrived.any (fun a => a.1 == i.w.uid) then bad s
      else
        let rc := { rc with arrived := rc.arrived ++ [me] }
        if rc.arrived.length < n then .block .rollCall (put s rc)
        else if s.tableRoom (clusterOf g.core) then .done (s.postTeam g rc i.w.uid)
        else
          let (k, s) := s.freshUid
          .block .rollCall (put s { rc with full := some k })
    | none => .block .rollCall (put s { team := t, op := i.op, e, srcs, arrived := [me], full := none })
where
  /-- Recording the roll call of a team. -/
  put (s : State) (rc : RollCall) : State :=
    s.modGroup g.uid fun x => { x with calls := x.calls.filter (fun c => c.team != rc.team) ++ [rc] }

/-- Steps 2 and 3 of R352, then the instruction's own checks. -/
def Issue.onTeam (i : Issue) (s : State) (tile : Nat) (k : Group → Nat → Nat → Res) : Res :=
  match s.group? i.w.group, s.teamOf i.w with
  | some g, some (t, n) => if 2 * n ≤ tile then .trap (i.plainTrap .bounds) s else k g t n
  | _, _ => .trap (i.plainTrap .team) s

/-- The count field of `MPOST`'s P0 (R348). -/
def mpostCounts : List CountField := [⟨14, 11, 1, 2046⟩]

/-- The traps of a substituted `MPOST`, steps 4 to 6 of R352: cause and address. -/
def mpostTrap (s : State) (gr : Group) (e : Enc) (g : MGeo) : Option (Cause × Nat) :=
  if mFormatBad e g then some (.format, 0)
  else if g.aoff % 16 != 0 then some (.align, g.aoff)
  else if g.boff % 16 != 0 then some (.align, g.boff)
  else if mSpaceBad s gr g then some (.space, g.aoff)
  else none

/-- The scalar values that the members of a team must agree on beside the instruction's words and the substituted block, which the
roll call holds as `e` (R342, R343): k0 and the seed. -/
def Issue.mpostSrcs (i : Issue) (e : Enc) : List DWord :=
  let k0 := BitVec.ofNat 64 (i.sA false)
  let seed : DWord := if (mGeo e [k0, 0]).seeded then i.sp.spair (bitsAt e.p2 23 7) else 0
  [k0, seed]

/-- R348-R352. -/
def execMpost (e : Enc) (s : State) : Out := runOnce .mpost e s fun i s =>
  i.onTeam s i.e.d.toNat fun gr t n =>
    match i.subBlock mpostCounts (2 ^ 14 - 1) with
    | none => .trap (i.plainTrap .format) s
    | some e => match mpostTrap s gr e (mGeo e [BitVec.ofNat 64 (i.sA false), 0]) with
      | some x => .trap (i.plainTrap x.1 x.2) s
      | none => i.arriveTeam s gr t n e (i.mpostSrcs e)

/-- The traps of `ACLD` and `ACST` in their order (R359): cause and address. -/
def Issue.accTrap (i : Issue) (gr : Group) : Option (Cause × Nat) :=
  let d := accDesc (i.sB false)
  let sz := accSize i.op i.e.ty.toNat
  if d.1 < 64 * sz then some (.format, 0)
  else if d.2 % 16 != 0 then some (.align, d.2)
  else if gr.scratch < d.2 + accLen d.1 sz then some (.space, d.2)
  else none

/-- `ACLD` and `ACST` (R359). -/
def Issue.accOp (i : Issue) (s : State) (tile : Nat) : Res :=
  i.onTeam s tile fun gr t n =>
    match i.accTrap gr with
    | some x => .trap (i.plainTrap x.1 x.2) s
    | none => i.arriveTeam s gr t n i.e [BitVec.ofNat 64 (i.sB false)]

/-- R359, R360. -/
def execAclr (e : Enc) (s : State) : Out := runOnce .aclr e s fun i s =>
  i.onTeam s i.e.d.toNat fun gr t n => i.arriveTeam s gr t n i.e []
/-- R359, R360. -/
def execAcld (e : Enc) (s : State) : Out := runOnce .acld e s fun i s => i.accOp s i.e.d.toNat
/-- R359, R360. -/
def execAcst (e : Enc) (s : State) : Out := runOnce .acst e s fun i s => i.accOp s i.e.a.toNat

/-- R343: a record is free, and the roll call that became full first is served. -/
def tryRollCallFullServe (cl : Nat) (s : State) : Option State :=
  match sortBy (fun x => x.1) ((s.fullCalls cl).filter fun x => (s.ctx x.2.1.ctx).st == .running) with
  | [] => none
  | (_, g, rc) :: _ =>
    if 16 ≤ s.tableUsed cl then none
    else some (s.postTeam g rc (s.nextUid + 1))
/-- The step of `tryRollCallFullServe`. -/
def execRollCallFullServe (cl : Nat) (s : State) : Out := made s (tryRollCallFullServe cl s)

/-! ### Tasks -/

/-- A task of the tables. -/
def State.task? (s : State) (id : Nat) : Option Task := s.tasks.find? fun t => t.id == id

/-- Changing a task. -/
def State.modTask (s : State) (id : Nat) (f : Task → Task) : State :=
  { s with tasks := s.tasks.map fun t => if t.id = id then f t else t }

/-- A task leaves the table (R345, R362): its number completes on every member, and a team task's flags go to the members. -/
def State.taskLeave (s : State) (t : Task) (failed : Option (Cause × Nat)) : State :=
  let (no, s) := (if failed.isSome then s.freshUid else (0, s) : Nat × State)
  let s := { s with tasks := s.tasks.filter fun x => x.id != t.id }
  t.members.foldl (fun s m =>
    let s := if t.team.isSome then s.modWave m.1 fun w => { w with efl := w.efl ||| (t.flags &&& 0x7F#8) } else s
    s.tlDone m.1 t.kernel t.tl m.2 (failed.map fun f => (no, f))) s

/-- The task of a wave's team with a number on its tl4. -/
def State.teamTask? (s : State) (u num : Nat) : Option Task :=
  s.tasks.find? fun t => t.team.isSome && t.members.contains (u, num)

/-- The code of a task's state (R345). -/
def TaskState.code : TaskState → Nat
  | .queued => 1 | .running => 2 | .parked => 3 | .suspended p => if p then 3 else 1

/-- R361, R362. -/
def execMstat (e : Enc) (s : State) : Out := runOnce .mstat e s fun i s =>
  let u := (i.sp.spair i.e.b.toNat).toNat
  let t := s.teamTask? i.w.uid u
  if i.e.opx.toNat = 0 then
    let st := match t with
      | some t => t.st.code
      | none => if 1 ≤ u && u ≤ (i.w.tl 4).posted then 4 else 0
    i.sca s false ((i.w.efl &&& 0x7F#8).toNat * 2 ^ 8 + st)
  else i.sca s false (match t with | some t => t.prog | none => 0xFFFFFFFF)

/-- R363. -/
def execMcncl (e : Enc) (s : State) : Out := runOnce .mcncl e s fun i s =>
  match s.teamTask? i.w.uid (i.sp.spair i.e.b.toNat).toNat with
  | none => .done s
  | some t => if t.begun then .done (s.modTask t.id fun t => { t with cancel := true }) else .done (s.taskLeave t none)

/-! ### Tiles and the arbiter -/

/-- The task takes passes of the matrix engine: `BEAM` does not (R394). -/
def Task.passes (t : Task) : Bool := t.op != .beam

/-- A task is the oldest of its team, or of its wave's scan and generate tasks (R344, R369). -/
def State.headTask (s : State) (t : Task) : Bool :=
  !s.tasks.any fun x => x.cl == t.cl && x.passes && decide (x.id < t.id) && x.team == t.team &&
    (if t.team.isSome then x.group == t.group else x.members.map (·.1) == t.members.map (·.1))

/-- A binding's tiles are in the engine (R357). -/
def State.bindHeld (s : State) (b : TileBind) : Bool :=
  match s.group? b.group with | some g => s.inEngine g | none => true

/-- A binding still stands (R346): a member wave is not EMPTY, or a task of the team remains. -/
def State.bindStands (s : State) (b : TileBind) : Bool :=
  s.waves.any (fun w => w.group == b.group && w.idx / (b.count / 2) == b.team) ||
  s.tasks.any fun t => t.group == b.group && t.team == some b.team

/-- The binding of a task's team. -/
def State.bind? (s : State) (t : Task) : Option TileBind :=
  s.tiles.find? fun b => b.cl == t.cl && b.group == t.group && t.team == some b.team

/-- The next task for which tiles can be bound: the oldest first. -/
def State.bindNext (s : State) (cl : Nat) : Option Task :=
  let used := (s.tiles.filter fun b => b.cl == cl && s.bindStands b && s.bindHeld b).foldl (fun n b => n + b.count) 0
  s.tasks.find? fun t => t.cl == cl && t.team.isSome && t.st == .queued && s.headTask t && (s.bind? t).isNone &&
    (s.ctx t.ctx).st == .running && decide (used + 2 * t.members.length ≤ 16)

/-- R346: the first task of a team binds 2n free tiles, every element +0. -/
def tryTileBind (cl : Nat) (s : State) : Option State :=
  match s.bindNext cl with
  | none => none
  | some t =>
    let b : TileBind := { cl, group := t.group, team := t.team.getD 0, count := 2 * t.members.length, tiles := [] }
    some { s with tiles := s.tiles.filter s.bindStands ++ [b] }
/-- The step of `tryTileBind`. -/
def execTileBind (cl : Nat) (s : State) : Out := made s (tryTileBind cl s)

/-- Every memory operation that the post released is performed. -/
def State.taskReleased (s : State) (t : Task) : Bool := t.after.all fun x => s.afterDone x.1 [x.2]

/-- A task is eligible for a pass (R344, R346, R347). -/
def State.eligible (s : State) (t : Task) : Bool :=
  t.passes && (t.st == .queued || t.st == .running) && !t.begun && s.headTask t && s.taskReleased t &&
  (s.ctx t.ctx).st == .running && (t.team.isNone || (s.bind? t).isSome)

/-- The lowest class code among tasks. -/
def lowestClass (l : List Nat) : Nat := l.foldl min 4

/-- The passes without a grant of a cluster's class. -/
def State.passCount (s : State) (cl c : Nat) : Nat :=
  match s.mcount.find? fun x => x.1 == cl && x.2.1 == c with | some x => x.2.2 | none => 0

/-- A class is owed the next pass (R347): it has waited for 64 passes. -/
def State.passOwed (s : State) (cl c : Nat) : Bool := s.mowed.contains (cl, c) || decide (64 ≤ s.passCount cl c)

/-- The arbiter's choice (R347): a class that is owed a pass, else the highest class, then the oldest task. -/
def State.grantPass (s : State) (cl : Nat) : Option Task :=
  let el := s.tasks.filter fun t => t.cl == cl && s.eligible t
  let owed := (el.map Task.cls).filter fun c => s.passOwed cl c
  let c := if owed.isEmpty then lowestClass (el.map Task.cls) else lowestClass owed
  el.find? fun t => t.cls == c

/-- Counting a pass granted to a class (R347): the other classes with an eligible task wait one pass more. -/
def State.countPass (s : State) (cl granted : Nat) : State :=
  let has (c : Nat) : Bool := s.tasks.any fun t => t.cl == cl && s.eligible t && t.cls == c
  let next := ([1, 2, 3].filter fun c => c != granted && has c).map fun c => (cl, c, s.passCount cl c + 1)
  { s with mcount := (s.mcount.filter fun x => x.1 != cl) ++ next, mowed := s.mowed.filter fun x => x != (cl, granted) }

/-- R347: a class below REALTIME has waited for 64 passes. -/
def tryMatrixClassOwed (cl cls : Nat) (s : State) : Option State :=
  if 64 ≤ s.passCount cl cls && !s.mowed.contains (cl, cls) then some { s with mowed := s.mowed ++ [(cl, cls)] }
  else none
/-- The step of `tryMatrixClassOwed`. -/
def execMatrixClassOwed (cl cls : Nat) (s : State) : Out := made s (tryMatrixClassOwed cl cls s)

/-! ### Operands -/

/-- A range of a group's scratchpad that a step needs: whether it waits for full granules (R355), and whether it is written, so
that no byte of it is read. -/
structure Need where
  g   : Option Group
  off : Nat
  n   : Nat
  fe  : Bool
  out : Bool

/-- The rows of an operand at a step (R351, R355): their element bytes and scale bytes. -/
def MGeo.rowNeeds (g : MGeo) (i : Nat) (gr : Option Group) (off rows stride : Nat) (fe : Bool) : List Need :=
  let u := g.unmasked i
  (List.range rows).flatMap fun r =>
    let base := off + 256 * stride * r
    [{ g := gr, off := base + 256 * i, n := u * mBits g.ty g.xf / 8, fe, out := false }] ++
    (if mScaled g.ty g.xf then
      [{ g := gr, off := base + 256 * g.ks + g.scaleStep * i, n := (u + 31) / 32, fe, out := false }] else [])

/-- The columns of a coefficient row that are read, in bytes (R354, R367). -/
def coefBytes (n cfmt : Nat) : Nat := if cfmt = 0 then 2 * n else n

/-- The coefficient rows of an offset. -/
def coefNeeds (gr : Option Group) (off bb n cfmt : Nat) : List Need :=
  (List.range bb).map fun b => { g := gr, off := off + 128 * b, n := coefBytes n cfmt, fe := false, out := false }

/-- What the next step of a team task needs. -/
def teamNeeds (s : State) (t : Task) : List Need :=
  match s.group? t.group with
  | none => []
  | some gr =>
    match t.op with
    | .mpost =>
      let g := mGeo t.e t.srcs
      g.rowNeeds t.prog (operandGroup s gr g.asp g.amem) g.aoff g.m g.astr g.afe ++
      (if g.seeded then (if t.coef.isNone then coefNeeds (some gr) g.boff g.bb g.n g.cfmt else [])
       else g.rowNeeds t.prog (operandGroup s gr g.bsp g.bmem) g.boff g.n g.bstr g.bfe)
    | .acld | .acst =>
      let d := accDesc (t.srcs.getD 0 0).toNat
      [{ g := some gr, off := d.2, n := accLen d.1 (accSize t.op t.e.ty.toNat), fe := false, out := t.op == .acst }]
    | _ => []

/-- Whether a step may begin (R355). -/
inductive Avail where
  | ok | wait | fail (c : Cause) (addr : Nat)
  deriving DecidableEq

/-- One range: it lies in the allotment and its granules are full, or it is waited for, or it can never be read. What lies beyond
the allotment waits for the grant only as far as the grant will raise it (R273). The failing address is that of the first element
that can not be read (R225). -/
def availOf (s : State) (x : Need) : Avail :=
  match x.g with
  | none => .fail .space x.off
  | some g =>
    if g.scratch < x.off + x.n then
      if g.granted then .fail .space (max x.off g.scratch)
      else if g.scratchTarget < x.off + x.n then .fail .space (max x.off (max g.scratch g.scratchTarget))
      else .wait
    else if let some k := (if x.out then none else (scratchWords x.off x.n).find? fun k => g.bad.contains k) then
      .fail .ecc (max x.off (4 * k))
    else if x.fe && !s.isFull (.spd g.uid x.off) x.n then .wait else .ok

/-- All ranges of a step: a failure first, then a wait. -/
def availAll (s : State) (l : List Need) : Avail :=
  let r := l.map (availOf s)
  match r.find? fun a => match a with | .fail .. => true | _ => false with
  | some f => f
  | none => if r.contains .wait then .wait else .ok

/-! ### The basis and coefficients -/

/-- R92: the generator's initial state for a seed, a column and a block, and its step. -/
def genInit (seed b j : Nat) : DWord :=
  let st : DWord := BitVec.ofNat 64 seed ^^^ BitVec.ofNat 64 (0x9E3779B97F4A7C15 * (b + 1)) ^^^
    BitVec.ofNat 64 (0xD1B54A32D192ED03 * j)
  if st = 0 then 1 else st
def lfsrStep (st : DWord) : DWord := if st.getLsbD 0 then (st >>> 1) ^^^ 0xD800000000000000#64 else st >>> 1
def lfsrRun (st : DWord) : Nat → DWord
  | 0 => st
  | n + 1 => lfsrRun (lfsrStep st) n

/-- The sign S[k][b] is -1 (R92). -/
def basisNeg (seed b k : Nat) : Bool := (lfsrRun (genInit seed b (k / 256)) (k % 256)).getLsbD 0

/-- Coefficient C[b][n] of a snapshot (R354). -/
def coefOf (cfmt n b c : Nat) (l : List Byte) : Val :=
  let at_ (k : Nat) : Nat := (l.getD k 0).toNat
  let row := b * coefBytes n cfmt
  if cfmt = 0 then decodeF bf16 (at_ (row + 2 * c) + 256 * at_ (row + 2 * c + 1)) else decodeF e4m3 (at_ (row + c))

/-- The exact value of a seeded element (R365), with its `NV`. -/
def seededVal (seed bb cfmt n : Nat) (coef : List Byte) (k c : Nat) : Val × Bool :=
  exactSum .ne ((List.range bb).map fun b =>
    let v := coefOf cfmt n b c coef
    if basisNeg seed b k then v.negate else v)

/-- The bytes of a range of a group's scratchpad. -/
def spdBytes (g : Group) (off n : Nat) : List Byte := (List.range n).map fun k => byteAt g.mem (off + k)

/-- The snapshot of coefficient rows (R354, R368). -/
def coefSnap (gr : Group) (off bb n cfmt : Nat) : List Byte :=
  (List.range bb).flatMap fun b => spdBytes gr (off + 128 * b) (coefBytes n cfmt)

/-! ### Steps -/

/-- Code of element `k` of a byte list, `bits` wide (R68, R71). -/
def codeAt (bits : Nat) (l : List Byte) (k : Nat) : Nat :=
  let at_ (j : Nat) : Nat := (l.getD j 0).toNat
  match bits with
  | 16 => at_ (2 * k) + 256 * at_ (2 * k + 1)
  | 8 => at_ k
  | _ => if k % 2 = 0 then at_ (k / 2) % 16 else at_ (k / 2) / 16

/-- The values of pairs of Q4X slots (R73), and whether an odd escape was met. -/
def q4Row (data scales : List Byte) (u : Nat) : List Val × Bool :=
  (List.range (u / 2)).foldl (fun acc p =>
    let r := q4Pair (scales.getD (2 * p / 32) 0).toNat (codeAt 4 data (2 * p)) (codeAt 4 data (2 * p + 1))
    (acc.1 ++ [r.1, r.2.1], acc.2 || r.2.2)) ([], false)

/-- The unmasked elements of a row at a step, decoded exactly (R350, R351), with their `FMTX`. -/
def rowVals (g : MGeo) (gr : Group) (off i : Nat) : List Val × Bool :=
  let u := g.unmasked i
  let bits := mBits g.ty g.xf
  let data := spdBytes gr (off + 256 * i) (u * bits / 8)
  let scales := if mScaled g.ty g.xf then spdBytes gr (off + 256 * g.ks + g.scaleStep * i) ((u + 31) / 32) else []
  let each (f : Nat → Nat → Val) : List Val × Bool :=
    ((List.range u).map fun k => f (codeAt bits data k) (scales.getD (k / 32) 0).toNat, false)
  match g.ty, g.xf with
  | 0, 0 => each fun c _ => .ofInt (readInt true 8 c)
  | 0, 1 => each fun c _ => .ofInt (readInt true 4 c)
  | 0, 2 => each fun c x => mxDecode 3 c x
  | 0, _ => q4Row data scales u
  | 3, 1 => each fun c x => mxDecode 0 c x
  | 4, 1 => each fun c x => mxDecode 1 c x
  | 5, 1 => each fun c x => mxDecode 2 c x
  | ty, _ => each fun c _ => decodeF (fmtOf ty) c

/-- The key of an element of a team's tiles. -/
def tileKey (tile m n : Nat) : Nat := tile * 4096 + m * 64 + n

/-- One element of a step (R353): the accumulator plus the exact products, rounded once, with its flags. -/
def stepElem (acc : Nat) (a b : List Val) : FRes :=
  let ps := (a.zip b).map fun x => x.1.mul x.2
  let t := exactSum .ne (decodeF fp32 acc :: ps.map (·.1))
  let r := roundNe fp32 t.1
  ⟨r.bits, r.fl ||| (if t.2 || ps.any (·.2) then flNV else 0)⟩

/-- Changing the binding of a team. -/
def State.modBind (s : State) (t : Task) (f : TileBind → TileBind) : State :=
  { s with tiles := s.tiles.map fun b => if b.cl == t.cl && b.group == t.group && t.team == some b.team then f b else b }

/-- `CIN` = 0 zeroes the task's elements of its tile before the first step's operands are fetched (R353). -/
def State.zeroTile (s : State) (t : Task) : State :=
  let g := mGeo t.e t.srcs
  if t.op = .mpost && g.cin = 0 && t.prog = 0 then
    s.modBind t fun b =>
      { b with tiles := sfilter (fun k => k / 4096 != g.tile || g.m ≤ k % 4096 / 64 || g.n ≤ k % 64) b.tiles }
  else s

/-- A step of `MPOST` on a team's tiles (R353): the new tiles and the flags. -/
def mpostStep (s : State) (t : Task) (gr : Group) (tiles : Sparse Word) : Sparse Word × Byte :=
  let g := mGeo t.e t.srcs
  let coef := t.coef.getD []
  let rowOf (sp m off : Nat) : List Val × Bool := match operandGroup s gr sp m with
    | some x => rowVals g x off t.prog
    | none => ([], false)
  let as_ := (List.range g.m).map fun m => rowOf g.asp g.amem (g.aoff + 256 * g.astr * m)
  let bs := (List.range g.n).map fun n =>
    if g.seeded then
      let l := (List.range (g.unmasked t.prog)).map fun k =>
        seededVal g.seed g.bb g.cfmt g.n coef (g.k0 + t.prog * g.per + k) n
      (l.map (·.1), l.any (·.2), false)
    else
      let r := rowOf g.bsp g.bmem (g.boff + 256 * g.bstr * n)
      (r.1, false, r.2)
  let fl : Byte := (if as_.any (·.2) || bs.any (·.2.2) then flFMTX else 0) ||| (if bs.any (·.2.1) then flNV else 0)
  ((List.range g.m).zip as_).foldl (fun acc ma =>
    ((List.range g.n).zip bs).foldl (fun (acc : Sparse Word × Byte) nb =>
      let key := tileKey g.tile ma.1 nb.1
      let r := stepElem (sget 0 acc.1 key).toNat ma.2.1 nb.2.1
      (sset 0 acc.1 key (BitVec.ofNat 32 r.bits), acc.2 ||| r.fl)) acc) (tiles, fl)

/-- The formats of `ACST` and `SEEDGEN` (R360, R370). -/
def outFmt : Nat → Fmt
  | 0 => fp32 | 1 => fp16 | 2 => bf16 | 3 => e4m3 | _ => e5m2

/-- Storing an element of a task in the group's scratchpad. -/
def State.spdStore (s : State) (g off v n : Nat) : State := s.writePlace (.spd g off) v n

/-- Setting full the granules of a range that lies in one row of a written image (R188). A granule that the task writes in
part is set too once those bytes are written. A word written whole is good again (log 37). -/
def State.spdFull (s : State) (g off n : Nat) : State :=
  (s.setFull (.spd g off) n true).modGroup g fun gr =>
    { gr with bad := gr.bad.filter fun k => !(decide (off ≤ 4 * k) && decide (4 * k + 4 ≤ off + n)) }

/-- `ACST`'s stores (R360), with the flags of the conversions. -/
def acstStore (s : State) (t : Task) (g : Nat) (tiles : Sparse Word) : State × Byte :=
  let d := accDesc (t.srcs.getD 0 0).toNat
  let sz := accSize .acst t.e.ty.toNat
  let tile := t.e.a.toNat
  let r := (List.range 4096).foldl (fun (acc : State × Byte) k =>
    let x := roundF (outFmt t.e.ty.toNat) t.e.rnd t.e.sat (decodeF fp32 (sget 0 tiles (tile * 4096 + k)).toNat)
    (acc.1.spdStore g (d.2 + d.1 * (k / 64) + sz * (k % 64)) x.bits sz, acc.2 ||| x.fl)) (s, 0)
  ((List.range 64).foldl (fun s row => s.spdFull g (d.2 + d.1 * row) (64 * sz)) r.1, r.2)

/-- `ACLD`'s loads (R360). -/
def acldLoad (t : Task) (gr : Group) (tiles : Sparse Word) : Sparse Word :=
  let d := accDesc (t.srcs.getD 0 0).toNat
  (List.range 4096).foldl (fun m k =>
    sset 0 m (t.e.d.toNat * 4096 + k) (BitVec.ofNat 32 (readLe gr.mem (d.2 + d.1 * (k / 64) + 4 * (k % 64)) 4))) tiles

/-- The step of a team task (R353, R360): the state and the flags raised. -/
def teamStep (s : State) (t : Task) : State × Byte :=
  match s.group? t.group, s.bind? t with
  | some gr, some b =>
    match t.op with
    | .mpost =>
      let r := mpostStep s t gr b.tiles
      (s.modBind t fun b => { b with tiles := r.1 }, r.2)
    | .aclr => (s.modBind t fun b => { b with tiles := sfilter (fun k => k / 4096 != t.e.d.toNat) b.tiles }, 0)
    | .acld => (s.modBind t fun b => { b with tiles := acldLoad t gr b.tiles }, 0)
    | _ => acstStore s t gr.uid b.tiles
  | _, _ => (s, 0)

/-- The steps of a team task (R345). -/
def teamSteps (t : Task) : Nat := if t.op = .mpost then (mGeo t.e t.srcs).ks else 1

end Sys2Proof.Machine
end

