-- ==== Sys2Proof/Machine/Seeded.lean ====
section
/-! DEFINITION. Scan and generate tasks (R369-R374), and the passes of the matrix engines (R345, R347, R355, R356). -/

namespace Sys2Proof.Machine

/-! ### Blocks -/

/-- A substituted `SEEDSCAN` block with its sources (R371). -/
structure ScanGeo where
  k0   : Nat
  seed : Nat
  k    : Nat
  toff : Nat
  ooff : Nat
  col  : Nat
  tl   : Nat
  size : Nat

def scanGeo (e : Enc) (srcs : List DWord) : ScanGeo :=
  { k0 := (srcs.getD 0 0).toNat, seed := (srcs.getD 1 0).toNat, k := bitsAt e.p0 8 17, toff := bitsAt e.p1 0 18,
    ooff := bitsAt e.p2 0 18, col := bitsAt e.p3 8 6, tl := bitsAt e.p3 6 2, size := if e.ty = 0 then 4 else 2 }

/-- A substituted `SEEDGEN` block with its sources (R373). -/
structure GenGeo where
  k0   : Nat
  seed : Nat
  k    : Nat
  n    : Nat
  coff : Nat
  ooff : Nat
  ostr : Nat
  bb   : Nat
  cfmt : Nat
  tl   : Nat
  size : Nat

def genGeo (e : Enc) (srcs : List DWord) : GenGeo :=
  { k0 := (srcs.getD 0 0).toNat, seed := (srcs.getD 1 0).toNat, k := bitsAt e.p0 13 12, n := bitsAt e.p0 6 7,
    coff := bitsAt e.p1 0 18, ooff := bitsAt e.p2 0 18, ostr := bitsAt e.p3 22 8, bb := bitsAt e.p3 8 6 + 1,
    cfmt := bitsAt e.p3 7 1, tl := bitsAt e.p3 5 2, size := (outFmt e.ty.toNat).width / 8 }

/-- The generator blocks that a k range touches (R364, R369). -/
def blocksOf (k0 k : Nat) : Nat := (k0 + k - 1) / 256 - k0 / 256 + 1

/-- The elements of a k range that lie in its block `j`: the first and the end. -/
def blockSpan (k0 k j : Nat) : Nat × Nat :=
  let b := k0 / 256 + j
  (256 * b - k0, min k (256 * b + 256 - k0))

/-! ### Posts -/

/-- Waiting for room, then posting a task that one wave posts alone (R222, R369). -/
def Issue.postAlone (i : Issue) (s : State) (e : Enc) (srcs : List DWord) (tl : Nat) (spans : List (Nat × Nat)) : Res :=
  let cl := clusterOf i.w.core
  match s.wave? i.w.uid with
  | none => .done s
  | some w =>
    if 64 ≤ (w.tl tl).open_.length then .block (.roomTl tl) s
    else if !s.tableRoom cl then .block (.roomTable cl) s
    else .done (s.enterTask cl i.op e srcs [w] none tl spans)

/-- The sources k0 and seed (R370). -/
def Issue.seedSrcs (i : Issue) : List DWord := [BitVec.ofNat 64 (i.sA false), i.sp.spair i.e.b.toNat]

/-- The count field of `SEEDSCAN`'s P0 (R371). -/
def scanCounts : List CountField := [⟨8, 17, 1, 131070⟩]

/-- The traps of a substituted `SEEDSCAN`, in their order (R371): cause and address. -/
def scanTrap (s : State) (gr : Group) (e : Enc) (g : ScanGeo) : Option (Cause × Nat) :=
  if bitsAt e.p0 0 8 != 0 || bitsAt e.p1 18 14 != 0 || bitsAt e.p2 18 14 != 0 || bitsAt e.p3 14 18 != 0 ||
      bitsAt e.p3 0 6 != 0 || decide (2 ^ 32 < g.k0 + g.k) then some (.format, 0)
  else if g.toff % 16 != 0 then some (.align, g.toff)
  else if g.ooff % 16 != 0 then some (.align, g.ooff)
  else if fullScratch s gr < g.toff + g.k * g.size then some (.space, g.toff)
  else if fullScratch s gr < g.ooff + 80 then some (.space, g.ooff)
  else none

/-- R370-R372. -/
def execSeedscan (e : Enc) (s : State) : Out := runOnce .seedscan e s fun i s =>
  match i.subBlock scanCounts (2 ^ 8 - 1), s.group? i.w.group with
  | some e, some gr =>
    let g := scanGeo e i.seedSrcs
    match scanTrap s gr e g with
    | some t => .trap (i.plainTrap t.1 t.2) s
    | none => i.postAlone s e i.seedSrcs g.tl [(gr.uid, g.ooff + 80)]
  | _, _ => .trap (i.plainTrap .format) s

/-- The end of `SEEDGEN`'s output (R373). -/
def GenGeo.outEnd (g : GenGeo) : Nat := g.ooff + (g.n - 1) * 256 * g.ostr + g.k * g.size

/-- The count field of `SEEDGEN`'s P0 (R373). -/
def genCounts : List CountField := [⟨13, 12, 1, 4094⟩]

/-- The traps of a substituted `SEEDGEN`, in their order (R373): cause and address. -/
def genTrap (s : State) (gr : Group) (e : Enc) (g : GenGeo) : Option (Cause × Nat) :=
  if bitsAt e.p0 0 6 != 0 || bitsAt e.p1 18 14 != 0 || bitsAt e.p2 18 14 != 0 || bitsAt e.p3 30 2 != 0 ||
      bitsAt e.p3 14 8 != 0 || bitsAt e.p3 0 5 != 0 || g.n == 0 || decide (64 < g.n) || g.ostr == 0 ||
      decide (256 * g.ostr < g.k * g.size) || decide (2 ^ 32 < g.k0 + g.k) then some (.format, 0)
  else if g.coff % 16 != 0 then some (.align, g.coff)
  else if g.ooff % 16 != 0 then some (.align, g.ooff)
  else if fullScratch s gr < g.coff + 128 * g.bb then some (.space, g.coff)
  else if fullScratch s gr < g.outEnd then some (.space, g.ooff)
  else none

/-- R370, R373, R374. -/
def execSeedgen (e : Enc) (s : State) : Out := runOnce .seedgen e s fun i s =>
  match i.subBlock genCounts (2 ^ 13 - 1), s.group? i.w.group with
  | some e, some gr =>
    let g := genGeo e i.seedSrcs
    match genTrap s gr e g with
    | some t => .trap (i.plainTrap t.1 t.2) s
    | none => i.postAlone s e i.seedSrcs g.tl [(gr.uid, g.outEnd)]
  | _, _ => .trap (i.plainTrap .format) s

/-! ### Steps -/

/-- One of `SEEDSCAN`'s sums (R372): the dot product of the target with a basis column, rounded once. -/
def scanSum (g : ScanGeo) (vals : List Nat) (i : Nat) : Nat :=
  let sd := (g.seed + i) % 2 ^ 64
  let f := if g.size = 4 then fp32 else bf16
  (roundNe fp32 (exactSum .ne (((List.range vals.length).zip vals).map fun kv =>
    let v := decodeF f kv.2
    if basisNeg sd g.col (g.k0 + kv.1) then v.negate else v)).1).bits

/-- The lowest index of the greatest magnitude; a NaN ranks below every number (R372). -/
def scanBest (r : List Nat) : Nat :=
  let mag (i : Nat) : Val := (decodeF fp32 (r.getD i 0)).abs
  (List.range r.length).foldl (fun best i =>
    if (mag best).isNan && !(mag i).isNan then i
    else if !(mag i).isNan && cmpVal false (mag i) (mag best) > 0 then i else best) 0

/-- The 80 bytes that `SEEDSCAN` writes (R372), as a number. -/
def scanOut (g : ScanGeo) (vals : List Nat) : Nat :=
  let r := (List.range 16).map (scanSum g vals)
  let best := scanBest r
  packElems 32 r + (g.seed + best) % 2 ^ 64 * 2 ^ 512 + best * 2 ^ 576

/-- What the next step of a scan or generate task needs (R355, R369): its inputs, and room for its output. -/
def seedNeeds (s : State) (t : Task) : List Need :=
  let gr := s.group? t.group
  if t.op = .seedscan then
    let g := scanGeo t.e t.srcs
    let b := blockSpan g.k0 g.k t.prog
    [{ g := gr, off := g.toff + b.1 * g.size, n := (b.2 - b.1) * g.size, fe := false, out := false },
     { g := gr, off := g.ooff, n := 80, fe := false, out := true }]
  else
    let g := genGeo t.e t.srcs
    (if t.coef.isNone then coefNeeds gr g.coff g.bb g.n g.cfmt else []) ++
    [{ g := gr, off := g.ooff, n := g.outEnd - g.ooff, fe := false, out := true }]

/-- A step of `SEEDSCAN`: the elements of one block are read; the last step writes the output. -/
def scanStep (s : State) (t : Task) (gr : Group) : State :=
  let g := scanGeo t.e t.srcs
  let b := blockSpan g.k0 g.k t.prog
  let vals := t.vals ++ (List.range (b.2 - b.1)).map fun k => readLe gr.mem (g.toff + (b.1 + k) * g.size) g.size
  let s := s.modTask t.id fun t => { t with vals }
  if t.prog + 1 = blocksOf g.k0 g.k then (s.spdStore gr.uid g.ooff (scanOut g vals) 80).spdFull gr.uid g.ooff 80 else s

/-- A step of `SEEDGEN` (R374): the elements of one block in every column, and the granules that are then written. -/
def genStep (s : State) (t : Task) (gr : Group) : State :=
  let g := genGeo t.e t.srcs
  let b := blockSpan g.k0 g.k t.prog
  (List.range g.n).foldl (fun s n =>
    let row := g.ooff + n * 256 * g.ostr
    let s := (List.range (b.2 - b.1)).foldl (fun s k =>
      let v := (seededVal g.seed g.bb g.cfmt g.n (t.coef.getD []) (g.k0 + b.1 + k) n).1
      s.spdStore gr.uid (row + (b.1 + k) * g.size) (roundF (outFmt t.e.ty.toNat) t.e.rnd t.e.sat v).bits g.size) s
    let first := b.1 * g.size / 16 * 16
    let last := if b.2 = g.k then g.k * g.size else b.2 * g.size / 16 * 16
    if first < last then s.spdFull gr.uid (row + first) (last - first) else s) s

/-! ### Passes -/

/-- What the next step of a task needs. -/
def taskNeeds (s : State) (t : Task) : List Need := if t.team.isSome then teamNeeds s t else seedNeeds s t

/-- The steps of a task: k-steps, or generator blocks (R345, R369). -/
def taskSteps (t : Task) : Nat :=
  match t.op with
  | .seedscan => let g := scanGeo t.e t.srcs; blocksOf g.k0 g.k
  | .seedgen => let g := genGeo t.e t.srcs; blocksOf g.k0 g.k
  | _ => teamSteps t

/-- Executing the step that a task has begun: the state and the flags raised (R362, R369). -/
def taskStep (s : State) (t : Task) : State × Byte :=
  match s.group? t.group with
  | none => (s, 0)
  | some gr => match t.op with
    | .seedscan => (scanStep s t gr, 0)
    | .seedgen => (genStep s t gr, 0)
    | _ => teamStep s t

/-- The coefficient snapshot that a task takes when it first becomes RUNNING (R354, R368, R374). -/
def taskSnap (s : State) (t : Task) : Option (List Byte) :=
  match t.coef, s.group? t.group with
  | none, some gr => match t.op with
    | .mpost =>
      let g := mGeo t.e t.srcs
      if g.seeded then some (coefSnap gr g.boff g.bb g.n g.cfmt) else none
    | .seedgen => let g := genGeo t.e t.srcs; some (coefSnap gr g.coff g.bb g.n g.cfmt)
    | _ => none
  | c, _ => c

/-- No task of a cluster has begun a step. -/
def State.engineFree (s : State) (cl : Nat) : Bool := !s.tasks.any fun t => t.cl == cl && t.begun

/-- R345, R347, R355: the arbiter grants a pass; a task whose operands are not available parks or fails instead. -/
def tryMatrixPass (cl : Nat) (s : State) : Option State :=
  if !s.engineFree cl then none
  else match s.grantPass cl with
    | none => none
    | some t =>
      let s := s.zeroTile t
      match availAll s (taskNeeds s t) with
      | .fail c a => some (s.taskLeave t (some (c, a)))
      | .wait => some (s.modTask t.id fun t => { t with st := .parked })
      | .ok =>
        let coef := taskSnap s t
        some ((s.countPass cl t.cls).modTask t.id fun t => { t with st := .running, begun := true, coef })
/-- The step of `tryMatrixPass`. -/
def execMatrixPass (cl : Nat) (s : State) : Out := made s (tryMatrixPass cl s)

/-- R345, R353, R363: the step that has begun completes. -/
def tryMatrixStepComplete (cl : Nat) (s : State) : Option State :=
  match s.tasks.find? fun t => t.cl == cl && t.begun with
  | none => none
  | some t => match availAll s (taskNeeds s t) with
    | .fail c a => some (s.taskLeave t (some (c, a)))
    | _ =>
      let r := taskStep s t
      let s := r.1.modTask t.id fun t => { t with prog := t.prog + 1, flags := t.flags ||| r.2, begun := false }
      match s.task? t.id with
      | none => some s
      | some t => some (if t.cancel || taskSteps t ≤ t.prog then s.taskLeave t none else s)
/-- The step of `tryMatrixStepComplete`. -/
def execMatrixStepComplete (cl : Nat) (s : State) : Out := made s (tryMatrixStepComplete cl s)

/-- R345: the operands that a PARKED task waits for are available, or can never be. -/
def tryMatrixOperandAvailable (cl id : Nat) (s : State) : Option State :=
  match s.task? id with
  | none => none
  | some t =>
    if t.cl != cl || t.st != .parked || !t.passes || (s.ctx t.ctx).st != .running then none
    else match availAll s (taskNeeds s t) with
      | .wait => none
      | _ => some (s.modTask id fun t => { t with st := .queued })
/-- The step of `tryMatrixOperandAvailable`. -/
def execMatrixOperandAvailable (cl id : Nat) (s : State) : Out := made s (tryMatrixOperandAvailable cl id s)

end Sys2Proof.Machine
end

