-- ==== Sys2Proof/Machine/Rays.lean ====
section
/-! DEFINITION. Rays and beams: the BVH formats (R384-R386), the exact traversal and triangle test (R387-R390), `TRACE`, `BEAM` and
`HITLD`, and the steps in which rays and beams finish (R391-R396). -/

namespace Sys2Proof.Machine

/-! ### Exact arithmetic -/

/-- A finite FP32 code as an integer in units of 2^-149; none for a NaN or an infinity. -/
def rayInt (bits : Nat) : Option Int :=
  match decodeF fp32 bits with
  | .fin n m e => let x : Int := (m * 2 ^ (e + 149).toNat : Nat); some (if n then -x else x)
  | _ => none

/-- An exact quotient with a positive denominator. -/
structure Frac where
  n : Int
  d : Nat
  deriving DecidableEq, Repr

def Frac.le (a b : Frac) : Bool := decide (a.n * b.d ≤ b.n * a.d)

/-- The quotient of two integers, the second not zero. -/
def Frac.of (n d : Int) : Frac := if d < 0 then ⟨-n, d.natAbs⟩ else ⟨n, d.natAbs⟩

/-- The FP32 code nearest to a quotient (R388). -/
def Frac.round (a : Frac) : Nat := (roundNe fp32 (quotVal (decide (a.n < 0)) a.n.natAbs a.d 0)).bits

/-- A point or direction in units of 2^-149. -/
structure V3 where
  x : Int
  y : Int
  z : Int
  deriving DecidableEq, Repr

def V3.sub (a b : V3) : V3 := ⟨a.x - b.x, a.y - b.y, a.z - b.z⟩
def V3.dot (a b : V3) : Int := a.x * b.x + a.y * b.y + a.z * b.z
def V3.cross (a b : V3) : V3 := ⟨a.y * b.z - a.z * b.y, a.z * b.x - a.x * b.z, a.x * b.y - a.y * b.x⟩

/-- Three finite codes as a point. -/
def v3Of (x y z : Nat) : Option V3 :=
  match rayInt x, rayInt y, rayInt z with
  | some a, some b, some c => some ⟨a, b, c⟩
  | _, _, _ => none

/-- A ray segment (R387); no `tmax` is +Inf. -/
structure Ray where
  o : V3
  d : V3
  tmin : Frac
  tmax : Option Frac

/-- The ray of eight FP32 codes; none is a ray that misses (R387). -/
def rayOf (l : List Nat) : Option Ray :=
  let c (k : Nat) : Nat := l.getD k 0
  match v3Of (c 0) (c 1) (c 2), v3Of (c 3) (c 4) (c 5), rayInt (c 6), decodeF fp32 (c 7) with
  | some o, some d, some t0, .inf false => some ⟨o, d, ⟨t0, 2 ^ 149⟩, none⟩
  | some o, some d, some t0, .fin n m e =>
    let x : Int := (m * 2 ^ (e + 149).toNat : Nat)
    let t1 : Int := if n then -x else x
    if t0 ≤ t1 then some ⟨o, d, ⟨t0, 2 ^ 149⟩, some ⟨t1, 2 ^ 149⟩⟩ else none
  | _, _, _, _ => none

/-- The range of parameters in which a coordinate lies in an interval: no range, every parameter, or from one to another. -/
def axisSpan (o d lo hi : Int) : Option (List Frac × List Frac) :=
  if d = 0 then (if lo ≤ o && o ≤ hi then some ([], []) else none)
  else if 0 < d then some ([Frac.of (lo - o) d], [Frac.of (hi - o) d])
  else some ([Frac.of (hi - o) d], [Frac.of (lo - o) d])

/-- The segment meets a closed box (R387). -/
def Ray.meets (r : Ray) (lo hi : V3) : Bool :=
  match axisSpan r.o.x r.d.x lo.x hi.x, axisSpan r.o.y r.d.y lo.y hi.y, axisSpan r.o.z r.d.z lo.z hi.z with
  | some x, some y, some z =>
    let lows := r.tmin :: (x.1 ++ y.1 ++ z.1)
    let highs := (match r.tmax with | some t => [t] | none => []) ++ x.2 ++ y.2 ++ z.2
    lows.all fun a => highs.all fun b => a.le b
  | _, _, _ => false

/-- A hit before rounding, with the address of its block. -/
structure Hit where
  t : Frac
  u : Frac
  v : Frac
  front : Bool
  inst : Nat
  geom : Nat
  prim : Nat
  addr : Nat

/-- R388: the triangle test; t, u and v of a hit, and `front`. -/
def triHit (r : Ray) (v0 v1 v2 : V3) : Option (Frac × Frac × Frac × Bool) :=
  let e1 := v1.sub v0
  let e2 := v2.sub v0
  let s := r.o.sub v0
  let p := r.d.cross e2
  let det := e1.dot p
  if det = 0 then none
  else
    let q := s.cross e1
    let u := Frac.of (s.dot p) det
    let v := Frac.of (r.d.dot q) det
    let t := Frac.of (e2.dot q) det
    let inT := r.tmin.le t && (match r.tmax with | some x => t.le x | none => true)
    if 0 ≤ u.n && 0 ≤ v.n && u.n + v.n ≤ u.d && inT then some (t, u, v, decide (0 < det)) else none

/-- R389: the first hit is the closer one. -/
def Hit.before (a b : Hit) : Bool :=
  if !(b.t.le a.t) then true
  else if !(a.t.le b.t) then false
  else if a.inst != b.inst then decide (a.inst < b.inst)
  else if a.geom != b.geom then decide (a.geom < b.geom)
  else if a.prim != b.prim then decide (a.prim < b.prim)
  else decide (a.addr < b.addr)

/-- Words 0 to 5 of a hit record (R390). -/
def hitWords : Option Hit → List Nat
  | none => [0x7F800000, 0, 0, 0, 0, 0]
  | some h => [h.t.round, h.u.round, h.v.round, h.prim, h.geom * 2 ^ 8 + (if h.front then 2 else 0) + 1, h.inst]

/-! ### Traversal -/

/-- Why a ray stops before it finishes: an earlier operation of the thread holds its read, it waits for service, or it
fails (R392). -/
inductive RayStop where
  | held
  | wait (va : Nat) (x : Xl)
  | fail (c : Cause) (va : Nat)

/-- What a read of an engine has touched: the place, its bytes, and the translation used. -/
structure Touch where
  place : Place
  size  : Nat
  tlb   : Option Tlb

/-- Reading a piece of `glb` for a ray or a pixel, with what it touches. -/
abbrev RayReader := Nat → Except RayStop (Nat × Touch)

/-- Reading `n` pieces from an address (R392), as a number. -/
def readPieces (rd : RayReader) (a : Nat) : Nat → Except RayStop (Nat × List Touch)
  | 0 => .ok (0, [])
  | n + 1 => match readPieces rd a n with
    | .error e => .error e
    | .ok (x, l) => match rd (a + 16 * n) with
      | .error e => .error e
      | .ok (y, t) => .ok (x + y * 2 ^ (128 * n), l ++ [t])

/-- The progress of a traversal: what it has read, the best hit, and why it stopped. -/
structure Trav where
  read : List Touch
  best : Option Hit
  stop : Option RayStop

/-- `n` bytes of a record from byte `lo`. -/
def recAt (x lo n : Nat) : Nat := x / 2 ^ (8 * lo) % 2 ^ (8 * n)

/-- Kind, block count minus one, and index of a child (R384). -/
def childKind (x c : Nat) : Nat := recAt x (32 + 2 * c) 2 / 2 ^ 14
def childCount (x c : Nat) : Nat := recAt x (32 + 2 * c) 2 / 2 ^ 10 % 16
def childIndex (x c : Nat) : Nat := recAt x (32 + 2 * c) 2 % 2 ^ 10

/-- A node is malformed (R386). -/
def nodeBad (x : Nat) : Bool :=
  recAt x 96 32 != 0 || recAt x 15 1 != 0 || recAt x 24 8 / 2 ^ 57 != 0 || recAt x 16 8 / 2 ^ 57 != 0 ||
  recAt x 16 8 % 128 != 0 || recAt x 24 8 % 64 != 0 ||
  ((List.range 8).any fun c => childKind x c == 3 || (childKind x c == 1 && childCount x c != 0)) ||
  ((List.range 3).any fun k => recAt x (12 + k) 1 == 255 || (rayInt (recAt x (4 * k) 4)).isNone)

/-- A bound of child box `c` on axis `k` (R384); `h` is 0 for the low one. -/
def boxBound (x c k h : Nat) : Int :=
  (rayInt (recAt x (4 * k) 4)).getD 0 + (recAt x (48 + 6 * c + 2 * k + h) 1 * 2 ^ (recAt x (12 + k) 1 + 22) : Nat)

/-- The segment meets the box of a child. -/
def childMet (r : Ray) (x c : Nat) : Bool :=
  let at_ (h : Nat) : V3 := ⟨boxBound x c 0 h, boxBound x c 1 h, boxBound x c 2 h⟩
  r.meets (at_ 0) (at_ 1)

/-- A triangle block's vertex (R385). -/
def blockVertex (x k : Nat) : Option V3 := v3Of (recAt x (12 * k) 4) (recAt x (12 * k + 4) 4) (recAt x (12 * k + 8) 4)

/-- Nothing more is traversed: the ray has stopped, or `.any` has its hit. -/
def Trav.over (any : Bool) (a : Trav) : Bool := a.stop.isSome || (any && a.best.isSome)

/-- The triangle block at an address (R385, R386, R388, R389). -/
def travBlock (rd : RayReader) (r : Ray) (any : Bool) (a : Trav) (addr : Nat) : Trav :=
  if a.over any then a
  else match readPieces rd addr 4 with
    | .error e => { a with stop := some e }
    | .ok (x, l) =>
      let a := { a with read := a.read ++ l }
      if recAt x 48 16 != 0 || recAt x 43 1 != 0 then { a with stop := some (.fail .format addr) }
      else match blockVertex x 0, blockVertex x 1, blockVertex x 2 with
        | some v0, some v1, some v2 => match triHit r v0 v1 v2 with
          | none => a
          | some (t, u, v, front) =>
            let h : Hit := { t, u, v, front, inst := recAt x 44 4, geom := recAt x 40 3, prim := recAt x 36 4, addr }
            match a.best with
            | none => { a with best := some h }
            | some b => if h.before b then { a with best := some h } else a
        | _, _, _ => a

/-- The node at an address, in the fixed order of R387; the fuel is the depth that is left (R386). -/
def travNode (rd : RayReader) (r : Ray) (any : Bool) : Nat → Nat → Trav → Trav
  | 0, addr, a => if a.over any then a else { a with stop := some (.fail .format addr) }
  | n + 1, addr, a =>
    if a.over any then a
    else match readPieces rd addr 8 with
      | .error e => { a with stop := some e }
      | .ok (x, l) =>
        let a := { a with read := a.read ++ l }
        if nodeBad x then { a with stop := some (.fail .format addr) }
        else (List.range 8).foldl (fun a c =>
          if a.over any || childKind x c == 0 || !childMet r x c then a
          else if childKind x c = 1 then travNode rd r any n (recAt x 16 8 + 128 * childIndex x c) a
          else (List.range (childCount x c + 1)).foldl (fun a j =>
            travBlock rd r any a (recAt x 24 8 + 64 * (childIndex x c + j))) a) a

/-- Tracing a ray of eight codes from a root: at most 32 nodes lie below the root on a path (R386). -/
def traceRay (rd : RayReader) (any : Bool) (root : Nat) (l : List Nat) : Trav :=
  match rayOf l with
  | none => ⟨[], none, none⟩
  | some r => travNode rd r any 33 root ⟨[], none, none⟩

/-- Caching the translations that reads used. -/
def State.fillTouched (s : State) (l : List Touch) : State := l.foldl (fun s t => match t.tlb with | some x => s.fill x | none => s) s

/-- The same for the reads of a thread's outstanding request, before which its earlier requests keep what they see (R193). -/
def State.touchAll (s : State) (w : Wave) (p : Pend) (thread : Nat) (l : List Touch) : State :=
  l.foldl (fun s t => s.keepOld w.uid p.seq thread t.place t.size) (s.fillTouched l)

/-! ### `TRACE` -/

/-- R391, R392. -/
def execTrace (e : Enc) (s : State) : Out := runInstr .trace e s fun i s =>
  let root := (i.sp.spair i.e.b.toNat).toNat
  if i.en = 0 then .done s
  else if root % 128 != 0 then .trap (maskTrap .align i.en root false) s
  else if 2 ^ 57 ≤ root then .trap (maskTrap .space i.en root false) s
  else
    let rays := (lanesOf i.en).map fun t => (t, (List.range 8).map fun k => (i.w.vreg (i.e.a.toNat + k) t).toNat)
    let sup := if s.waveSup i.w then 1 else 0
    let (seq, s) := s.freshUid
    .done (addPend s i seq i.en (.vec i.e.d.toNat 6) (.token (tokenOf i.e))
      (.trace (i.e.opx == 1) root sup rays))

/-- A read of `n` bytes that an agent makes for a thread (R392, R407): an `rlx` read of the thread at the place of its
instruction. -/
def threadRead (s : State) (ag : TlbAt) (w : Wave) (p : Pend) (sup : Bool) (t va n : Nat) : Except RayStop (Nat × Touch) :=
  match s.group? w.group with
  | none => .error (.fail .space va)
  | some g =>
    let read (pl : Place) (tlb : Option Tlb) : Except RayStop (Nat × Touch) :=
      let a : Acc := { thread := t, va, size := n, place := pl, data := 0, data2 := 0 }
      if !mayReturn s w p a then .error .held
      else match s.placeBad a with
        | some x => .error (.fail .ecc x)
        | none => .ok (s.readAcc { tid := w.idx * 32 + t, ins := p.seq } a, ⟨pl, n, tlb⟩)
    match resolve s w.ctx g 0 .load (n == 4) va n with
    | none => .error (.fail .space va)
    | some (.at pl) => read pl none
    | some .virt => match translate s ag none w.ctx va .read sup with
      | .ok tlb pa => read (pageData g.uid tlb va pa) (some tlb)
      | .fail c => .error (.fail c va)
      | x => .error (.wait va x)

/-- The reads of a thread's ray, by the ray unit of the wave's die. -/
def threadReader (s : State) (w : Wave) (p : Pend) (sup : Bool) (t : Nat) : RayReader := fun va =>
  threadRead s (.die (w.core / 128)) w p sup t va 16

/-- A thread's outstanding engine read fails; an uncorrectable datum retires its frame (R250). -/
def State.pendFail (s : State) (w : Wave) (p : Pend) (t : Nat) (c : Cause) (va : Nat) : State :=
  (if c = .ecc then s.retireAt w.ctx va else s).modWave w.uid fun w => w.failPend p.seq t c va

/-- A thread's outstanding engine read waits for service as an agent, or fails where nothing can serve it (R240). -/
def State.pendPark (s : State) (w : Wave) (p : Pend) (t agent : Nat) (va : Nat) (x : Xl) : State :=
  match parkFor s w.ctx va .read (engineAgent agent) x with
  | .error c => s.pendFail w p t c va
  | .ok (k, s) => s.modWave w.uid fun w => w.waitPend p.seq t k va

/-- The address at which a thread's service failed. -/
def Pend.lostVa (p : Pend) (t : Nat) : Nat := (p.waits.find? fun x => x.1 == t).elim 0 fun x => x.2.2

/-- R392: a ray finishes, fails, or waits for service. -/
def tryRayComplete (u seq thread : Nat) (s : State) : Option State :=
  match s.wave? u with
  | none => none
  | some w => match w.pend.find? fun p => p.seq == seq with
    | none => none
    | some p => match p.body with
      | .trace any root sup rays => match rays.find? fun r => r.1 == thread with
        | none => none
        | some r =>
          if w.halted || (s.ctx w.ctx).st != .running || !p.free thread then none
          else if p.lostAt thread then some (s.pendFail w p thread .page (p.lostVa thread))
          else
            let t := traceRay (threadReader s w p (sup == 1) thread) any root r.2
            let s := s.touchAll w p thread t.read
            match t.stop with
            | some .held => none
            | some (.wait va x) => some (s.pendPark w p thread 5 va x)
            | some (.fail c va) => some (s.pendFail w p thread c va)
            | none =>
              let x := packElems 32 (hitWords t.best)
              some (s.modWave u fun w => (w.setDst p.dst p.sps thread x).clearPend seq thread)
      | _ => none
/-- The step of `tryRayComplete`. -/
def execRayComplete (u seq thread : Nat) (s : State) : Out := made s (tryRayComplete u seq thread s)

/-! ### `BEAM` -/

/-- The traps of a substituted `BEAM`, in their order (R393): cause and address. -/
def beamTrap (gr : Group) (e : Enc) (root : Nat) : Option (Cause × Nat) :=
  let doff := bitsAt e.p0 0 18
  let hoff := bitsAt e.p1 0 18
  if bitsAt e.p0 18 14 != 0 || bitsAt e.p1 18 14 != 0 || bitsAt e.p2 2 30 != 0 || e.p3 != 0 then some (.format, 0)
  else if doff % 16 != 0 then some (.align, doff)
  else if hoff % 16 != 0 then some (.align, hoff)
  else if root % 128 != 0 then some (.align, root)
  else if gr.scratch < doff + 64 then some (.space, doff)
  else if gr.scratch < hoff + 2048 then some (.space, hoff)
  else if 2 ^ 57 ≤ root then some (.space, root)
  else none

/-- R393. -/
def execBeam (e : Enc) (s : State) : Out := runOnce .beam e s fun i s =>
  match i.subBlock [] (2 ^ 32 - 1), s.group? i.w.group with
  | some e, some gr =>
    let root := i.sp.spair i.e.a.toNat
    match beamTrap gr e root.toNat with
    | some t => .trap (i.plainTrap t.1 t.2) s
    | none =>
      i.postAlone s e [root, (i.sp.sreg i.e.b.toNat).setWidth 64] (bitsAt e.p2 0 2) [(gr.uid, bitsAt e.p1 0 18 + 2048)]
  | _, _ => .trap (i.plainTrap .format) s

/-- The codes of a beam's pixel ray (R394). -/
def beamRay (desc : List Nat) (origin i j : Nat) : List Nat :=
  let c (k : Nat) : Nat := desc.getD k 0
  let half (k n : Nat) : Val := .fin false (2 * (origin / 2 ^ (16 * k) % 2 ^ 16 + n) + 1) (-1)
  let dir (k : Nat) : Nat :=
    (roundNe fp32 (exactSum .ne [decodeF fp32 (c (3 + k)), ((half 0 i).mul (decodeF fp32 (c (6 + k)))).1,
      ((half 1 j).mul (decodeF fp32 (c (9 + k)))).1]).1).bits
  [c 0, c 1, c 2, dir 0, dir 1, dir 2, c 12, c 13]

/-- The reads of a beam's rays: engine reads for the task's group (R392, R395). -/
def taskReader (s : State) (t : Task) : RayReader := fun va =>
  match engReach s t.ctx t.group t.sup 0 .load .read false va 16 with
  | .fail c => .error (.fail c va)
  | .wait x => .error (.wait va x)
  | .ok p tlb => .ok (s.readAcc outside { thread := 0, va, size := 16, place := p, data := 0, data2 := 0 }, ⟨p, 16, tlb⟩)

/-- The rays of a beam that have not finished, in the order of their records: what was read, the records of all finished
rays, and why the beam stopped. -/
def beamRays (s : State) (t : Task) (desc : List Nat) : List Touch × List Nat × Option RayStop :=
  ((List.range 64).drop t.vals.length).foldl (fun acc k =>
    match acc.2.2 with
    | some _ => acc
    | none =>
      let r := traceRay (taskReader s t) false (t.srcs.getD 0 0).toNat
        (beamRay desc (t.srcs.getD 1 0).toNat (k % 8) (k / 8))
      (acc.1 ++ r.read, if r.stop.isSome then acc.2.1 else acc.2.1 ++ [packElems 32 (hitWords r.best)], r.stop)) ([], t.vals, none)

/-- What a beam needs of its group's scratchpad (R355, R369): its descriptor until it has been read, and room for its records. -/
def beamNeeds (g : Group) (t : Task) : List Need :=
  let need (off n : Nat) (out : Bool) : Need := { g := some g, off, n, fe := false, out }
  (if t.coef.isNone then [need (bitsAt t.e.p0 0 18) 64 false] else []) ++ [need (bitsAt t.e.p1 0 18) 2048 true]

/-- The descriptor's words as the task's snapshot holds them. -/
def beamDesc (l : List Byte) : List Nat :=
  (List.range 16).map fun k => (List.range 4).foldl (fun x j => x + (l.getD (4 * k + j) 0).toNat * 2 ^ (8 * j)) 0

/-- R394, R395: a beam reads its descriptor, traces its rays, and writes all records; or it waits, keeping the rays that have
finished, or it fails. -/
def tryBeamComplete (op : Nat) (s : State) : Option State :=
  match s.task? op with
  | none => none
  | some t => match s.group? t.group with
    | none => none
    | some g =>
      let ready := t.st == .queued || (t.st == .parked && t.parked == some .ready)
      if t.op != .beam || !ready || !s.taskReleased t || (s.ctx t.ctx).st != .running then none
      else match availAll s (beamNeeds g t) with
      | .fail c a => some (s.taskLeave t (some (c, a)))
      | .wait => none
      | .ok =>
        let snap := t.coef.getD (spdBytes g (bitsAt t.e.p0 0 18) 64)
        let desc := beamDesc snap
        if desc.getD 14 0 != 0 || desc.getD 15 0 != 0 then some (s.taskLeave t (some (.format, bitsAt t.e.p0 0 18)))
        else
          let r := beamRays s t desc
          let s := s.fillTouched r.1
          match r.2.2 with
          | some (.fail c va) => some ((if c = .ecc then s.retireAt t.ctx va else s).taskLeave t (some (c, va)))
          | some (.wait va x) => match parkFor s t.ctx va .read (engineAgent 5) x with
            | .error c => some (s.taskLeave t (some (c, va)))
            | .ok (k, s) => some (s.modTask op fun t =>
                { t with st := .parked, parked := some k, parkVa := va, coef := some snap, vals := r.2.1 })
          | some .held => none
          | none =>
            let hoff := bitsAt t.e.p1 0 18
            let x := packElems 256 r.2.1
            some (((s.spdStore g.uid hoff x 2048).spdFull g.uid hoff 2048).taskLeave t none)
/-- The step of `tryBeamComplete`. -/
def execBeamComplete (op : Nat) (s : State) : Out := made s (tryBeamComplete op s)

/-! ### `HITLD` -/

/-- The request of a `HITLD`, and the record that each thread reads. -/
def hitldAsk : MemAsk := { kind := .read, use := .load, space := 1, plain := false, watched := false, again := false, eccLen := some 24 }
def hitldAccs (i : Issue) : List Acc := (lanesOf i.en).map fun t =>
  accAt t ((i.a false t + i.src i.e.bk i.e.b false (immSx i.e 32) t) % 2 ^ 32) 32 0 0

/-- R396: a record's words 0 to 3 and 4 to 5 as two accesses. -/
def execHitld (e : Enc) (s : State) : Out := runInstr .hitld e s fun i s =>
  let later (a : Acc) : Acc := { a with va := a.va + 16, size := 8, place := match a.place with
    | .spd g off => .spd g (off + 16)
    | p => p }
  if i.en = 0 then .done s
  else memRun i s hitldAsk (hitldAccs i) false (fun s oks _ _ =>
    if oks.isEmpty then (s, none) else
    let (x, s) := s.freshUid
    let (y, s) := s.freshUid
    let s := addPend s i x (accMask oks) (.vec i.e.d.toNat 4) .ld (.load 0 0 2 (oks.map fun a => { a with size := 16 }))
    (addPend s i y (accMask oks) (.vec (i.e.d.toNat + 4) 2) .ld (.load 0 0 1 (oks.map later)), none)) .done

end Sys2Proof.Machine
end

