-- ==== Sys2Proof/Machine/Pages.lean ====
section
/-! DEFINITION. Page services: fault responses (R242, R243), ATS and PRI (R244, R245), invalidations (R246, R247), placement and
migration (R248, R249), and `XLATE`, `PHINT`, `TWFLUSH` (R251-R254). -/

namespace Sys2Proof.Machine

/-! ### Waking parked agents -/

/-- An access of an issued load translates again in the mode of its issue (R219, R246): it has a new place, waits for service, or
fails. Its failure traps at a `WAITK` that completes the load (R229), or, where it is ECC (R220), at the wave's next instruction
(log 92). -/
def State.reissueAcc (s : State) (w : Wave) (p : Pend) (a : Acc) : State :=
  let put (s : State) (pl : Place) : State := s.modWave w.uid fun w => w.modPend p.seq fun p =>
    { p with waits := p.waits.filter fun x => x.1 != a.thread
             body := match p.body with
               | .load o sc sz accs => .load o sc sz (accs.map fun b =>
                   if b.thread = a.thread && b.va = a.va then { b with place := pl } else b)
               | b => b }
  let again : State := match s.group? w.group with
    | none => s
    | some g => match translate s (.core w.core) none w.ctx a.va .read p.sup with
      | .ok t pa =>
        if !t.host && inDevice pa 1 && s.badAt pa a.size then s.pendFail w p a.thread .ecc a.va
        else put (s.fill t) (pageData g.uid t a.va pa)
      | .fail c => s.pendFail w p a.thread c a.va
      | x => match parkFor s w.ctx a.va .read (waveAgent w p.sp) x with
        | .ok (k, s) => s.modWave w.uid fun w => w.waitPend p.seq a.thread k a.va
        | .error c => s.pendFail w p a.thread c a.va
  match a.place with
  | .phys _ | .host _ | .det .. => if p.mask.getLsbD a.thread then again else s
  | _ => s

/-- The accesses of a load. -/
def Pend.accs (p : Pend) : List Acc := match p.body with | .load _ _ _ l => l | _ => []

/-- Reissuing every load of a context that has not returned (R219). -/
def State.reissueLoads (s : State) (c : Nat) : State :=
  (s.waves.filter fun w => w.ctx == c).foldl (fun s w => w.pend.foldl (fun s p =>
    p.accs.foldl (fun s a => s.reissueAcc w p a) s) s) s

/-- The outstanding writes of a wave after a service: a load's access translates again or fails; the others go on. -/
def State.wakePends (s : State) (w : Wave) (hit : ParkOn → Bool) (ok : Bool) : State :=
  w.pend.foldl (fun s p => (p.waits.filter fun x => hit x.2.1).foldl (fun s x =>
    match p.body with
    | .load .. =>
      if ok then (p.accs.filter fun a => a.thread == x.1).foldl (fun s a => s.reissueAcc w p a) s
      else s.modWave w.uid fun w => w.failPend p.seq x.1 .page x.2.2
    | _ => s.modWave w.uid fun w => w.waitPend p.seq x.1 (if ok then .ready else .failed) x.2.2) s) s

/-- Waking the waves of a context: their splits and their outstanding writes; `page` is the page whose service failed. A split
that waits for several pages replays or traps with the first that is answered (R243, R245); one that parked in a fetch goes on
as it stood. -/
def State.wakeWaves (s : State) (c : Nat) (hit : ParkOn → Bool) (ok : Bool) (page : Nat) : State :=
  (s.waves.filter fun w => w.ctx == c).foldl (fun s w =>
    (s.wakePends w hit ok).modWave w.uid fun w =>
      { w with splits := w.splits.map fun p => match p.st with
          | .parked k =>
            if !(hit k || p.also.any hit) then p
            else if !ok then { p with st := .parked .failed, also := [], lost := page }
            else match p.waiting with
              | some x => { p with st := .blocked x, also := [], waiting := none }
              | none => { p with st := if p.replay.isSome then .parked .ready else .ready, also := [] }
          | _ => p }) s

/-- A service of what some agents of a context wait for has succeeded or failed (R243, R245, R249): waves, engine
operations, beams, kernels, queues and packets, flows, frames, rendezvous records, and link operations at both ends. -/
def State.wake (s : State) (c : Nat) (hit : ParkOn → Bool) (ok : Bool) (page : Nat) : State :=
  let park (p : Option ParkOn) : Option ParkOn := match p with
    | some k => if hit k then some (if ok then .ready else .failed) else some k
    | none => none
  let isHit (p : Option ParkOn) : Bool := match p with | some k => hit k | none => false
  let s := s.wakeWaves c hit ok page
  let s := if ok then s else
    (s.ops.filter fun o => o.ctx == c && isHit o.parked).foldl (fun s o => s.opFailed o.id .page o.parkVa) s
  let ops : List EngOp := s.ops.map fun (o : EngOp) =>
    if o.ctx = c && isHit o.parked then
      (if ok then { o with parked := some .ready } else o)
    else o
  let kernels : List Kernel := s.kernels.map fun (k : Kernel) => if k.ctx = c then { k with parkedOn := park k.parkedOn } else k
  let queues : List Queue := s.queues.map fun (q : Queue) =>
    if q.ctx = c then
      { q with parkedOn := park q.parkedOn
               running := q.running.map fun (p : RPkt) => { p with parked := park p.parked } }
    else q
  let copies : List PktCopy := s.pktCopies.map fun (k : PktCopy) => if k.ctx = c then { k with parked := park k.parked } else k
  let onLink (k : Link) : Link :=
    { k with ops := k.ops.map fun (o : LinkOp) => if o.ctx = c then { o with parked := park o.parked } else o
             lparks := k.lparks.filterMap fun (x : Nat × ParkOn × Nat) =>
               if k.tctx = c && hit x.2.1 then (if ok then none else some (x.1, ParkOn.failed, x.2.2)) else some x }
  let onRdv (r : Rdv) : Rdv :=
    if r.ctx = c then
      { r with insts := (r.insts.map fun (x : RdvInst) => { x with parked := park x.parked }).filter fun x => x.parked != some .failed }
    else r
  let rdvs : List Rdv := (s.rdvs.map onRdv).filter fun r => !(r.detach && r.insts.isEmpty)
  let s : State := { s with ops, kernels, queues, pktCopies := copies, rdvs, links := s.links.map onLink }
  let s := (s.tasks.filter fun t => t.ctx == c && isHit t.parked).foldl (fun s t =>
    if ok then s.modTask t.id fun t => { t with parked := some .ready } else s.taskLeave t (some (.page, t.parkVa))) s
  let s := (s.flows.filter fun f => f.ctx == c && isHit f.parked).foldl (fun s f =>
    if ok then (s.modFlow f.num fun f => { f with parked := none }).runFlow f.num
    else (s.popPacket f.num).runFlow f.num) s
  (s.frames.filter fun f => f.ctx == c && isHit f.dirty).foldl (fun s f =>
    if ok then s.flushFrame f.id else s.modFrame f.id fun f => { f with dirty := none }) s

/-! ### Fault responses -/

/-- A response to an open, written record (R243); another is ignored. -/
def respond (slot seq : Nat) (ok : Bool) (s : State) : State :=
  match (s.ctx slot).frOpen.find? fun r => r.seq == seq && r.written with
  | some r =>
    (s.modCtx slot fun c => { c with frOpen := c.frOpen.filter fun r => r.seq != seq }).wake slot (fun k => k == .record seq) ok r.va
  | none => s

/-- R243: RETRY, for the record that the context's `fseq` holds (R440). -/
def tryFaultResponseRetry (slot seq : Nat) (s : State) : Option State :=
  if slot < 64 && (s.ctx slot).fseq.toNat == seq then some (respond slot seq true s) else none
/-- The step of `tryFaultResponseRetry`. -/
def execFaultResponseRetry (slot seq : Nat) (s : State) : Out := made s (tryFaultResponseRetry slot seq s)
/-- R243: FAIL, for the record that the context's `fseq` holds (R440). -/
def tryFaultResponseFail (slot seq : Nat) (s : State) : Option State :=
  if slot < 64 && (s.ctx slot).fseq.toNat == seq then some (respond slot seq false s) else none
/-- The step of `tryFaultResponseFail`. -/
def execFaultResponseFail (slot seq : Nat) (s : State) : Out := made s (tryFaultResponseFail slot seq s)

/-- R242: the first waiting record is written once its slot has been answered. -/
def tryFaultRecordDeferred (slot : Nat) (s : State) : Option State :=
  match (s.ctx slot).frOpen.find? fun r => !r.written with
  | none => none
  | some r =>
    if !(s.ctx slot).ringRoom r.seq then none
    else some ((s.modCtx slot fun c => { c with frOpen := c.frOpen.map fun x => if x.seq = r.seq then { x with written := true } else x }).writeRecord
      slot r)
/-- The step of `tryFaultRecordDeferred`. -/
def execFaultRecordDeferred (slot : Nat) (s : State) : Out := made s (tryFaultRecordDeferred slot s)

/-! ### ATS and PRI -/

/-- A wait for a page request (R245). -/
def onHostPage (va : Nat) (k : ParkOn) : Bool := k == .pri (va / 4096 * 4096)

/-- A wait for a translation (R244). -/
def onAts (va : Nat) (k : ParkOn) : Bool := k == .ats (va / 4096 * 4096)

/-- The bytes that a completion covers (R244): its first address and its size. -/
def atsSpan (ans : AtsAnswer) (page : Nat) : Nat × Nat :=
  let size := 2 ^ max 12 ans.logSize
  (page / size * size, size)

/-- A range that has been invalidated since a request was made meets a completion's bytes (R246). -/
def AtsReq.outdated (r : AtsReq) (x : Nat × Nat) : Bool := r.since.any fun i => decide (i.1 < x.1 + x.2) && decide (x.1 < i.1 + i.2)

/-- R244: a completion of the oldest request of the page returns and is cached at its own size, with the permissions granted.
That of a request from before an invalidation of what it covers is not used: the page has been asked for again, or is now (R246). -/
def tryAtsTranslationCompletion (slot va : Nat) (ans : AtsAnswer) (s : State) : Option State :=
  let page := va / 4096 * 4096
  match s.atsPend.find? fun x => x.ctx == slot && x.va == page with
  | none => none
  | some r =>
    let s := { s with atsPend := s.atsPend.erase r }
    let x := atsSpan ans page
    if r.stale then some s
    else if r.outdated x then some (s.askAts slot page)
    else
      let t : Tlb :=
        { holder := .io, ctx := slot, va := x.1, size := x.2, host := true, pa := ans.pa / x.2 * x.2, leaf := 0,
          grant := (if ans.read then 1 else 0) ||| (if ans.write then 2 else 0) ||| (if ans.exec then 4 else 0) }
      some ({ s with ats := t :: s.ats }.wake slot (onAts page) true page)
/-- The step of `tryAtsTranslationCompletion`. -/
def execAtsTranslationCompletion (slot va : Nat) (ans : AtsAnswer) (s : State) : Out := made s (tryAtsTranslationCompletion slot va ans s)

/-- Forgetting the translations of a host page, those of the waves' windows among them, so that it is translated again. -/
def State.forgetPage (s : State) (c va : Nat) : State :=
  { s with ats := s.ats.filter fun t => !t.covers c va, tlb := s.tlb.filter fun t => !(t.host && t.covers c va)
           waves := s.waves.map fun w => { w with tw := w.tw.filter fun kt => !(kt.2.host && kt.2.covers c va) } }

/-- A page request of a page that has been sent. -/
def State.priSent (s : State) (c va : Nat) : Bool := s.pri.any fun r => r.ctx == c && r.va == va / 4096 * 4096 && r.sent

/-- Removing a page request. -/
def State.dropPri (s : State) (c va : Nat) : State :=
  { s with pri := s.pri.filter fun r => !(r.ctx == c && r.va == va / 4096 * 4096) }

/-- R245: Success. -/
def tryPrgResponseSuccess (slot va : Nat) (s : State) : Option State :=
  if !s.priSent slot va then none
  else some (((s.dropPri slot va).forgetPage slot va).wake slot (onHostPage va) true va)
/-- The step of `tryPrgResponseSuccess`. -/
def execPrgResponseSuccess (slot va : Nat) (s : State) : Out := made s (tryPrgResponseSuccess slot va s)

/-- R245: Invalid Request. -/
def tryPrgResponseInvalidRequest (slot va : Nat) (s : State) : Option State :=
  if !s.priSent slot va then none
  else some ((s.dropPri slot va).wake slot (onHostPage va) false (va / 4096 * 4096))
/-- The step of `tryPrgResponseInvalidRequest`. -/
def execPrgResponseInvalidRequest (slot va : Nat) (s : State) : Out := made s (tryPrgResponseInvalidRequest slot va s)

/-- R245: Response Failure abandons every page request, and later ones fail until PRI is enabled again. -/
def tryPrgResponseFailure (slot va : Nat) (s : State) : Option State :=
  if !s.priSent slot va then none
  else
    let l := s.pri
    some (l.foldl (fun s r => s.wake r.ctx (onHostPage r.va) false r.va) { s with pri := [], priOff := true })
/-- The step of `tryPrgResponseFailure`. -/
def execPrgResponseFailure (slot va : Nat) (s : State) : Out := made s (tryPrgResponseFailure slot va s)

/-- R245: the host clears and sets PRI Enable, with an allocation. -/
def execPriReenable (alloc : Nat) (s : State) : Out := .next { s with priOff := false, priAlloc := alloc }

/-- R245: a page request that waited for the allocation is sent. -/
def tryPriRequestRelease (s : State) : Option State :=
  if s.priOff || s.priAlloc ≤ (s.pri.filter (·.sent)).length then none
  else match s.pri.find? fun r => !r.sent with
    | none => none
    | some r => some { s with pri := s.pri.map fun x => if x = r then { x with sent := true } else x }
/-- The step of `tryPriRequestRelease`. -/
def execPriRequestRelease (s : State) : Out := made s (tryPriRequestRelease s)

/-! ### Invalidations -/

/-- An access of a context lies in a range. -/
def inRange (base len : Nat) (a : Acc) : Bool := decide (a.va < base + len) && decide (base < a.va + a.size)

/-- An access was translated (R246): it does not lie in a window. -/
def Acc.translated (a : Acc) : Bool := match a.place with | .phys _ | .host _ | .det .. => true | _ => false

/-- The accesses with an old translation of a range (R246): issued stores, and loads of waves that run. -/
def State.oldAccesses (s : State) (c base len : Nat) : List Nat :=
  ((s.stores.filter fun m => m.ctx == c && m.acc.translated && inRange base len m.acc).map (·.seq)) ++
  ((s.waves.filter fun w => w.ctx == c && !w.halted).flatMap fun w =>
    (w.pend.filter fun p => p.accs.any fun a => p.mask.getLsbD a.thread && a.translated && inRange base len a).map (·.seq))

/-- Numbered accesses that are not performed; those of halted waves are reissued (R219). -/
def State.stillOpen (s : State) (l : List Nat) : Bool :=
  (s.stores.any fun m => l.contains m.seq) ||
  s.waves.any fun w => !w.halted && w.pend.any fun p => l.contains p.seq && p.mask != 0

/-- A waiting sc operation with an old translation executes again, with the accesses of its first issue (R205, R246). -/
def Split.replaySc (p : Split) (base len : Nat) : Split :=
  match p.st with
  | .blocked (.scDrain _ _ _ _ x) | .blocked (.scTick _ _ _ x) =>
    if x.accs.any fun a => a.translated && inRange base len a then p.againSc else p
  | _ => p

/-- The same for every wave of a context. -/
def State.againScs (s : State) (c base len : Nat) : State :=
  let again (w : Wave) : Wave := if w.ctx = c then { w with splits := w.splits.map fun p => p.replaySc base len } else w
  { s with waves := s.waves.map again }

/-- Starting an invalidation (R246): translations and pins of the range go at once; it completes when the old accesses
are performed. -/
def State.startInval (s : State) (c base len : Nat) (whom : InvalFor) : State :=
  let after := s.oldAccesses c base len
  let s := s.dropRange c base len
  let s := s.modCtx c fun x =>
    { x with pins := x.pins.filter fun p => !(decide (p.1 < base + len) && decide (base < p.1 + p.2)) }
  let s := s.againScs c base len
  let (id, s) := s.freshUid
  { s with inval := s.inval ++ [{ id, ctx := c, base, len, after, forWhom := whom }] }

/-- R246: an ATS Invalidate Request. -/
def tryAtsInvalidateRequest (slot va len : Nat) (s : State) : Option State :=
  if slot < 64 then some (s.startInval slot va len .host) else none
/-- The step of `tryAtsInvalidateRequest`. -/
def execAtsInvalidateRequest (slot va len : Nat) (s : State) : Out := made s (tryAtsInvalidateRequest slot va len s)

/-- R246, R440: a write of 1 to `ivgo`; while one is in progress the write has no effect. -/
def tryInvalidationStart (slot : Nat) (s : State) : Option State :=
  let c := s.ctx slot
  if 64 ≤ slot then none
  else if c.ivgo = 1 then some s
  else some ((s.modCtx slot fun c => { c with ivgo := 1 }).startInval slot c.ivbase.toNat c.ivlen.toNat .page)
/-- The step of `tryInvalidationStart`. -/
def execInvalidationStart (slot : Nat) (s : State) : Out := made s (tryInvalidationStart slot s)

/-- R246: the accesses that used old translations are performed. -/
def tryInvalidationComplete (id : Nat) (s : State) : Option State :=
  match s.inval.find? fun v => v.id == id with
  | none => none
  | some v =>
    if s.stillOpen v.after then none
    else
      let s := { s with inval := s.inval.filter fun x => x.id != id }
      match v.forWhom with
      | .host => some { s with out := s.out ++ [.invalidated v.ctx v.base v.len] }
      | .page => some (s.modCtx v.ctx fun c => { c with ivgo := 0 })
      | .split u n => match (s.wave? u).bind fun w => w.split? n with
        | none => some s
        | some p => match p.st with
          | .blocked (.inval k len) => some (if k = id then completeSplit s u n len else s)
          | _ => some s
/-- The step of `tryInvalidationComplete`. -/
def execInvalidationComplete (id : Nat) (s : State) : Out := made s (tryInvalidationComplete id s)

/-! ### Instructions -/

/-- R251, R252: the probe of the lowest enabled thread; its result returns with the loads. -/
def execXlate (e : Enc) (s : State) : Out := runInstr .xlate e s fun i s =>
  let off := match i.e.bk with
    | .imm => immSx i.e 64
    | _ => sext32 (i.sp.sreg i.e.b.toNat).toNat
  let va := ((i.sp.spair i.e.a.toNat).toNat + off) % 2 ^ 64
  if i.en = 0 then .done s
  else
    let hidden := decide (2 ^ 57 ≤ va) || (windowOf (s.ctx i.w.ctx) va).isSome
    let s := match walk s i.w.ctx va with
      | .leaf _ l => if !hidden && l.getLsbD 9 && (s.ats? i.w.ctx va).isNone then s.askAts i.w.ctx va else s
      | _ => s
    let (seq, s) := s.freshUid
    .done (addPend s i seq 1 (.sca i.e.d.toNat 2) .ld (.xlate va))

/-- The page that holds an address, for `PHINT`: first address and size. -/
def State.pageOf (s : State) (c va : Nat) : Option (Nat × Nat) :=
  if 2 ^ 57 ≤ va || (windowOf (s.ctx c) va).isSome then none
  else match walk s c va with
    | .leaf _ l => some (va / 2 ^ leafLog l * 2 ^ leafLog l, 2 ^ leafLog l)
    | _ => none

/-- Pinning a page within the budget, in MiB, or withdrawing the request (R253). -/
def Ctx.hint (c : Ctx) (pin : Bool) (page : Nat × Nat) : Ctx :=
  if !pin then { c with pins := c.pins.filter (· != page) }
  else if c.pins.contains page || c.pinbud * 2 ^ 20 < c.pins.foldl (fun n p => n + p.2) page.2 then c
  else { c with pins := c.pins ++ [page] }

/-- R253. -/
def execPhint (e : Enc) (s : State) : Out := runInstr .phint e s fun i s =>
  .done ((lanesOf i.en).foldl (fun s t => match s.pageOf i.w.ctx (i.a true t) with
    | some page => s.modCtx i.w.ctx fun c => c.hint (i.e.opx == 0) page
    | none => s) s)

/-- R254: an invalidation of the issuing context; the split waits for it. -/
def execTwflush (e : Enc) (s : State) : Out := runOnce .twflush e s fun i s =>
  let a := (i.sp.spair i.e.a.toNat).toNat
  let n := (i.sp.spair i.e.b.toNat).toNat
  let base := if n = 0 then 0 else min (2 ^ 57) (a / 4096 * 4096)
  let top := if n = 0 then 2 ^ 57 else min (2 ^ 57) ((a + n + 4095) / 4096 * 4096)
  let id := s.nextUid
  .block (.inval id i.len) (s.startInval i.w.ctx base (top - base) (.split i.w.uid i.sp.num))

/-! ### Placement and migration -/

/-- The leaf that maps an address: its level, the address of the entry, and the entry (R232). -/
def leafAt (s : State) (va : Nat) : Nat → Nat → Option (Nat × Nat × BitVec 64)
  | 0, table => entryAt 0 table fun _ => none
  | lvl + 1, table => entryAt (lvl + 1) table (leafAt s va lvl)
where
  /-- Reading the entry of a level and following a pointer. -/
  entryAt (lvl table : Nat) (next : Nat → Option (Nat × Nat × BitVec 64)) : Option (Nat × Nat × BitVec 64) :=
    let pa := table + 8 * (va / 2 ^ (12 + 9 * lvl) % 512)
    let e := s.phys64 pa
    if s.badAt pa 8 || !e.getLsbD 0 || s.entryBad lvl e then none
    else if e.getLsbD 2 then some (lvl, pa, e)
    else next (e.toNat % 2 ^ 52 / 2 ^ 12 * 2 ^ 12)

/-- The entries that hold a leaf (R232): the first one's address and their number. -/
def replicas (va lvl pa : Nat) (e : BitVec 64) : Nat × Nat :=
  let n := max 1 (2 ^ leafLog e / 2 ^ (12 + 9 * lvl))
  (pa - 8 * (va / 2 ^ (12 + 9 * lvl) % n), n)

/-- A frame overlaps one of a list. -/
def frameTaken (l : List (Nat × Nat)) (pa size : Nat) : Bool := l.any fun f => overlap f.1 f.2 pa size

/-- The frame may receive a page (R248): of the grant for a promotion, of the spill pool for a demotion, and free. -/
def State.frameFree (s : State) (spilled : Bool) (pa size : Nat) : Bool :=
  pa % size == 0 && !frameTaken s.placed pa size && !frameTaken s.retired pa size &&
  (if spilled then decide (s.mgmt.grantb ≤ pa) && decide (pa + size ≤ s.mgmt.grantb + s.mgmt.grants) && inDevice pa size
   else s.inSpill pa size)

/-- The page-table pages below a table of a level (R232): their addresses, the table's own among them. -/
def tablesFrom (s : State) : Nat → Nat → List Nat
  | 0, table => [table]
  | lvl + 1, table => table :: (List.range 512).flatMap fun k =>
      let e := s.phys64 (table + 8 * k)
      if !e.getLsbD 0 || e.getLsbD 2 || s.entryBad (lvl + 1) e then []
      else tablesFrom s lvl (e.toNat % 2 ^ 52 / 2 ^ 12 * 2 ^ 12)

/-- A range of frames holds a page-table page of some context (R249). -/
def State.holdsTable (s : State) (pa size : Nat) : Bool :=
  (s.ctxs.filter fun c => c.st != .empty).any fun c => (tablesFrom s 4 c.ptroot).any fun t => overlap t 4096 pa size

/-- The free device memory of firmware's grant, in bytes. -/
def State.freeGrant (s : State) : Nat :=
  s.mgmt.grants - (s.placed.filter fun f => s.mgmt.grantb ≤ f.1 && f.1 < s.mgmt.grantb + s.mgmt.grants).foldl
    (fun n f => n + f.2) 0

/-- The counter pool of a leaf that is counted (R248). -/
def countedIn (e : BitVec 64) : Option Nat :=
  if e.getLsbD 9 || aclsRate e = 0 && aclsPool e = 0 then none else some (aclsPool e)

/-- The leaf of a page, and its counter pool. -/
def State.leafOf (s : State) (c va : Nat) : Option (BitVec 64) := (leafAt s va 4 (s.ctx c).ptroot).map fun r => r.2.2
def State.poolOf (s : State) (c va : Nat) : Option Nat := (s.leafOf c va).bind countedIn

/-- The count of a page under its leaf: one of 2^rate accesses is counted (R248). -/
def PageCount.sampled (x : PageCount) (e : BitVec 64) : Nat := x.n / 2 ^ aclsRate e

/-- Firmware is to promote the page, or may demote it: the counts call for it, and a page to be demoted has not been counted in this
epoch (R248). -/
def State.wished (s : State) (c va : Nat) (up : Bool) (e : BitVec 64) : Bool :=
  s.wishes.contains (c, va, up) && (up || s.counts.all fun x => x.ctx != c || x.va != va || x.sampled e == 0)

/-- R249: firmware starts to migrate a page that its counts call for, to a free frame. It demotes a page only while free device
memory is short (R248), and never moves a page-table page. -/
def tryMigrationStart (slot va frame : Nat) (s : State) : Option State :=
  match leafAt s va 4 (s.ctx slot).ptroot with
  | none => none
  | some (lvl, pa, e) =>
    let z := leafLog e
    let size := 2 ^ z
    let base := va / size * size
    let old := leafFrame e z
    let spilled := !inDevice old 1
    if !s.wished slot base spilled e || e.getLsbD 9 || e.getLsbD 10 || s.isMigrating slot va ||
        (!spilled && s.badAt old size) || frameTaken s.retired old size ||
        (!spilled && (!Config.framesShort s.freeGrant || s.holdsTable old size)) ||
        !s.frameFree spilled frame size then none
    else
      let m : Migration :=
        { ctx := slot, va := base, size, entry := (replicas va lvl pa e).1, old := e, new := e - BitVec.ofNat 64 old + BitVec.ofNat 64 frame }
      some { s with migrating := s.migrating ++ [m], wishes := s.wishes.filter (· != (slot, base, spilled)), placed := (frame, size) :: s.placed }
/-- The step of `tryMigrationStart`. -/
def execMigrationStart (slot va frame : Nat) (s : State) : Out := made s (tryMigrationStart slot va frame s)

/-- Copying bytes between images of memory. -/
def copyCells (src dst : Sparse Byte) (a b n : Nat) : Sparse Byte :=
  let out := sfilter (fun k => !(decide (b ≤ k) && decide (k < b + n))) dst
  (src.filter fun kv => decide (a ≤ kv.1) && decide (kv.1 < a + n)).foldl (fun m kv => setByte m (kv.1 - a + b) kv.2) out

/-- Copying a page's frame (R249): a frame lies in device memory or in the spill pool. The copy writes whole sectors, which are good
again (R250). -/
def State.copyFrame (s : State) (a b n : Nat) : State :=
  let src := if inDevice a 1 then s.mem else s.hostMem
  let inside (k : Nat) : Bool := decide (b ≤ 64 * k) && decide (64 * k + 64 ≤ b + n)
  if inDevice b 1 then
    { s with mem := copyCells src s.mem a b n, badSectors := s.badSectors.filter fun k => !inside k
             badFill := s.badFill.filter fun x => !inside x.1, lostLines := s.lostLines.filter fun k => !inside k }
  else { s with hostMem := copyCells src s.hostMem a b n }

/-- What outstanding reads have kept of a frame (R193) follows its bytes to another frame. -/
def State.moveShadow (s : State) (a b n : Nat) : State :=
  let kind (x : Nat) : Nat := if inDevice x 1 then 0 else 1
  { s with shadow := s.shadow.map fun x =>
      if x.kind == kind a && x.owner == 0 && decide (a ≤ 16 * x.block) && decide (16 * x.block < a + n) then
        { x with kind := kind b, block := (16 * x.block - a + b) / 16 }
      else x }

/-- R249: the page is copied, the leaf is replaced by compare-and-swap, and parked agents replay, waiting sc operations among them; a
changed leaf abandons the migration. -/
def tryMigrationCommit (slot va : Nat) (s : State) : Option State :=
  match s.migrating.find? fun m => m.ctx == slot && m.va == va with
  | none => none
  | some m =>
    if s.stillOpen (s.oldAccesses slot m.va m.size) then none
    else
      let z := leafLog m.old
      let old := leafFrame m.old z
      let new := leafFrame m.new z
      let s := ({ s with migrating := s.migrating.filter fun x => x != m } : State).againScs slot m.va m.size
      let lost (f : Nat) (s : State) : State := { s with placed := s.placed.filter fun x => x != (f, m.size) }
      let s :=
        if s.phys64 m.entry = m.old then
          let n := max 1 (match leafAt s m.va 4 (s.ctx slot).ptroot with
            | some (lvl, _, _) => m.size / 2 ^ (12 + 9 * lvl)
            | none => 1)
          let s := (s.copyFrame old new m.size).moveShadow old new m.size
          let s := (List.range n).foldl (fun s k => s.poke (m.entry + 8 * k) 8 m.new.toNat) s
          lost old (s.dropRange slot m.va m.size)
        else lost new s
      some (s.wake slot (fun k => match k with
        | .migrating p => decide (m.va ≤ p) && decide (p < m.va + m.size)
        | _ => false) true m.va)
/-- The step of `tryMigrationCommit`. -/
def execMigrationCommit (slot va : Nat) (s : State) : Out := made s (tryMigrationCommit slot va s)

/-- Threshold, age and epoch of a counter pool (R439). -/
def State.pool (s : State) (k : Nat) : Nat × Nat × Nat :=
  let x := (s.mgmt.pools.getD k 0).toNat
  (x / 2 ^ 32, x / 2 ^ 16 % 2 ^ 16, x % 2 ^ 16)

/-- The counted pages below a table of a level: the first address of each leaf that device memory holds and that has a sampling
class (R248). -/
def countedFrom (s : State) : Nat → Nat → Nat → List Nat
  | 0, table, va => leaves 0 table va fun _ _ => []
  | lvl + 1, table, va => leaves (lvl + 1) table va (countedFrom s lvl)
where
  /-- The entries of a table, each a leaf or a pointer. -/
  leaves (lvl table va : Nat) (next : Nat → Nat → List Nat) : List Nat :=
    (List.range 512).flatMap fun k =>
      let e := s.phys64 (table + 8 * k)
      let a := va + k * 2 ^ (12 + 9 * lvl)
      if !e.getLsbD 0 || s.entryBad lvl e then []
      else if e.getLsbD 2 then
        if e.getLsbD 9 || aclsRate e = 0 && aclsPool e = 0 || !inDevice (leafFrame e (leafLog e)) 1 then []
        else [a / 2 ^ leafLog e * 2 ^ leafLog e]
      else next (e.toNat % 2 ^ 52 / 2 ^ 12 * 2 ^ 12) a

/-- The counts with every resident counted page, also those that nothing has accessed (R248). -/
def State.allCounts (s : State) : List PageCount :=
  let pages := (List.range 64).flatMap fun c =>
    if (s.ctx c).st == .empty then [] else ((countedFrom s 4 (s.ctx c).ptroot 0).eraseDups).map fun va => (c, va)
  s.counts ++ (pages.filter fun p => !s.counts.any fun x => x.ctx == p.1 && x.va == p.2).map fun p =>
    { ctx := p.1, va := p.2, n := 0, cold := 0 }

/-- What a page's count at the end of its pool's epoch calls for (R248): promotion of a spilled page above the threshold, or demotion of
a resident one that has stayed at zero for the pool's age. -/
def State.callsFor (s : State) (pool : Nat) (x : PageCount) : Option Bool :=
  match s.leafOf x.ctx x.va with
  | none => none
  | some e =>
    let p := s.pool pool
    if inDevice (leafFrame e (leafLog e)) 1 then (if x.sampled e = 0 && decide (p.2.1 ≤ x.cold + 1) then some false else none)
    else if p.1 < x.sampled e then some true
    else none

/-- The wishes after a pool's epoch: those of its pages are the ones that this epoch calls for, and those of pages that are counted no
more are gone. -/
def State.newWishes (s : State) (pool : Nat) : List (Nat × Nat × Bool) :=
  (s.wishes.filter fun w => match s.poolOf w.1 w.2.1 with | some k => k != pool | none => false) ++
  s.allCounts.filterMap fun x =>
    if s.poolOf x.ctx x.va = some pool then (s.callsFor pool x).map fun up => (x.ctx, x.va, up) else none

/-- R248: the end of a pool's epoch: spilled pages counted above the threshold are to be promoted, resident pages at zero
for the pool's age may be demoted; the counts, of the sampled accesses, start again. -/
def tryPlacementEpoch (pool : Nat) (s : State) : Option State :=
  let p := s.pool pool
  if 16 ≤ pool || p.2.2 = 0 || !s.reached (s.epochs.getD pool 0) then none
  else
    let zero (x : PageCount) : Bool := match s.leafOf x.ctx x.va with | some e => x.sampled e == 0 | none => true
    let step (x : PageCount) : PageCount := { x with n := 0, cold := if zero x then x.cold + 1 else 0 }
    some { s with
      wishes := s.newWishes pool
      counts := s.allCounts.map fun x => if s.poolOf x.ctx x.va = some pool then step x else x
      epochs := s.epochs.set pool (ptAdd s.pt (BitVec.ofNat 64 (1000 * p.2.2))) }
/-- The step of `tryPlacementEpoch`. -/
def execPlacementEpoch (pool : Nat) (s : State) : Out := made s (tryPlacementEpoch pool s)

end Sys2Proof.Machine
end

