-- ==== Sys2Proof/Machine/Pixels.lean ====
section
/-! DEFINITION. Stream instructions: `PXL`, `PXS`, `FRMACQ`, `FPRES` and `FRMST`, the return of pixels, and the application of a
present (R398, R406-R411). -/

namespace Sys2Proof.Machine

/-! ### Stream registers -/

/-- The key of stream register `n` of a wave's core (R398). -/
def streamKey (w : Wave) (n : Nat) : Nat := w.core * 16 + n

/-- The flow bound to a stream register. -/
def State.binding (s : State) (w : Wave) (n : Nat) : Option Nat :=
  ((s.ctx w.ctx).binds.find? fun b => b.1 == streamKey w n).map (·.2)

/-- The current frame of a stream register: its address and bytes 0 to 63. -/
def State.current (s : State) (w : Wave) (n : Nat) : Option (Nat × Nat) :=
  ((s.ctx w.ctx).curs.find? fun b => b.1 == streamKey w n).map (·.2)

/-- The state of a current frame: the frame engine's, or the one that the descriptor held. -/
def State.frameState (s : State) (c : Nat) (cur : Nat × Nat) : Nat :=
  match s.frameAt c cur.1 with
  | some f => f.st
  | none => fdState cur.2

/-- The geometry of a current frame: the port engine's copy, or the descriptor's. -/
def State.frameDesc (s : State) (c : Nat) (cur : Nat × Nat) : Nat :=
  match s.frameAt c cur.1 with
  | some f => f.d
  | none => cur.2

/-! ### Samples -/

/-- The index in its stored line of the sample of component `k` at (x, y); none where the format does not carry it. -/
def sampleIndex (samp x y k : Nat) : Option Nat :=
  match samp with
  | 0 => match k with
    | 0 => some (4 * (x / 2) + 2 * (x % 2) + 1)
    | 1 => some (4 * (x / 2))
    | 2 => some (4 * (x / 2) + 2)
    | _ => none
  | 1 => match k with
    | 0 => some (3 * x + 1)
    | 1 => some (3 * x)
    | 2 => some (3 * x + 2)
    | _ => none
  | 2 => match k with
    | 0 => some (6 * (x / 2) + 2 * (y % 2) + x % 2)
    | 1 => some (6 * (x / 2) + 4)
    | 2 => some (6 * (x / 2) + 5)
    | _ => none
  | 3 => if k < 3 then some (3 * x + k) else none
  | _ => if k = 0 then some x else none

/-- The stored line of a picture line. -/
def storedRow (samp y : Nat) : Nat := if samp = 2 then y / 2 else y

/-- The bytes of sample `i`: the first, how many, and the shift of its low bit in their most-significant-first number. -/
def sampleSpan (d i : Nat) : Nat × Nat × Nat :=
  let b := fdDepth d
  if fdPack d then (2 * i, 2, 0)
  else
    let first := i * b / 8
    let n := (i * b + b - 1) / 8 - first + 1
    (first, n, 8 * n - i * b % 8 - b)

/-- The code of a sample from its bytes (R407). -/
def sampleOf (d i : Nat) (l : List Byte) : Nat :=
  if fdPack d then ((l.getD 0 0).toNat + 256 * (l.getD 1 0).toNat) % 2 ^ fdDepth d
  else beNat l / 2 ^ (sampleSpan d i).2.2 % 2 ^ fdDepth d

/-- The FP16 value of a sample code (R407). -/
def sampleVal (depth code : Nat) : Nat := (roundNe fp16 (quotVal false code (2 ^ depth - 1) 0)).bits

/-- The registers of a pixel from its components (R407). -/
def pixelWords (c : Nat → Nat) : Nat := c 0 + c 1 * 2 ^ 16 + c 2 * 2 ^ 32 + c 3 * 2 ^ 48

/-! ### `PXL` -/

/-- The stream number and coordinates of a pixel address (R406). -/
def pixelAddr (a : Nat) : Nat × Nat × Nat := (a / 2 ^ 28 % 16, a % 2 ^ 14, a / 2 ^ 14 % 2 ^ 14)

/-- The issue checks of a pixel (R407, R408): the current frame, unless STREAM; `tx` and the permitted states differ. -/
def State.pixelFrame (s : State) (w : Wave) (tx : Bool) (states : List Nat) (n : Nat) : Option (Nat × Nat) :=
  match s.binding w n, s.current w n with
  | some f, some cur =>
    let d := s.frameDesc w.ctx cur
    if isTx f == tx && isVideo (fdSamp d) && states.contains (s.frameState w.ctx cur) then some cur else none
  | _, _ => none

/-- The traps of pixel instructions: STREAM over every thread, then SPACE. -/
def Issue.pixelTrap (i : Issue) (s : State) (tx : Bool) (states : List Nat) : Option TrapInfo :=
  let l := lanesOf i.en
  let frame (t : Nat) : Option (Nat × Nat) := s.pixelFrame i.w tx states (pixelAddr (i.a false t)).1
  let none_ := l.filter fun t => (frame t).isNone
  let out := l.filter fun t => match frame t with
    | none => false
    | some cur =>
      let d := s.frameDesc i.w.ctx cur
      let a := pixelAddr (i.a false t)
      decide (fdWidth d ≤ a.2.1) || decide (fdHeight d ≤ a.2.2)
  if !none_.isEmpty then some (maskTrap .stream (maskOfList none_) 0 false)
  else if !out.isEmpty then some (maskTrap .space (maskOfList out) 0 false)
  else none

/-- R407: the checks at issue; the pixels return later. -/
def execPxl (e : Enc) (s : State) : Out := runInstr .pxl e s fun i s =>
  if i.en = 0 then .done s
  else match i.pixelTrap s false [1, 2, 3] with
    | some t => .trap t s
    | none =>
      let pix := (lanesOf i.en).filterMap fun t =>
        let a := pixelAddr (i.a false t)
        (s.current i.w a.1).map fun cur =>
          ({ thread := t, x := a.2.1, y := a.2.2, va := cur.1, d := s.frameDesc i.w.ctx cur } : Pix)
      let c := if i.e.form = .base then 7 else i.e.c.toNat
      let sup := if s.waveSup i.w then 1 else 0
      let (seq, s) := s.freshUid
      .done (addPend s i seq i.en (.vec i.e.d.toNat 2) .ld (.pxl c sup pix))

/-- Reading the bytes of a sample, one by one (R407). -/
def readSample (rd : RayReader) (a : Nat) : Nat → Except RayStop (List Byte × List Touch)
  | 0 => .ok ([], [])
  | n + 1 => match rd a with
    | .error e => .error e
    | .ok (x, t) => match readSample rd (a + 1) n with
      | .error e => .error e
      | .ok (l, ts) => .ok (BitVec.ofNat 8 x :: l, t :: ts)

/-- R407: the components of a pixel in a buffer, and what was read. -/
def decodePixel (rd : RayReader) (d buf x y : Nat) : Except RayStop (List Nat × List Touch) :=

  (List.range 4).foldl (fun acc k =>
    match acc with
    | .error e => .error e
    | .ok (cs, ts) => match sampleIndex (fdSamp d) x y k with
      | none => .ok (cs ++ [0], ts)
      | some i =>
        let sp := sampleSpan d i
        match readSample rd (buf + fdStride d * storedRow (fdSamp d) y + sp.1) sp.2.1 with
        | .error e => .error e
        | .ok (l, t) => .ok (cs ++ [sampleVal (fdDepth d) (sampleOf d i l)], ts ++ t)) (.ok ([], []))

/-- The arrival bit that a pixel waits for (R407). -/
def arrivalBit (d y : Nat) : Nat := (if fdSamp d = 2 then y / 2 * 2 else y) / 2 ^ fdLgrp d

/-- Where the pixel of a thread stands: its arrival bit, and whether its frame is LATE. -/
def pixelReady (s : State) (c : Nat) (rd : RayReader) (x : Pix) : Except RayStop (Bool × Bool) :=
  let i := arrivalBit x.d x.y
  match s.frameAt c x.va with
  | some f => .ok (f.map / 2 ^ i % 2 == 1, f.st == 3)
  | none => match rd (x.va + 128 + i / 8) with
    | .error e => .error e
    | .ok (b, _) => .ok (b / 2 ^ (i % 8) % 2 == 1, fdState x.d == 3)

/-- The value of a pixel with its predicate; none while it waits (R407). -/
def pixelValue (s : State) (c : Nat) (rd : RayReader) (x : Pix) : Except RayStop (Option (List Nat × Bool × List Touch)) :=
  match pixelReady s c rd x with
  | .error e => .error e
  | .ok (true, _) => (decodePixel rd x.d (fdBuf x.d) x.x x.y).map fun r => some (r.1, true, r.2)
  | .ok (false, false) => .ok none
  | .ok (false, true) =>
    if fdPol x.d = 0 then (decodePixel rd x.d (fdPrev x.d) x.x x.y).map fun r => some (r.1, false, r.2)
    else .ok (some ((List.range 4).map (fdConst x.d), false, []))

/-- R407: a waiting pixel finds its arrival bit set or its frame LATE, and returns; or it fails, or waits for service. -/
def tryPxlReturn (u seq thread : Nat) (s : State) : Option State :=
  match s.wave? u with
  | none => none
  | some w => match w.pend.find? fun p => p.seq == seq with
    | none => none
    | some p => match p.body with
      | .pxl c sup pix => match pix.find? fun x => x.thread == thread with
        | none => none
        | some x =>
          if w.halted || (s.ctx w.ctx).st != .running || !p.free thread then none
          else if p.lostAt thread then some (s.pendFail w p thread .page (p.lostVa thread))
          else match pixelValue s w.ctx (fun va => threadRead s (.core w.core) w p (sup == 1) thread va 1) x with
            | .error .held => none
            | .error (.wait va xl) => some (s.pendPark w p thread 2 va xl)
            | .error (.fail e va) => some (s.pendFail w p thread e va)
            | .ok none => none
            | .ok (some (cs, ok, ts)) =>
              let m : Word := 1#32 <<< thread
              some ((s.touchAll w p thread ts).modWave u fun w =>
                ((w.setDst p.dst p.sps thread (pixelWords fun k => cs.getD k 0)).setP c m (if ok then m else 0)).clearPend
                  seq thread)
      | _ => none
/-- The step of `tryPxlReturn`. -/
def execPxlReturn (u seq thread : Nat) (s : State) : Out := made s (tryPxlReturn u seq thread s)

/-! ### `PXS` -/

/-- Whether a thread writes a component: chroma only at the first pixel of its group (R408). -/
def writesComp (samp x y k : Nat) : Bool :=
  k == 0 || (match samp with
    | 0 => x % 2 == 0
    | 2 => x % 2 == 0 && y % 2 == 0
    | _ => true)

/-- The byte writes of one sample: address, mask and bits (R408). -/
def sampleWrites (d row i code : Nat) : List (Nat × Nat × Nat) :=
  let sp := sampleSpan d i
  let a := fdBuf d + fdStride d * row + sp.1
  if fdPack d then [(a, 255, code % 256), (a + 1, 255, code / 256)]
  else
    let v := code * 2 ^ sp.2.2
    let m := (2 ^ fdDepth d - 1) * 2 ^ sp.2.2
    (List.range sp.2.1).map fun j =>
      let sh := 2 ^ (8 * (sp.2.1 - 1 - j))
      (a + j, m / sh % 256, v / sh % 256)

/-- The byte writes of a sample as one access of a thread, so that a sample is written whole; a sample across two pages is
written a byte at a time (log 56). -/
def sampleAccs (t : Nat) (l : List (Nat × Nat × Nat)) : List Acc :=
  let first := (l.map (·.1)).headD 0
  let le (f : Nat × Nat × Nat → Nat) : Nat := l.reverse.foldl (fun x b => x * 256 + f b) 0
  if first / 4096 = (first + l.length - 1) / 4096 then [accAt t first l.length (le fun b => b.2.2) (le fun b => b.2.1)]
  else l.map fun b => accAt t b.1 1 b.2.2 b.2.1

/-- The accesses of a pixel: one for each component that the format carries. -/
def pixelWrites (t d x y : Nat) (c : Nat → Nat) : List Acc :=
  (List.range 4).flatMap fun k => match sampleIndex (fdSamp d) x y k with
    | none => []
    | some i =>
      if writesComp (fdSamp d) x y k then
        sampleAccs t (sampleWrites d (storedRow (fdSamp d) y) i (pixelCode (fdDepth d) (c k)))
      else []

/-- The request of a `PXS`, and the samples that each thread writes. -/
def pxsAsk : MemAsk := { kind := .write, use := .store, space := 0, plain := false, stn4 := true, anyByte := true, watched := false }
def pxsAccs (i : Issue) (s : State) : List Acc := (lanesOf i.en).flatMap fun t =>
  let a := pixelAddr (i.a false t)
  match s.current i.w a.1 with
  | none => []
  | some cur =>
    let v := i.b true t
    pixelWrites t (s.frameDesc i.w.ctx cur) a.2.1 a.2.2 fun k => v / 2 ^ (16 * k) % 2 ^ 16

/-- R408: each sample is written at its own bits. A replay has passed its checks, and uses the frame of its first issue (R398). -/
def execPxs (e : Enc) (s : State) : Out := runInstr .pxs e s fun i s =>
  if i.en = 0 then .done s
  else match if (i.sp.replay.bind (·.accs)).isSome then none else i.pixelTrap s true [1, 3] with
    | some t => .trap t s
    | none =>
      memRun i s pxsAsk (pxsAccs i s) false (fun s oks _ _ =>
        let (ins, s) := insNum i s
        (queueOps s i.w ins 0 3 .masked none oks, some ins)) .done

/-! ### `FRMACQ`, `FRMST` and `FPRES` -/

/-- A read that a split makes once, which is not replayable (R240): the value, a trap cause, or a wait. -/
inductive OnceRead where
  | ok (x : Nat) (s : State)
  | trap (c : Cause)
  | block (w : Wait)

/-- Reading `n` bytes of `glb` once for a split. An uncorrectable datum traps ECC; a migrating page is waited for; the split's
earlier stores to those bytes perform first. A `HOST` page with no cached translation traps PAGE, without an ATS request, for
the read is not replayable (log 91). -/
def Issue.readOnce (i : Issue) (s : State) (va n : Nat) : OnceRead :=
  let get (s : State) (p : Place) : OnceRead :=
    let a : Acc := { thread := 0, va, size := n, place := p, data := 0, data2 := 0 }
    match (s.stores.filter fun m => m.wave == i.w.uid && m.acc.meets a).map (·.ins) with
    | [] => .ok (s.readAcc { tid := i.w.idx * 32 + lowest i.sp.mask, ins := s.nextUid } a) s
    | l => .block (.drain l)
  match s.group? i.w.group with
  | none => .trap .space
  | some g => match resolve s i.w.ctx g 0 .load false va n with
    | none => .trap .space
    | some (.at p) => get s p
    | some .virt => match translate s (.core i.w.core) none i.w.ctx va .read (s.waveSup i.w) with
      | .ok t pa =>
        if !t.host && inDevice pa 1 && s.badAt pa n then .trap .ecc
        else get (s.fill t) (pageData g.uid t va pa)
      | .fail c => .trap c
      | .migrating => .block (.migration va)
      | .absent _ | .noAts | .denied => .trap .page

/-- A trap of a once-read of `n` bytes. -/
def Issue.onceTrap (i : Issue) (s : State) (c : Cause) (va n : Nat) : Res := .trap (i.readTrap c va) (s.lostData c i.w.ctx va n)

/-- The word `{transmit, STATE}` (R409, R411). -/
def stateWord (flow st : Nat) : Nat := (if isTx flow then 8 else 0) + st

/-- R409: a descriptor becomes the current frame. A terminal frame whose descriptor software has prepared again is
forgotten by the frame engine. -/
def execFrmacq (e : Enc) (s : State) : Out := runOnce .frmacq e s fun i s =>
  let n := i.e.a.toNat % 16
  let va := (i.sp.spair i.e.b.toNat).toNat
  match s.binding i.w n with
  | none => .trap (i.plainTrap .stream) s
  | some flow =>
    if va % 256 != 0 then .trap (i.plainTrap .align va) s
    else if 2 ^ 57 ≤ va then .trap (i.plainTrap .space va) s
    else match i.readOnce s va 64 with
      | .trap c => i.onceTrap s c va 64
      | .block w => .block w s
      | .ok d s =>
        if frameBad d then .trap (i.plainTrap .format) s
        else if fdFlow d != flow || mismatch (s.flow flow) d then .trap (i.plainTrap .stream) s
        else
          let stale (f : Frame) : Bool := f.ctx == i.w.ctx && f.va == va && terminal f.tx f.st && f.st != fdState d && !f.gone
          let s := { s with frames := s.frames.filterMap fun f => if stale f then s.leave f else some f }
          let k := streamKey i.w n
          i.sca (s.modCtx i.w.ctx fun c => { c with curs := (k, va, d) :: c.curs.filter fun x => x.1 != k }) false
            (stateWord flow (fdState d))

/-- R411. -/
def execFrmst (e : Enc) (s : State) : Out := runOnce .frmst e s fun i s =>
  let n := i.e.a.toNat % 16
  match s.binding i.w n, s.current i.w n with
  | some flow, some cur => match i.readOnce s cur.1 128 with
    | .trap c => i.onceTrap s c cur.1 128
    | .block w => .block w s
    | .ok d s => match i.e.opx.toNat with
      | 0 => i.sca s false (stateWord flow (fdState d))
      | 1 => i.sca s false (fld d 60 0 32)
      | _ => i.sca s true (if fdState d = 1 then 0 else fld d 64 0 64)
  | _, _ => .trap (i.plainTrap .stream) s

/-- R410: the present is posted on tl6; the frame engine applies it later. -/
def execFpres (e : Enc) (s : State) : Out := runOnce .fpres e s fun i s =>
  let n := i.e.a.toNat % 16
  match s.binding i.w n, s.current i.w n with
  | some flow, some cur =>
    let st := s.frameState i.w.ctx cur
    if !isTx flow || !(st == 1 || st == 3) then .trap (i.plainTrap .stream) s
    else .done (s.postOp i i.e 6 [BitVec.ofNat 64 cur.1] [] none [] false)
  | _, _ => .trap (i.plainTrap .stream) s

/-- A memory operation of a wave can be performed, or a load of it return, now. -/
def State.moves (s : State) (u : Nat) : Bool :=
  (s.stores.any fun m => m.wave == u && mayPerform s m) || match s.wave? u with
    | none => false
    | some w => w.pend.any fun p => match p.reads with
      | some (_, accs) => accs.any fun a => p.free a.thread && mayReturn s w p a
      | none => false

/-- What a present's post released is performed; while its context halts, it does not wait for what only the reads that are issued again
on resume (R219) hold up (R327, R410; log 102). -/
def State.presentDone (s : State) (o : EngOp) : Bool :=
  s.afterDone o.wave o.after || ((s.ctx o.ctx).st == .halting && !s.moves o.wave)

/-- R410: the frame engine applies a present, also while the context halts. -/
def tryFpresApply (id : Nat) (s : State) : Option State :=
  match s.op? id with
  | none => none
  | some o =>
    let st := (s.ctx o.ctx).st
    if o.op != .fpres || !(st == .running || st == .halting) || !s.presentDone o then none
    else
      let s := match s.frameAt o.ctx (o.srcs.getD 0 0).toNat with | some f => s.present f.id | none => s
      some ({ s with ops := s.ops.filter fun x => x.id != id }.tlDone o.wave o.kernel 6 o.num none)
/-- The step of `tryFpresApply`. -/
def execFpresApply (id : Nat) (s : State) : Out := made s (tryFpresApply id s)

end Sys2Proof.Machine
end

