-- ==== Sys2Proof/Machine/Rendezvous.lean ====
section
/-! DEFINITION. The rendezvous: objects and instants (R429-R433), records (R435), `RDVA` and `RDVW` (R436, R437), `RDV` packets, and
the steps of the rendezvous engine. -/

namespace Sys2Proof.Machine

/-! ### The object -/

/-- Fields of a rendezvous object (R429). -/
def roPeriod (o : Nat) : Nat := fld o 8 0 64
def roGuard (o : Nat) : Nat := fld o 16 0 32
def roCoherent (o : Nat) : Bool := fld o 20 31 1 == 1
def roSelf (o : Nat) : Nat := fld o 20 18 6
def roMembers (o : Nat) : Nat := fld o 20 12 6 + 1
def roSkew (o : Nat) : Nat := fld o 24 0 32
def roRlog (o : Nat) : Nat := fld o 28 0 5
def roRec (o : Nat) : Nat := fld o 32 0 64
def roLink (o m : Nat) : Nat := fld o (64 + 4 * m) 16 4
def roNode (o m : Nat) : Nat := fld o (64 + 4 * m) 0 16

/-- A malformed object (R429, R436). -/
def rdvBad (o : Nat) : Bool :=
  fld o 20 24 7 != 0 || fld o 20 0 12 != 0 || fld o 28 5 27 != 0 || fld o 40 0 192 != 0 || fld o 320 0 1536 != 0 ||
  ((List.range 64).any fun m => fld o (64 + 4 * m) 20 12 != 0) || decide (roPeriod o < 100000) ||
  decide (10 ^ 9 < roPeriod o) || roGuard o % 2 != 0 || decide (roGuard o < 20000) ||
  decide (roPeriod o < 2 * roGuard o) || decide (roMembers o ≤ roSelf o) || roRlog o == 0 || decide (16 < roRlog o) ||
  roRec o % 1024 != 0 || roRec o / 2 ^ 57 != 0

/-- The PT of an instant, of its guard, of half its guard, and of its record's deadline (R430, R431). -/
def roGuardAt (o n : Nat) : DWord := ptSub (rdvTime o n) (BitVec.ofNat 64 (roGuard o))
def roHalfAt (o n : Nat) : DWord := ptSub (rdvTime o n) (BitVec.ofNat 64 (roGuard o / 2))
def roEndAt (o n : Nat) : DWord := ptAdd (rdvTime o n) (BitVec.ofNat 64 (roPeriod o))

/-- The instant that a PT names (R430). -/
def rdvInstantOf (o pt : Nat) : Option Nat :=
  if pt < fld o 0 0 64 || (pt - fld o 0 0 64) % roPeriod o != 0 then none else some ((pt - fld o 0 0 64) / roPeriod o)

/-! ### Rendezvous of the device -/

/-- A rendezvous by its number, and an active one by its object. -/
def State.rdv? (s : State) (id : Nat) : Option Rdv := s.rdvs.find? fun r => r.id == id
def State.rdvAt (s : State) (c va : Nat) : Option Rdv := s.rdvs.find? fun r => r.ctx == c && r.va == va && !r.detach

/-- Changing a rendezvous; one that stops is removed with its last instant (R430, R440). -/
def State.modRdv (s : State) (id : Nat) (f : Rdv → Rdv) : State :=
  { s with rdvs := (s.rdvs.map fun r => if r.id = id then f r else r).filter fun r => !(r.detach && r.insts.isEmpty) }

/-- An instant of a rendezvous. -/
def Rdv.inst? (r : Rdv) (n : Nat) : Option RdvInst := r.insts.find? fun x => x.n == n

/-- Changing an instant. -/
def State.modInst (s : State) (id n : Nat) (f : RdvInst → RdvInst) : State :=
  s.modRdv id fun r => { r with insts := r.insts.map fun x => if x.n = n then f x else x }

/-- An instant to which nothing has happened. -/
def freshInst (n : Nat) (st : InstState) (frame : Option Nat) : RdvInst :=
  { n, st, frame, readies := [], reports := [], kind := 0, half := false, parked := none }

/-- R432: a late mark on a frame. -/
def State.lateMark (s : State) (frame : Option Nat) : State :=
  match frame.bind s.frame? with
  | none => s
  | some f => if f.tx && (f.st == 1 || f.st == 2) then s.putFrame f.id fun f => { f with st := 3 } else s

/-- Posting a message of a rendezvous as an operation of a link (R432): it takes a number of the link's own (R415), and no wave
waits for it. -/
def State.postMessage (s : State) (r : Rdv) (l : Nat) (kind : NraKind) : State :=
  let (id, s) := s.freshUid
  let o : LinkOp :=
    { id, wave := r.id, kernel := r.id, ctx := r.ctx, group := r.id, sup := true, num := 0, pend := none,
      op := { seq := 0, kind, size := 0, acq := false, parts := [], blob := [] }, va := 0, sent := false, acked := false, tries := 0,
      src := none, after := [], parked := none, parkVa := 0, answer := none }
  (s.modLink l fun k => { k with ops := k.ops ++ [o] }).pump l

/-- A message to every other member whose link is UP; the others lose it (R432). `m` makes it for a node. -/
def State.tellMembers (s : State) (r : Rdv) (m : Nat → NraKind) : State :=
  let dest := (List.range (roMembers r.obj)).filter fun k => k != roSelf r.obj && (s.link (roLink r.obj k)).isUp
  dest.foldl (fun s k => s.postMessage r (roLink r.obj k) (m (roNode r.obj k))) s

/-- A message of a member can arrive: its link is UP (R432). -/
def State.hears (s : State) (o member : Nat) : Bool :=
  decide (member < roMembers o) && member != roSelf o && (s.link (roLink o member)).isUp

/-! ### Arrivals -/

/-- Why an arrival is refused (R436), or the instant it names. -/
inductive Arrival where
  | ok (n : Nat)
  | format
  | stream

/-- The checks of an arrival on the object and the descriptor as read; `STATE` is that of the frame that is armed at the
descriptor. -/
def arrivalOf (s : State) (c va frame o d : Nat) : Arrival :=
  let st : Nat := match s.frameAt c frame with | some f => f.st | none => 0
  if rdvBad o || frameBad d || frameTailBad d then .format
  else match rdvInstantOf o (fdPt d) with
    | none => .format
    | some n =>
      let r := s.rdvAt c va
      if r.isNone && 16 ≤ s.rdvs.length then .format
      else
        let again := match r with
          | some r => r.insts.any fun x => x.n == n && x.frame.isSome
          | none => false
        if !isTx (fdFlow d) || !(st == 1 || st == 2) || again then .stream else .ok n

/-- Registering an arrival (R430, R431): the first one activates the rendezvous at the instant it names; after the guard the
instant, ABSENT till then, is LATE, and the frame gets its late mark (log 60). -/
def State.rdvArrive (s : State) (c va o frame n : Nat) : State :=
  let f := (s.frameAt c frame).map (·.id)
  let late := s.reached (roGuardAt o n)
  let st : InstState := if late then .late else .arrived
  let s := match s.rdvAt c va with
    | none =>
      let (id, s) := s.freshUid
      { s with rdvs := s.rdvs ++ [{ id, ctx := c, va, obj := o, insts := [freshInst n st f], next := if late then n + 1 else n,
                                    last := none, detach := false }] }
    | some r => match r.inst? n with
      | some x => if x.st = .idle || x.st = .absent then s.modInst r.id n fun x => { x with st, frame := f } else s
      | none =>
        if n < r.next then s
        else s.modRdv r.id fun r => { r with insts := r.insts ++ [freshInst n st f], next := if late then max r.next (n + 1) else r.next }
  if late then s.lateMark f else s

/-- R436. -/
def execRdva (e : Enc) (s : State) : Out := runOnce .rdva e s fun i s =>
  let va := (i.sp.spair i.e.a.toNat).toNat
  let fr := (i.sp.spair i.e.b.toNat).toNat
  if va % 512 != 0 then .trap (i.plainTrap .align va) s
  else if fr % 256 != 0 then .trap (i.plainTrap .align fr) s
  else match i.readOnce s va 512 with
    | .trap c => i.onceTrap s c va 512
    | .block w => .block w s
    | .ok o s => match i.readOnce s fr 256 with
      | .trap c => i.onceTrap s c fr 256
      | .block w => .block w s
      | .ok d s => match arrivalOf s i.w.ctx va fr o d with
        | .format => .trap (i.plainTrap .format) s
        | .stream => .trap (i.plainTrap .stream) s
        | .ok n =>
          let num := i.w.nextNum 6
          let s := s.modWave i.w.uid fun w => w.post 6
          .done ((s.rdvArrive i.w.ctx va o fr n).tlDone i.w.uid i.w.kernel 6 num none)

/-- R436: an arrival by packet. -/
def tryPacketRdv (q index : Nat) (s : State) : Option State :=
  match s.waitingPacket q index 6 with
  | none => none
  | some (qu, p) =>
    let va := pktField p.body 8 8
    let fr := pktField p.body 16 8
    if s.heldPacket qu p then none
    else if p.parked == some .failed then some (s.packetFail q index 5)
    else if va % 512 != 0 || fr % 256 != 0 then some (s.packetFail q index 2)
    else match s.cpRead qu.ctx va 512 with
      | .fail e => some ((s.lostData e qu.ctx va 512).packetFail q index 5)
      | .wait x => some (s.packetWait qu index va .read 5 x)
      | .ok (o, s) => match s.cpRead qu.ctx fr 256 with
        | .fail e => some ((s.lostData e qu.ctx fr 256).packetFail q index 5)
        | .wait x => some (s.packetWait qu index fr .read 5 x)
        | .ok (d, s) => match arrivalOf s qu.ctx va fr o d with
          | .ok n => some ((s.rdvArrive qu.ctx va o fr n).packetDone q index)
          | _ => some (s.packetFail q index 2)
/-- The step of `tryPacketRdv`. -/
def execPacketRdv (q index : Nat) (s : State) : Out := made s (tryPacketRdv q index s)

/-! ### Records -/

/-- The low `w` bits of a signed number, saturating. -/
def satBits (w : Nat) (x : Int) : Nat := wrapInt w (clampInt true w x)

/-- The bits of members whose report satisfies a test. -/
def memberBits (l : List (Nat × RdvReport)) (f : RdvReport → Bool) : Nat :=
  (l.filter fun x => f x.2).foldl (fun b x => b ||| 2 ^ x.1) 0

/-- A member's departure in true time, relative to T (R435). -/
def departure (r : RdvReport) : Int := clampInt true 32 r.doff + clampInt true 29 r.poff

/-- `SPREAD` of the reporting members (R435). -/
def spreadOf (l : List (Nat × RdvReport)) : Nat :=
  match (l.filter fun x => x.2.sent).map fun x => departure x.2 with
  | [] | [_] => 0xFFFFFFFF
  | x :: r => min (r.foldl max x - r.foldl min x).toNat 0xFFFFFFFF

/-- The 1,024 bytes of a record (R435). -/
def rdvRecord (o : Nat) (x : RdvInst) : Nat :=
  let l := x.reports
  let off (r : RdvReport) : Bool := r.tb != 2 || decide (roSkew o < 2 * (departure r).natAbs)
  let head := (2 ^ 31 + x.kind) + spreadOf l * 2 ^ 32 + x.n % 2 ^ 64 * 2 ^ 64 + (rdvTime o x.n).toNat * 2 ^ 128 +
    memberBits l (·.sub) * 2 ^ 192 + memberBits l (fun _ => true) * 2 ^ 256 + memberBits l off * 2 ^ 320
  l.foldl (fun v m => v + (satBits 29 m.2.poff + m.2.tb % 8 * 2 ^ 29) * 2 ^ (8 * (64 + 8 * m.1)) +
    satBits 32 m.2.doff * 2 ^ (8 * (68 + 8 * m.1))) head

/-- An instant is over (R431). -/
def State.endInst (s : State) (id n : Nat) : State := s.modRdv id fun r => { r with insts := r.insts.filter fun y => y.n != n }

/-- Writing the record of an instant, and the end of the instant (R431, R435). A record whose page needs service waits for it
(R243, R249); one that cannot be written is lost (log 59). -/
def State.rdvRecordInst (s : State) (r : Rdv) (x : RdvInst) : State :=
  let va := roRec r.obj + 1024 * (x.n % 2 ^ roRlog r.obj)
  match s.agentReach r.ctx (s.ctx r.ctx).ksup .write va 1024 with
  | .ok (p, t) => ((s.fill t).store r.id p (rdvRecord r.obj x) 1024).endInst r.id x.n
  | .wait xl => match parkFor s r.ctx va .write (engineAgent 2) xl with
    | .ok (k, s) => s.modInst r.id x.n fun x => { x with parked := some k }
    | .error _ => s.endInst r.id x.n
  | .fail _ => s.endInst r.id x.n

/-- Recording an instant that has every member's report (R431). -/
def State.rdvTryRecord (s : State) (id n : Nat) : State :=
  match s.rdv? id with
  | none => s
  | some r => match r.inst? n with
    | none => s
    | some x =>
      if x.st == .sent && x.parked.isNone && (List.range (roMembers r.obj)).all fun m => x.reports.any fun y => y.1 == m
      then s.rdvRecordInst r x else s

/-! ### Steps of the engine -/

/-- R431: PT reaches T - g of the next instant. -/
def tryRdvGuard (id : Nat) (s : State) : Option State :=
  match s.rdv? id with
  | none => none
  | some r =>
    let n := r.next
    if r.detach || !s.reached (roGuardAt r.obj n) then none
    else
      let s := s.modRdv id fun r => { r with next := n + 1 }
      match r.inst? n with
      | none => some (s.modRdv id fun r => { r with insts := r.insts ++ [freshInst n .absent none] })
      | some x => match x.st with
        | .idle => some (s.modInst id n fun x => { x with st := .absent })
        | .arrived => match x.frame.bind s.frame? with
          | some f =>
            if f.st = 2 then
              let s := s.modInst id n fun x => { x with st := .ready }
              some (if roCoherent r.obj then s.tellMembers r (fun k => .ready k r.va n (roSelf r.obj)) else s)
            else some ((s.modInst id n fun x => { x with st := .late }).lateMark x.frame)
          | none => some (s.modInst id n fun x => { x with st := .late })
        | _ => some s
/-- The step of `tryRdvGuard`. -/
def execRdvGuard (id : Nat) (s : State) : Out := made s (tryRdvGuard id s)

/-- R431: PT reaches T - g/2 of an instant that has passed its guard. -/
def tryRdvHalfGuard (id : Nat) (s : State) : Option State :=
  match s.rdv? id with
  | none => none
  | some r => match r.insts.find? fun x => !x.half && decide (x.n < r.next) && s.reached (roHalfAt r.obj x.n) with
    | none => none
    | some x =>
      let all := (List.range (roMembers r.obj)).all fun m => m == roSelf r.obj || x.readies.contains m
      let go := !roCoherent r.obj || all
      let st : InstState := if x.st = .ready then (if go then .go else .held) else x.st
      let s := s.modInst id x.n fun x => { x with st, half := true }
      some (if roCoherent r.obj && st != .go then s.lateMark x.frame else s)
/-- The step of `tryRdvHalfGuard`. -/
def execRdvHalfGuard (id : Nat) (s : State) : Out := made s (tryRdvHalfGuard id s)

/-- The frame whose picture an ABSENT card sends again (R432). -/
def State.resend (s : State) (r : Rdv) : Option Frame := (r.last.bind s.frame?).filter fun f => f.st == 4 || f.st == 5

/-- R431, R432: PT reaches T of an instant; the departure is measured and reported. -/
def tryRdvInstant (id : Nat) (doff : Int) (s : State) : Option State :=
  match s.rdv? id with
  | none => none
  | some r => match r.insts.find? fun x => x.half && x.st != .sent && s.reached (rdvTime r.obj x.n) with
    | none => none
    | some x =>
      if doff < -30 || 30 < doff then none
      else
        let absent := x.st == .absent
        let kind := match x.st with | .go => 0 | .held => 2 | .absent => 3 | _ => 1
        let old := s.resend r
        let rep : RdvReport :=
          { tb := s.tb.st, poff := s.tb.offset, doff, sub := x.st != .go, sent := if absent then old.isSome else x.frame.isSome }
        let s := match absent, old with
          | true, some f => s.modFrame f.id fun f =>
              { f with txLine := if f.cut then none else some 0,
                       rtpts := rtpStamp (setFld f.d 0 8 (rdvTime r.obj x.n).toNat) }
          | _, _ => s
        let s := s.modInst id x.n fun x => { x with st := .sent, kind, reports := x.reports ++ [(roSelf r.obj, rep)] }
        let s := if absent then s else s.modRdv id fun r => { r with last := x.frame }
        some ((s.tellMembers r fun k => .report k r.va x.n (roSelf r.obj) rep).rdvTryRecord id x.n)
/-- The step of `tryRdvInstant`. -/
def execRdvInstant (id : Nat) (doff : Int) (s : State) : Out := made s (tryRdvInstant id doff s)

/-- R431: PT reaches T + `PERIOD`; the record is written with the reports received. A record whose page has been served is written
now. -/
def tryRdvRecordDeadline (id : Nat) (s : State) : Option State :=
  match s.rdv? id with
  | none => none
  | some r => match r.insts.find? fun x =>
      x.st == .sent && (x.parked == some .ready || (x.parked.isNone && s.reached (roEndAt r.obj x.n))) with
    | none => none
    | some x => some (s.rdvRecordInst r x)
/-- The step of `tryRdvRecordDeadline`. -/
def execRdvRecordDeadline (id : Nat) (s : State) : Out := made s (tryRdvRecordDeadline id s)

/-- The instant that a message names, made if it is still to come. -/
def State.instFor (s : State) (r : Rdv) (n : Nat) : State :=
  if (r.inst? n).isSome || n < r.next || r.detach then s
  else s.modRdv r.id fun r => { r with insts := r.insts ++ [freshInst n .idle none] }

/-- R431: a member's ready message; one after T - g/2 is ignored, and one over a link that is not UP is lost. -/
def tryRdvReadyMessage (id inst member : Nat) (s : State) : Option State :=
  match s.rdv? id with
  | none => none
  | some r =>
    if s.reached (roHalfAt r.obj inst) || !s.hears r.obj member then some s
    else some ((s.instFor r inst).modInst id inst fun x => { x with readies := member :: x.readies.filter (· != member) })
/-- The step of `tryRdvReadyMessage`. -/
def execRdvReadyMessage (id inst member : Nat) (s : State) : Out := made s (tryRdvReadyMessage id inst member s)

/-- R431, R435: a member's report, unless the link has lost it (R432). -/
def tryRdvReport (id inst member : Nat) (rep : RdvReport) (s : State) : Option State :=
  match s.rdv? id with
  | none => none
  | some r =>
    if !s.hears r.obj member then some s
    else
      let s := (s.instFor r inst).modInst id inst fun x =>
        if x.parked.isSome then x else { x with reports := x.reports.filter (fun y => y.1 != member) ++ [(member, rep)] }
      some (s.rdvTryRecord id inst)
/-- The step of `tryRdvReport`. -/
def execRdvReport (id inst member : Nat) (rep : RdvReport) (s : State) : Out := made s (tryRdvReport id inst member rep s)

/-- R430, R440: a rendezvous stops after the instant that it is handling; no later record is written. -/
def tryRdvDetach (slot va : Nat) (s : State) : Option State :=
  if 64 ≤ slot then none
  else
    let s := s.modCtx slot fun c => { c with rdvdet := BitVec.ofNat 64 va }
    match s.rdvAt slot va with
    | none => some s
    | some r => some (s.modRdv r.id fun r =>
        let now := r.insts.filter fun x => decide (x.n < r.next)
        { r with detach := true, insts := (now.filter fun x => x.parked.isSome) ++ (now.filter fun x => x.parked.isNone).take 1 })
/-- The step of `tryRdvDetach`. -/
def execRdvDetach (slot va : Nat) (s : State) : Out := made s (tryRdvDetach slot va s)

/-! ### `RDVW` -/

/-- R437: one word of a record, or 0 when the record of that instant is not there. -/
def execRdvw (e : Enc) (s : State) : Out := runOnce .rdvw e s fun i s =>
  let va := (i.sp.spair i.e.a.toNat).toNat
  let n := (i.sp.spair i.e.b.toNat).toNat
  let w := if i.e.form = .base then 0 else i.sC false % 256
  if va % 512 != 0 then .trap (i.plainTrap .align va) s
  else match i.readOnce s va 512 with
    | .trap c => i.onceTrap s c va 512
    | .block x => .block x s
    | .ok o s =>
      if rdvBad o then .trap (i.plainTrap .format) s
      else
        let a := roRec o + 1024 * (n % 2 ^ roRlog o)
        match i.readOnce s a 1024 with
        | .trap c => i.onceTrap s c a 1024
        | .block x => .block x s
        | .ok r s =>
          i.sca s false (if fld r 0 31 1 = 1 && fld r 8 0 64 = n then fld r (4 * w) 0 32 else 0)

end Sys2Proof.Machine
end

