-- ==== Sys2Proof/Machine/TimeSteps.lean ====
section
/-! DEFINITION. The timebase (R96-R101): its states, forward and backward steps, the heartbeats, and ports going up and down. -/

namespace Sys2Proof.Machine

/-! ### Events at their PT -/

/-- An event scheduled at a PT, with what it does where it takes place. -/
abbrev Due := Nat × (State → Option State)

/-- A departure within 30 ns (R403), of which a step in time states no more: a free value (log 2). -/
def rdvInstantFree (id : Nat) (s : State) : Option State :=
  tryRdvInstant id (Int.ofNat (s.freeDWord.1.toNat % 61) - 30) s.freeDWord.2

/-- The PT that the outstanding `WAIT` of a queue waits for (R309): KIND 3. -/
def State.waitPt (s : State) (q : Queue) : Option Nat :=
  ((q.waitAt.bind fun k => s.packet? q.num k).filter fun p => pktField p.body 4 4 % 4 == 3).map fun p => pktField p.body 16 8

/-- The events scheduled at a PT (R98): `TWAIT` releases, deadlines of barriers, queues and frames, presentations, and the points
of rendezvous. "never" schedules nothing. -/
def dueEvents (s : State) : List Due :=
  let runs (c : Nat) : Bool := (s.ctx c).st == .running
  let waits (w : Wave) : List Due := w.splits.filterMap fun p => match p.st with
    | .blocked (.twait t _) => some (t.toNat, tryTwaitRelease w.uid p.num)
    | _ => none
  let bars (g : Group) : List Due :=
    (List.range g.bars.length).filterMap fun k => ((g.bars[k]?).filter fun b => !b.err).map fun b =>
      (b.dl.toNat, tryBarrierDeadline g.uid k)
  let queue (q : Queue) : List Due :=
    (match s.waitPt q with | some n => [(n, tryWaitConditionMet q.num)] | none => []) ++
    (match q.idleSince with
     | some t => if q.idle10 then [] else [(t.toNat + 10000, tryHeadHeaderTimeout q.num)]
     | none => [])
  let frame (f : Frame) : List Due :=
    (if f.st = 1 then [(fdDl f.d, tryFrameDeadline f.id)] else []) ++
    (if f.tx && (f.st == 2 || f.st == 3) then [(fdPt f.d, tryFramePresentation f.id)] else [])
  let rdv (r : Rdv) : List Due :=
    (if r.detach then [] else [((roGuardAt r.obj r.next).toNat, tryRdvGuard r.id)]) ++
    r.insts.map fun x =>
      if x.st = .sent then ((roEndAt r.obj x.n).toNat, tryRdvRecordDeadline r.id)
      else if x.half then ((rdvTime r.obj x.n).toNat, rdvInstantFree r.id)
      else ((roHalfAt r.obj x.n).toNat, tryRdvHalfGuard r.id)
  let all := ((s.waves.filter fun w => runs w.ctx).flatMap waits) ++ ((s.groups.filter fun g => runs g.ctx).flatMap bars) ++
    s.queues.flatMap queue ++ s.frames.flatMap frame ++ s.rdvs.flatMap rdv
  all.filter fun d => d.1 != never.toNat

/-- The first of some events, at its PT, that takes place. -/
def firstDue (s : State) : List Due → Option State
  | [] => none
  | d :: r => (d.2 { s with pt := BitVec.ofNat 64 (max s.pt.toNat d.1) }).orElse fun _ => firstDue s r

/-- R101: PT has reached the next multiple of 1,000 ns. -/
def tryPtTick (s : State) : Option State :=
  let n := s.ptTicks + 1
  if s.pt.toNat / 1000 < n then none else some (scTick { s with ptTicks := n } true n)
/-- The step of `tryPtTick`. -/
def execPtTick (s : State) : Out := made s (tryPtTick s)

/-- The next PT tick, at its multiple of 1,000 ns (R101), where an sc operation waits for it: no other tick has an effect. -/
def State.tickDue (s : State) : List Due :=
  if (scWaiting s true).isEmpty then []
  else
    [(1000 * (max s.ptTicks (s.pt.toNat / 1000 - (if s.pt.toNat % 1000 = 0 then 1 else 0)) + 1),
      fun s => tryPtTick { s with ptTicks := max s.ptTicks (s.pt.toNat / 1000 - 1) })]

/-- The events scheduled up to a PT, in ascending order of their PT (R98); with the PT ticks on the way where PT passes and does
not step (R101). -/
def runDue (ticks : Bool) (target : Nat) : Nat → State → State
  | 0, s => s
  | n + 1, s =>
    let l := dueEvents s ++ if ticks then s.tickDue else []
    match firstDue s (sortBy (·.1) (l.filter fun d => decide (d.1 ≤ target))) with
    | some t => runDue ticks target n t
    | none => s

/-- The edges of the 1PPS output, one at each multiple of 10^9 that PT has passed while it is enabled (log 93). -/
def State.ppsOut (s : State) (was : Nat) : State :=
  if s.mgmt.ptpen.getLsbD 18 then
    { s with out := s.out ++ (List.range (s.pt.toNat / 10 ^ 9 - was / 10 ^ 9)).map fun k => OutMsg.pps ((was / 10 ^ 9 + k + 1) * 10 ^ 9) }
  else s

/-- Presentation time passing by some nanoseconds (R94): what is scheduled on the way takes place at its PT (R98, R101, R280). -/
def passTime (s : State) (ns : Nat) : State :=
  let v := ptAdd s.pt (BitVec.ofNat 64 (min ns (2 ^ 64 - 1)))
  let t := runDue true v.toNat (2 ^ 64) s
  { t with pt := v, ptTicks := max t.ptTicks (v.toNat / 1000) }.ppsOut s.pt.toNat

/-! ### Steps of PT -/

/-- A step of PT, forward or backward, counts (R98, R99, R100). -/
def State.setPt (s : State) (v : DWord) : State :=
  { s with pt := v, ptTicks := v.toNat / 1000, tb := { s.tb with steps := (s.tb.steps + 1) % 2 ^ 16 } }

/-- A forward step (R98, R101): the events of the skipped interval, then one PT tick for those it skips. -/
def State.forwardStep (s : State) (v : DWord) : State :=
  let t := ((runDue false v.toNat (2 ^ 64) s).setPt v).ppsOut s.pt.toNat
  if s.ptTicks < v.toNat / 1000 then scTick t true (v.toNat / 1000) else t

/-- R99: a staged target is applied once no context is RUNNING or HALTING; FREERUN has no source (R96, R100; log 43), and `BACK` stays
(log 94). -/
def tryBackwardStep (s : State) : Option State :=
  let v := s.tb.staged
  if v = never || (s.ctxs.any fun c => c.st == .running || c.st == .halting) then none
  else
    let s : State := { s with tb := { s.tb with staged := never } }
    if s.pt.toNat ≤ v.toNat then some (s.forwardStep v)
    else
      let t := s.setPt v
      some { t with tb := { t.tb with st := 0, src := 0xFF, good := 0 } }
/-- The step of `tryBackwardStep`. -/
def execBackwardStep (s : State) : Out := made s (tryBackwardStep s)

/-- A staged target takes effect at the first instant at which it may (R99). -/
def State.applyStaged (s : State) : State := (tryBackwardStep s).getD s

/-- R99, R439: the management register stages, replaces or withdraws a target. -/
def execPtsetWrite (v : DWord) (s : State) : Out := .next { s with tb := { s.tb with staged := v } }.applyStaged

/-! ### The states of the timebase -/

/-- PTP runs (R446): the timebase's bring-up step passed at its first level. -/
def State.ptpRuns (s : State) : Bool := match s.boot.steps[9]? with | some b => b.level == 0 | none => true

/-- R96: an Announce on a port. One for which best-master selection picks a grandmaster selects the port; in ACQUIRING the count of
measurements goes on (log 94). -/
def execPtpAnnounce (port : Nat) (selected : Bool) (s : State) : Out :=
  if !selected || 16 ≤ port || !s.mgmt.ptpen.getLsbD port || !s.portUp port || !s.ptpRuns then .next s
  else
    let tb := s.tb
    .next { s with tb := { tb with st := if tb.st = 0 then 1 else tb.st, src := port, good := if tb.st = 0 then 0 else tb.good } }

/-- A Sync measurement (R96, R97): an offset above 1 ms steps PT and changes nothing else. -/
def State.measure (s : State) (off : Int) : State :=
  let small := decide (-20 ≤ off) && decide (off ≤ 20)
  let far := decide (off < -1000) || decide (1000 < off)
  let tb : Timebase :=
    { s.tb with offset := off, freq := Config.servo s.tb.freq off, back := decide (off < -1000000) }
  if tb.st = 0 then s
  else if 1000000 < off then
    ({ s with tb := { tb with good := 0 } } : State).forwardStep (ptAdd s.pt (BitVec.ofNat 64 (min off.toNat (2 ^ 64 - 1))))
  else
    let next : Nat × Nat :=
      match tb.st with
      | 1 => if small then (if tb.good = 7 then (2, 0) else (1, tb.good + 1)) else (1, 0)
      | 2 => if far then (1, 0) else (2, 0)
      | _ => if small then (2, 0) else (1, 0)
    { s with tb := { tb with st := next.1, good := next.2 } }

/-- R96: a Sync measurement from the selected grandmaster. -/
def execSyncMeasurement (offset : Int) (s : State) : Out :=
  if 16 ≤ s.tb.src then .next s else .next (s.measure offset)

/-- The offset of PT from the nearest multiple of 10^9; of the two nearest ones, a free choice (log 2). -/
def ppsOffset (s : State) : Int :=
  let r : Nat := s.pt.toNat % 10 ^ 9
  if 2 * r < 10 ^ 9 then -(r : Int)
  else if 10 ^ 9 < 2 * r then 10 ^ 9 - (r : Int)
  else if s.freeDWord.1.getLsbD 0 then -(r : Int) else 10 ^ 9 - (r : Int)

/-- R96: an edge of the 1PPS input, while no grandmaster is selected. Where the timebase's bring-up step fell back, the timebase stays
in FREERUN (R446, log 72). -/
def execOnePpsEdge (s : State) : Out :=
  if !s.mgmt.ptpen.getLsbD 16 || s.tb.src < 16 || !s.ptpRuns then .next s
  else if s.tb.st = 0 then .next { s with tb := { s.tb with st := 1, src := 0xFE, good := 0 } }
  else .next (s.freeDWord.2.measure (ppsOffset s))

/-- The grandmaster, or the 1PPS input, is lost (R96); `BACK` stays (log 94). -/
def State.loseSource (s : State) : State :=
  match s.tb.st with
  | 1 => { s with tb := { s.tb with st := 0, src := 0xFF, good := 0 } }
  | 2 => { s with tb := { s.tb with st := 3, good := 0 } }
  | _ => s

/-- R96. -/
def execAnnounceTimeout (s : State) : Out := .next s.loseSource

/-- R96, R439: the bits outside the register's fields are ignored (R6); disabling every source returns to FREERUN, and `BACK` stays
(log 94). -/
def execPtpenWrite (v : DWord) (s : State) : Out :=
  let s : State := { s with mgmt := { s.mgmt with ptpen := v.setWidth 32 &&& 0xFF07FFFF#32 } }
  .next (if v &&& 0x1FFFF#64 = 0 then { s with tb := { s.tb with st := 0, src := 0xFF, good := 0 } } else s)

/-! ### Heartbeats -/

/-- R101: the device heartbeat orders the sc operations that wait for it. -/
def execDeviceHeartbeatTick (s : State) : Out :=
  let n := s.hbTicks + 1
  .next (scTick { s with hbTicks := n } false n)

/-! ### Ports -/

/-- A port goes down: UP and DEGRADED links on it fail (R413), and the timebase may lose its grandmaster (R96). -/
def State.portFalls (s : State) (p : Nat) : State :=
  let s : State := { s with ports := s.ports.modify p fun x => { x with up := false } }
  let s := (List.range 16).foldl (fun s l => if (s.link l).port = p && (s.link l).isUp then s.failLink l else s) s
  if s.tb.src = p then s.loseSource else s

/-- R413. -/
def tryPortDown (p : Nat) (s : State) : Option State :=
  if s.portUp p then some (s.portFalls p) else none
/-- The step of `tryPortDown`. -/
def execPortDown (p : Nat) (s : State) : Out := made s (tryPortDown p s)

/-- The record of the bring-up step of a breakout port (R446): steps 6 to 9 bring up the four cages, each with its share of the
breakout's ports (R13). -/
def State.portStep (s : State) (p : Nat) : BootStep := s.boot.steps.getD (5 + p / (s.breakout / 4)) ⟨0, 0⟩

/-- A port comes up, at a lower breakout rate where its bring-up step fell back (R446); a step that is skipped leaves it
down. -/
def tryPortUp (p : Nat) (s : State) : Option State :=
  if s.breakout ≤ p || s.portUp p || s.power != .d0 || 2 ≤ (s.portStep p).count then none
  else some { s with ports := s.ports.set p ⟨true, decide (0 < (s.portStep p).level)⟩ }
/-- The step of `tryPortUp`. -/
def execPortUp (p : Nat) (s : State) : Out := made s (tryPortUp p s)

end Sys2Proof.Machine
end

