-- ==== Sys2Proof/Machine/Context.lean ====
section
/-! DEFINITION. Context commands, pre-emption and the hamper exchange (R323-R331, R334, R335, R356, R357, R440). -/

namespace Sys2Proof.Machine

/-! ### Partitions and commands -/

/-- The blocks of a partition (R12): the first and the end. -/
def partBlocks (n part : Nat) : Nat × Nat := (part * 8 / n, (part + 1) * 8 / n)

/-- A context occupies its partition (R325), also while it is exchanged in. -/
def Ctx.occupies (c : Ctx) : Bool :=
  match c.st with
  | .running | .halting | .halted | .faulted => true
  | .swapped => c.cmd == 4
  | _ => false

/-- The partition of a context is free for it (R325). -/
def State.partFree (s : State) (slot : Nat) : Bool :=
  (List.range 64).all fun k => k == slot || !((s.ctx k).occupies && (s.ctx k).part == (s.ctx slot).part)

/-- A command word of `ccmd` (R440). -/
def ccmdWord (code b : Nat) : Nat := code * 2 ^ 28 + b % 64

/-- A command reports 0 DONE, 1 BUSY or 2 FORMAT (R326, R441); the command that waited takes effect next (R440). -/
def State.report (s : State) (slot status : Nat) : State :=
  let w := (s.ctx slot).waitCmd
  let s := (s.modCtx slot fun c => { c with status, cmd := 0, waitCmd := none }).raiseMsixOf slot
  match w with
  | none => s
  | some x => { s with agenda := .command slot x :: s.agenda }

/-- A write of a command (R440): while one is in progress, one command waits and a further write is dropped. The device has 64
slots (R323). -/
def onCommand (slot code b : Nat) (s : State) (run : State → State) : Out :=
  if 64 ≤ slot || !s.answers then .next s
  else if (s.ctx slot).cmd != 0 then
    .next (s.modCtx slot fun c => if c.waitCmd.isNone then { c with waitCmd := some (ccmdWord code b) } else c)
  else .next (run s)

/-! ### LOAD and the stream table -/

/-- A range of device memory that can be read: inside it, with no uncorrectable sector. -/
def State.readable (s : State) (pa n : Nat) : Bool := inDevice pa n && !s.badAt pa n

/-- A descriptor is malformed (R323, R331), from its fields by offset and length in bytes. -/
def descBad (n : Nat) (f : Nat → Nat → Nat) : Bool :=
  let phys (a len : Nat) : Bool := a % 4096 == 0 && decide (a < 2 ^ 52) && inDevice a len
  let win (off lg : Nat) : Bool := f off 8 % 2 ^ lg == 0 && decide (f off 8 < 2 ^ 57)
  let w := f 12 4
  let save := f 56 8
  let mib := f 64 2
  !phys (f 0 8) 4096 || f 8 4 / 2 ^ 21 != 0 || w / 8 % 32 != 0 || w % 2 != 0 ||
  decide (w / 2 ^ 11 % 32 < 4) || decide (16 < w / 2 ^ 11 % 32) ||
  f 16 8 % 4 != 0 || decide (2 ^ 57 ≤ f 16 8) || !win 24 22 || !win 32 24 || !win 40 31 ||
  !phys (f 48 8) (32 * 2 ^ (w / 2 ^ 11 % 32)) ||
  (if save = 0 then mib != 0
   else !phys save (mib * 2 ^ 20) || decide (mib * 2 ^ 20 < 64 / n * 393216 + 256 / n * 2 ^ 20)) ||
  f 66 62 != 0

/-- The slot as a descriptor gives it; the registers of the control page keep their values (R323, R440). -/
def Ctx.load (c : Ctx) (f : Nat → Nat → Nat) : Ctx :=
  { c with
    st := .loaded
    ptroot := f 0 8
    pasen := f 8 4 / 2 ^ 20 % 2 == 1
    pasid := f 8 4 % 2 ^ 20
    pinbud := f 12 4 / 2 ^ 16
    frlog := f 12 4 / 2 ^ 11 % 32
    part := f 12 4 / 2 ^ 8 % 8
    hen := f 12 4 / 4 % 2 == 1
    ksup := f 12 4 / 2 % 2 == 1
    handler := BitVec.ofNat 64 (f 16 8)
    mbrwin := f 24 8
    grpwin := f 32 8
    regwin := f 40 8
    fring := f 48 8
    save := f 56 8
    savesz := f 64 2 }

/-- The registers of a context's control page (R440), which outlive the context in the slot. -/
def Ctx.emptied (c : Ctx) : Ctx :=
  { Ctx.fresh with
    cdesc := c.cdesc
    status := c.status
    cmd := c.cmd
    waitCmd := c.waitCmd
    fseq := c.fseq
    ivbase := c.ivbase
    ivlen := c.ivlen
    ivgo := c.ivgo
    stab := c.stab
    rwaddr := c.rwaddr
    rdvdet := c.rdvdet }

/-- What LOAD does (R323, R325). -/
def State.loadCtx (s : State) (slot : Nat) : State :=
  let c := s.ctx slot
  let a := c.cdesc.toNat
  let f (off len : Nat) : Nat := readLe s.mem (a + off) len
  if c.st != .empty then s.report slot 1
  else if a % 128 != 0 || !s.readable a 128 || descBad s.mgmt.partn f then s.report slot 2
  else (s.modCtx slot fun c => c.load f).report slot 0

/-- R323, R325: LOAD. -/
def execContextLoad (slot : Nat) (s : State) : Out := onCommand slot 0 0 s fun s => s.loadCtx slot

/-- The stream table of a context cannot be read (R440). -/
def State.stabBad (s : State) (c : Ctx) : Bool :=
  c.stab != 0 && (c.stab.toNat % 64 != 0 || !s.readable c.stab.toNat 8192)

/-- The bound stream registers that a stream table gives (R440): core × 16 + number, and the flow. -/
def State.readBinds (s : State) (c : Ctx) : List (Nat × Nat) :=
  if c.stab = 0 then []
  else (List.range 4096).filterMap fun k =>
    let x := readLe s.mem (c.stab.toNat + 2 * k) 2
    if x / 2 ^ 15 % 2 = 1 then some (k, x % 256) else none

/-- A context becomes RUNNING with its stream table read (R325, R440); in D3hot it is pre-empted at once (R448). -/
def State.setRunning (s : State) (slot : Nat) : State :=
  let b := s.readBinds (s.ctx slot)
  s.modCtx slot fun c =>
    if s.power = .d0 then { c with st := .running, binds := b } else { c with st := .halting, why := .preempt, binds := b }

/-- What RUN does (R325). -/
def State.runCtx (s : State) (slot : Nat) : State :=
  let c := s.ctx slot
  if c.st != .loaded then s.report slot 1
  else if s.mgmt.partn ≤ c.part then s.report slot 2
  else if !s.partFree slot then s.report slot 1
  else if s.stabBad c then s.report slot 2
  else (s.setRunning slot).report slot 0

/-- R325: RUN. -/
def execContextRun (slot : Nat) (s : State) : Out := onCommand slot 1 0 s fun s => s.runCtx slot

/-! ### Halting -/

/-- What PREEMPT does (R325, R327): it reports when the context is halted. -/
def State.preemptCtx (s : State) (slot : Nat) : State :=
  if (s.ctx slot).st != .running then s.report slot 1
  else s.modCtx slot fun c => { c with st := .halting, why := .preempt, cmd := 2 }

/-- R325, R327: PREEMPT. -/
def execContextPreempt (slot : Nat) (s : State) : Out := onCommand slot 2 0 s fun s => s.preemptCtx slot

/-- An engine of the context completes what it has begun before the halt: a matrix step (R356), a present (R410). -/
def State.haltWaits (s : State) (c : Nat) : Bool :=
  (s.tasks.any fun t => t.ctx == c && t.begun) || s.ops.any fun o => o.ctx == c && o.op == .fpres

/-- A split at the halt (R219, R327): an sc operation or a fence that waits is executed again under its number (R191), and an instruction that waits at
issue for room issues afresh; an `LDFE` waits on for the threads that it has not served (R188, R328). The split is no candidate, so
its count and its mark are gone (R127). -/
def Split.halt (p : Split) : Split :=
  let p := { p with marked := none, issues := 0 }
  match p.st with
  | .blocked (.scDrain ..) | .blocked (.scTick ..) => p.againSc
  | .blocked (.drain _) | .blocked .roomSfq | .blocked (.roomTl _)
  | .blocked (.roomLink ..) | .blocked (.roomPark _) | .blocked (.roomTable _) => { p with st := .ready }
  | _ => p

/-- A wave at the halt (R113, R239, R327). The register write of an sc operation that has not taken its place stays outstanding. -/
def Wave.halt (w : Wave) : Wave := { w with halted := true, back := true, tw := [], splits := w.splits.map Split.halt }

/-- A task at the halt (R356). -/
def Task.suspend (t : Task) : Task :=
  match t.st with
  | .suspended _ => t
  | .parked => { t with st := .suspended true }
  | _ => { t with st := .suspended false }

/-- Everything of a context at the halt of its partition (R327). -/
def State.haltAll (s : State) (c : Nat) : State :=
  let onWave (w : Wave) : Wave := if w.ctx = c then w.halt else w
  let onTask (t : Task) : Task := if t.ctx = c then t.suspend else t
  { s with waves := s.waves.map onWave, tasks := s.tasks.map onTask }.cancelReservations c

/-- R325, R327, R335: every core of the partition has halted. A fault makes the context FAULTED and ends a SWITCH, which
then reports BUSY. A staged PT takes effect first where this was the last context to halt (R99). -/
def tryPartitionHalted (slot : Nat) (s : State) : Option State :=
  let c := s.ctx slot
  if c.st != .halting || s.haltWaits slot then none
  else
    let s := s.haltAll slot
    match c.why with
    | .fault =>
      let s := ((s.modCtx slot fun c => { c with st := .faulted }).raiseMsixOf slot).applyStaged
      some (if c.cmd = 2 then s.report slot 0 else if c.cmd = 5 then s.report slot 1 else s)
    | .preempt =>
      let s := (s.modCtx slot fun c => { c with st := .halted }).applyStaged
      some (if c.cmd = 2 then s.report slot 0 else s)
    | .switch _ => some (s.modCtx slot fun c => { c with st := .halted }).applyStaged

/-- The step of `tryPartitionHalted`. -/
def execPartitionHalted (slot : Nat) (s : State) : Out := made s (tryPartitionHalted slot s)

/-! ### Resuming -/

/-- The faulting split goes on from the record of the fault (R334), as `ERET` would (R339): a replay makes the accesses of its first
issue (R205). -/
def State.resumeFault (s : State) (slot : Nat) : State :=
  let c := s.ctx slot
  let s := s.modCtx slot fun c => { c with xsplit := none, xcause := 0, xpc := 0, xmask := 0, xnum := false, xaddr := 0, xagain := ([], none) }
  match c.xsplit with
  | none => s
  | some (u, n) =>
    let again := c.xcause.getLsbD 14
    let m : Word := c.xmask.setWidth 32
    let len := (c.xcause.extractLsb' 15 3).toNat
    let pc := if again && m = 0 then c.xpc + BitVec.ofNat 64 (4 * len) else c.xpc
    s.modWave u fun w =>
      (w.modSplit n fun p =>
        let stands := !again && c.xpc == p.pc
        let replay : Option Replay :=
          if again then replayFor m (c.xpc != p.pc) c.xagain.1 c.xagain.2 else if stands then p.replay else none
        { p with
          pc, replay, held := none, waiting := none, also := []
          st := if stands then p.resumed else .ready
          begun := if stands then p.begun else replay.isSome }).boundary n

/-- A task at the resume (R356). -/
def Task.unsuspend (t : Task) : Task :=
  match t.st with
  | .suspended true => { t with st := .parked }
  | .suspended false => { t with st := .queued }
  | _ => t

/-- What a wave's outstanding writes do before it issues again after a halt: special-function requests are executed again (R170), and
an old value that the memory pipeline has held is written (R219). -/
def State.returnHeld (s : State) (w : Wave) : State :=
  w.pend.foldl (fun s p => match p.body with
    | .sfq .. => (lanesOf p.mask).foldl (fun s t => (trySfqRequestComplete w.uid p.seq t s).getD s) s
    | .atom _ _ _ vals => (tryLoadReturn w.uid p.seq (maskOfList (vals.map (·.1)) &&& p.mask) s).getD s
    | _ => s) s

/-- A context goes on (R328): what passed while it was halted is handled before any wave issues, and every load that has
not returned is issued again (R219). -/
def State.resumeCtx (s : State) (c : Nat) : State :=
  let onWave (w : Wave) : Wave := if w.ctx = c then { w with halted := false, stuck := false } else w
  let onTask (t : Task) : Task := if t.ctx = c then t.unsuspend else t
  let s := (s.setRunning c).resumeFault c
  let s : State := { s with waves := s.waves.map onWave, tasks := s.tasks.map onTask }
  let s := (((s.lateBarriers c).lateTwaits c).heldAnswers c).shedAfresh c
  ((s.waves.filter fun w => w.ctx == c).foldl State.returnHeld s).reissueLoads c

/-- What RESUME does (R325, R328, R334): a SWAPPED context is first exchanged in. -/
def State.resumeCommand (s : State) (slot : Nat) : State :=
  let c := s.ctx slot
  match c.st with
  | .halted | .faulted => if s.stabBad c then s.report slot 2 else (s.resumeCtx slot).report slot 0
  | .swapped =>
    if s.mgmt.partn ≤ c.part || c.blocks != some (partBlocks s.mgmt.partn c.part) then s.report slot 2
    else if !s.partFree slot then s.report slot 1
    else if s.stabBad c then s.report slot 2
    else s.modCtx slot fun c => { c with cmd := 4 }
  | _ => s.report slot 1

/-- R325, R328, R334: RESUME. -/
def execContextResume (slot : Nat) (s : State) : Out := onCommand slot 4 0 s fun s => s.resumeCommand slot

/-! ### The hamper exchange -/

/-- The size of a core's image (R329). -/
def State.imageSize (s : State) (c core : Nat) : Nat :=
  let ws := s.waves.filter fun w => w.ctx == c && w.core == core
  let gs := s.groups.filter fun g => g.ctx == c && g.core == core
  128 * sumOf (·.regs) ws + sumOf (·.scratch) gs + 18432 +
    1024 * (ws.filter fun w => w.latch.valid != 0).length + 256 * ws.length + 576 * sumOf (fun w => w.splits.length) ws

/-- The clusters in which a context has bound tiles (R346, R357). -/
def State.tileClusters (s : State) (c : Nat) : List Nat :=
  ((s.tiles.filter fun t => s.bindStands t && match s.group? t.group with | some g => g.ctx == c | none => false).map (·.cl)).eraseDups

/-- Bytes that an exchange out writes to the save area (R329, R331, R357). -/
def State.saveNeed (s : State) (c : Nat) : Nat :=
  let cores := ((s.waves.filter fun w => w.ctx == c).map (·.core)).eraseDups
  sumOf (fun k => s.imageSize c k - 2 ^ 21) cores + 262144 * (s.tileClusters c).length

/-- The save area holds what an exchange out needs (R329). -/
def State.saveFits (s : State) (slot : Nat) : Bool :=
  let n := s.saveNeed slot
  n == 0 || ((s.ctx slot).save != 0 && decide (n ≤ (s.ctx slot).savesz * 2 ^ 20))

/-- What SWAPOUT does (R325, R329). -/
def State.swapoutCommand (s : State) (slot : Nat) : State :=
  let c := s.ctx slot
  if c.st != .halted && c.st != .faulted then s.report slot 1
  else if !s.saveFits slot then s.report slot 2
  else s.modCtx slot fun c => { c with cmd := 3 }

/-- R325, R329: SWAPOUT. -/
def execContextSwapout (slot : Nat) (s : State) : Out := onCommand slot 3 0 s fun s => s.swapoutCommand slot

/-- A SWAPPED context of the partition, swapped from the same blocks, that a SWITCH may name (R325). -/
def State.switchable (s : State) (slot b : Nat) : Bool :=
  let x := s.ctx b
  b != slot && x.st == .swapped && x.cmd == 0 && x.part == (s.ctx slot).part &&
  x.blocks == some (partBlocks s.mgmt.partn x.part)

/-- What SWITCH does (R325). -/
def State.switchCommand (s : State) (slot b : Nat) : State :=
  let c := s.ctx slot
  if c.st != .running || !s.switchable slot (b % 64) then s.report slot 1
  else if !s.saveFits slot || s.stabBad (s.ctx (b % 64)) then s.report slot 2
  else s.modCtx slot fun c => { c with st := .halting, why := .switch (b % 64), cmd := 5 }

/-- R325: SWITCH. -/
def execContextSwitch (slot b : Nat) (s : State) : Out := onCommand slot 5 b s fun s => s.switchCommand slot b

/-- Bytes of an area. -/
def areaCells (m : Sparse Byte) (a n : Nat) : Sparse Byte := sfilter (fun k => decide (a ≤ k) && decide (k < a + n)) m

/-- The device writes `n` bytes at a device address in a layout of its own: free values (R331, log 2). -/
def State.writeFree (s : State) (pa n : Nat) : State :=
  let (src, s) := s.freshUid
  (List.range ((n + 7) / 8)).foldl (fun s k =>
    let r := s.freeDWord
    r.2.store src (.phys (pa + 8 * k)) r.1.toNat (min 8 (n - 8 * k))) s

/-- An old value of a read-modify-write of the context has not returned (R219). -/
def State.rmwOpen (s : State) (slot : Nat) : Bool := s.stores.any fun m => m.ctx == slot && m.ret.isSome

/-- A context's images leave for the hampers and the save area (R329, R357). -/
def State.swapOut (s : State) (slot : Nat) : State :=
  let n := s.saveNeed slot
  let s := s.writeFree (s.ctx slot).save n
  s.modCtx slot fun c =>
    { c with st := .swapped, image := .hampers, blocks := some (partBlocks s.mgmt.partn c.part),
             saved := if n = 0 then none else some (n, areaCells s.mem c.save n) }

/-- The images match their check codes, and none holds an uncorrectable error (R331, R450). -/
def State.saveIntact (s : State) (c : Ctx) : Bool :=
  !c.badImage && match c.saved with
  | none => true
  | some (n, l) => areaCells s.mem c.save n == l && !s.badAt c.save n

/-- What goes when a context is terminated (R113, R262, R263, R265, R311, R325, R345). Its convoys retire, so the distributor of the
partition starts again from the first kernel (R263, R297). -/
def State.terminate (s : State) (c : Nat) : State :=
  let s := if s.convoys.any fun x => x.ctx == c then s.fromFirst (s.ctx c).part else s
  let ofGroup (g : Nat) : Bool := match s.group? g with | some x => x.ctx == c | none => false
  let queue (q : Queue) : Queue :=
    if q.ctx = c then { q with st := 4, running := [], waitAt := none, parkedOn := none } else q
  let s : State := { s with
    waves := s.waves.filter fun w => w.ctx != c
    groups := s.groups.filter fun g => g.ctx != c
    convoys := s.convoys.filter fun x => x.ctx != c
    kernels := s.kernels.filter fun k => k.ctx != c
    acqQ := s.acqQ.filter fun a => a.ctx != c
    ops := s.ops.filter fun o => o.ctx != c
    tasks := s.tasks.filter fun t => t.ctx != c
    tiles := s.tiles.filter fun t => !ofGroup t.group
    pktCopies := s.pktCopies.filter fun k => k.ctx != c
    itable := s.itable.filter fun e => e.ctx != c
    queues := s.queues.map queue
    pri := s.pri.filter fun r => r.ctx != c
    atsPend := s.atsPend.filter fun a => a.ctx != c }
  s.modCtx c fun x =>
    { x with st := .terminated, frOpen := [], pins := [], binds := [], curs := [], xsplit := none, xcause := 0, xpc := 0,
             xmask := 0, xnum := false, xaddr := 0, xagain := ([], none), image := .cores, blocks := none, saved := none, badImage := false }

/-- What TERMINATE does (R325); a staged PT takes effect where this was the last context that ran (R99). -/
def State.terminateCommand (s : State) (slot : Nat) : State :=
  if (s.ctx slot).st = .empty then s.report slot 1 else ((s.terminate slot).applyStaged).report slot 0

/-- R325: TERMINATE. -/
def execContextTerminate (slot : Nat) (s : State) : Out := onCommand slot 6 0 s fun s => s.terminateCommand slot

/-- What a slot held beyond its context: translations, counts, frames and rendezvous. -/
def State.forget (s : State) (c : Nat) : State :=
  let s := s.dropRange c 0 (2 ^ 57)
  { s with
    counts := s.counts.filter fun x => x.ctx != c
    wishes := s.wishes.filter fun x => x.1 != c
    migrating := s.migrating.filter fun m => m.ctx != c
    frames := s.frames.filter fun f => f.ctx != c
    rdvs := s.rdvs.filter fun r => r.ctx != c }

/-- What UNLOAD does (R325). -/
def State.unloadCommand (s : State) (slot : Nat) : State :=
  let c := s.ctx slot
  if c.st != .terminated && c.st != .loaded then s.report slot 1
  else ((s.forget slot).modCtx slot Ctx.emptied).report slot 0

/-- R325: UNLOAD. -/
def execContextUnload (slot : Nat) (s : State) : Out := onCommand slot 7 0 s fun s => s.unloadCommand slot

/-- A context command that waited (R440). -/
def waitedCommand (slot w : Nat) (s : State) : State :=
  match w / 2 ^ 28 with
  | 0 => s.loadCtx slot
  | 1 => s.runCtx slot
  | 2 => s.preemptCtx slot
  | 3 => s.swapoutCommand slot
  | 4 => s.resumeCommand slot
  | 5 => s.switchCommand slot (w % 64)
  | 6 => s.terminateCommand slot
  | _ => s.unloadCommand slot

/-- A context's images come in (R329, R331): it goes on, or a check code ends it, with a record of kind 2. -/
def State.swapIn (s : State) (slot : Nat) : State :=
  if s.saveIntact (s.ctx slot) then
    (s.modCtx slot fun c => { c with image := .cores, blocks := none, saved := none }).resumeCtx slot
  else
    let a := s.freeDWord
    let b := a.2.freeDWord
    let c := b.2.freeDWord
    (c.2.terminate slot).logError 2 slot (a.1.toNat) (b.1.toNat) (c.1.toNat % 2 ^ 32)

/-- The hampers that an exchange out of a slot needs hold the image of another context than `b` (R330). -/
def State.hampersTaken (s : State) (slot : Nat) (b : Option Nat) : Bool :=
  let r := partBlocks s.mgmt.partn (s.ctx slot).part
  (List.range 64).any fun k => k != slot && some k != b && (s.ctx k).st == .swapped && (s.ctx k).image == .hampers &&
    (match (s.ctx k).blocks with | some x => decide (x.1 < r.2) && decide (r.1 < x.2) | none => false)

/-- The context that comes in when a slot's context goes out. -/
def Ctx.incoming (c : Ctx) : Option Nat := match c.cmd, c.why with | 5, .switch b => some b | _, _ => none

/-- The other context of a SWITCH comes in, if it is still there. -/
def State.bringIn (s : State) (b : Option Nat) : State :=
  match b with
  | some b => if (s.ctx b).st = .swapped then s.swapIn b else s
  | none => s

/-- R329: the images have moved, and the command that moved them reaches its next state. An exchange out begins only when every old
value of a read-modify-write has returned (R219). The partition that a RESUME came into was checked when the command was accepted
(log 95). -/
def tryHamperExchangeComplete (slot : Nat) (s : State) : Option State :=
  let c := s.ctx slot
  let out := (c.cmd == 3 && (c.st == .halted || c.st == .faulted)) || (c.cmd == 5 && c.st == .halted)
  if out && !s.rmwOpen slot && !s.hampersTaken slot c.incoming then
    some (((s.swapOut slot).bringIn c.incoming).report slot 0)
  else if c.cmd == 4 && c.st == .swapped then some ((s.swapIn slot).report slot 0)
  else none
/-- The step of `tryHamperExchangeComplete`. -/
def execHamperExchangeComplete (slot : Nat) (s : State) : Out := made s (tryHamperExchangeComplete slot s)

/-- R330: firmware moves an image out of hampers that an exchange out needs. -/
def tryHamperImageDisplace (slot : Nat) (s : State) : Option State :=
  let c := s.ctx slot
  let wanted := (List.range 64).any fun k =>
    let x : Ctx := s.ctx k
    k != slot && x.incoming != some slot && (x.cmd == 3 || (x.cmd == 5 && x.st == .halted)) &&
    (match c.blocks with
     | some r => decide (r.1 < (partBlocks s.mgmt.partn x.part).2) && decide ((partBlocks s.mgmt.partn x.part).1 < r.2)
     | none => false)
  if c.st == .swapped && c.image == .hampers && wanted then
    some (s.modCtx slot fun c => { c with image := .gddr })
  else none
/-- The step of `tryHamperImageDisplace`. -/
def execHamperImageDisplace (slot : Nat) (s : State) : Out := made s (tryHamperImageDisplace slot s)

end Sys2Proof.Machine
end

