-- ==== Sys2Proof/Machine/Control.lean ====
section
/-! DEFINITION. The control instructions: branches, joins, calls, exits and loops (R116-R120, R128-R136). -/

namespace Sys2Proof.Machine

/-! ### Targets -/

/-- The address a signed number of words away from the instruction (R128). -/
def relTarget (pc : DWord) (words : Int) : DWord := BitVec.ofInt 64 ((pc.toNat : Int) + 4 * words)

/-- The 14-bit displacement of the base form, {`B`, `A`} (R129). -/
def disp14 (e : Enc) : Int := (e.b.extractLsb' 0 7 ++ e.a.extractLsb' 0 7).toInt

/-- The 22-bit displacement of `BRA`'s base form, word [31:10] (R129). -/
def disp22 (e : Enc) : Int := (e.b.extractLsb' 0 7 ++ e.a.extractLsb' 0 7 ++ e.d).toInt

/-- The target of a branch with a 14-bit base displacement: the literal address, or `IMM18` words away in the extended form
(R129). -/
def Issue.target14 (i : Issue) : DWord :=
  match i.e.form with
  | .base => relTarget i.sp.pc (disp14 i.e)
  | .literal => i.e.lit
  | _ => relTarget i.sp.pc i.e.imm.toInt

/-- The target of `BRA` (R129). -/
def Issue.target22 (i : Issue) : DWord :=
  match i.e.form with
  | .base => relTarget i.sp.pc (disp22 i.e)
  | .literal => i.e.lit
  | _ => relTarget i.sp.pc i.e.imm.toInt

/-- The join address of `BRC` (R129). -/
def Issue.joinAddr (i : Issue) : DWord :=
  match i.e.form with
  | .base => i.sp.pc + 4
  | _ => relTarget i.sp.pc (i.e.b ++ i.e.a).toInt

/-- The address of the next instruction. -/
def Issue.nextPc (i : Issue) : DWord := i.sp.pc + BitVec.ofNat 64 (4 * i.len)

/-- What a target that cannot be reached traps (R128). -/
def targetBad (t : DWord) : Option Cause :=
  if t.toNat % 4 != 0 then some .align else if 2 ^ 57 ≤ t.toNat then some .space else none

/-- A control transfer, or the trap of its target; a trap leaves the state as it was (R128). -/
def Issue.transfer (i : Issue) (s : State) (t : DWord) (effect : State → State := id) : Res :=
  match targetBad t with
  | some c => .trap (i.plainTrap c t.toNat) s
  | none => .jump (effect s) t

/-! ### Branches -/

/-- R130. -/
def execBra (e : Enc) (s : State) : Out := runOnce .bra e s fun i s => i.transfer s i.target22

/-- Dividing the issuing split (R116): the new split takes the threads of a mask to the target; the issuing split keeps the
rest and goes on. A scalar write that is outstanding for the one reaches the copies of both (log 83). -/
def Wave.divide (w : Wave) (sp : Split) (taken : Word) (target next : DWord) : Wave :=
  let k := w.freeSplit
  let fresh : Split := { sp with
    num := k, mask := taken, pc := target, st := .ready, replay := none, stack := [], begun := false, held := none,
    latchOff := false, yielded := false, marked := none, issues := 0, lost := 0, waiting := none, also := [] }
  let w := w.modSplit sp.num fun p =>
    { p with mask := p.mask &&& ~~~taken, pc := next, st := .ready, replay := none, held := none, begun := false, also := [] }
  ({ w with splits := w.splits ++ [fresh], pend := w.pend.map fun (p : Pend) => p.addCopy sp.num k }.boundary sp.num).mergeAt k

/-- Falling back to stack order (R120): the taken threads go first. -/
def Wave.pushEntry (w : Wave) (sp : Split) (taken : Word) (ja target next : DWord) : Wave :=
  let t : StackEntry := { ja, rest := sp.mask &&& ~~~taken, pc := next, phase := 1, done := 0 }
  (w.modSplit sp.num fun p =>
    { p with mask := taken, pc := target, stack := t :: p.stack, st := .ready, replay := none, held := none, begun := false,
             also := [] }).boundary sp.num

/-- R131: per thread; divided only where both parts hold threads. A handler always falls back to stack order (R333). -/
def execBrc (e : Enc) (s : State) : Out := runOnce .brc e s fun i s =>
  let p := i.w.pred (i.e.d.toNat % 8)
  let taken := i.sp.mask &&& (if i.e.d.getLsbD 3 then ~~~p else p)
  if taken = 0 then .done s
  else if taken = i.sp.mask then i.transfer s i.target14
  else match targetBad i.target14 with
    | some c => .trap (i.plainTrap c i.target14.toNat) s
    | none => .gone (s.modWave i.w.uid fun w =>
        if w.splits.length < 4 && w.trap.isNone then w.divide i.sp taken i.target14 i.nextPc
        else w.pushEntry i.sp taken i.joinAddr i.target14 i.nextPc)

/-- R130. -/
def execBrx (e : Enc) (s : State) : Out := runOnce .brx e s fun i s => i.transfer s (i.sp.spair i.e.a.toNat)

/-- R119, R132: merges first; then completes alone, or waits in JWAIT until every live split does and it has the lowest PC.
The handler split is alone in its handler (R332). -/
def execJoin (e : Enc) (s : State) : Out := runOnce .join e s fun i s =>
  if i.w.trap.isSome then .done s
  else match s.wave? i.w.uid with
    | none => .done s
    | some w =>
      let m := w.mergeAt i.sp.num
      if m.splits.length < w.splits.length then .gone (s.modWave w.uid fun _ => m)
      else if w.splits.length ≤ 1 then .done s
      else .gone (s.modWave w.uid fun w =>
        (w.modSplit i.sp.num fun p => { p with st := .jwait i.len, begun := false, held := none, issues := 0 }).releaseJoin)

/-- Writing a return address into a scalar pair (R133). -/
def Issue.link (i : Issue) (s : State) : State :=
  s.modSplit i.w.uid i.sp.num fun p => p.setSW i.e.d.toNat true i.nextPc.toNat

/-- R133. -/
def execCall (e : Enc) (s : State) : Out := runOnce .call e s fun i s => i.transfer s i.target14 i.link
/-- R133: the target is read before the return address is written. -/
def execCallx (e : Enc) (s : State) : Out := runOnce .callx e s fun i s =>
  i.transfer s (i.sp.spair i.e.a.toNat) i.link
/-- R130. -/
def execRet (e : Enc) (s : State) : Out := runOnce .ret e s fun i s => i.transfer s (i.sp.spair i.e.a.toNat)

/-! ### `EXIT`, `YIELD`, `LOOP` -/

/-- A split that has ended leaves its wave; a handler split takes the trapped split with it (R339), and the remaining
splits may be released from JWAIT (R119). -/
def Wave.dropSplit (w : Wave) (n : Nat) : Wave :=
  let handler := match w.trap with | some t => t.spl == n | none => false
  ({ w with splits := w.splits.filter fun p => p.num != n
            pend := w.pend.map fun (p : Pend) => p.forgetCopies (if handler then [n, handlerCopy] else [n])
            trap := if handler then none else w.trap }).releaseJoin

/-- The threads of a mask leave the split saved under a handler too, and the threads that its instruction is executed again for
(R134, R339). -/
def Wave.endSaved (w : Wave) (m : Word) : Wave :=
  { w with trap := w.trap.map fun t =>
      { t with
        saved := { t.saved with mask := t.saved.mask &&& ~~~m }
        tmask := if t.num then t.tmask else t.tmask &&& ~~~(m.setWidth 64)
        again := t.again.filter fun a => !m.getLsbD a.thread } }

/-- Ending some threads of the issuing split (R134): the others go on at the next instruction; an empty split follows its
stack (R120) or ends. -/
def Wave.exitThreads (w : Wave) (sp : Split) (m : Word) (next : DWord) : Wave :=
  let w := w.endSaved m
  match sp.endThreads m with
  | none => w.dropSplit sp.num
  | some q =>
    let q := { q with st := .ready, replay := none, held := none, begun := false }
    if sp.mask &&& ~~~m != 0 then (w.modSplit sp.num fun _ => { q with pc := next }).boundary sp.num
    else
      let w := (w.modSplit sp.num fun _ => q).boundary sp.num
      if q.stack.isEmpty then w.mergeAt sp.num else w

/-- R134: per thread under the guard. -/
def execExit (e : Enc) (s : State) : Out := runInstr .exit e s fun i s =>
  if i.en = 0 then .done s
  else .gone ((s.modWave i.w.uid fun w => w.exitThreads i.sp i.en i.nextPc).memberExit i.w.uid)

/-- R135. -/
def execYield (e : Enc) (s : State) : Out := runOnce .yield e s fun i s =>
  .done (s.modSplit i.w.uid i.sp.num fun p => { p with yielded := true })

/-- R136. -/
def execLoop (e : Enc) (s : State) : Out := runOnce .loop e s fun i s =>
  let n := i.sp.sreg i.e.d.toNat - 1
  let put (s : State) : State := s.modSplit i.w.uid i.sp.num fun p => p.setS i.e.d.toNat n
  if n = 0 then .done (put s) else i.transfer s i.target14 put

end Sys2Proof.Machine
end

