-- ==== Sys2Proof/Machine/Cross.lean ====
section
/-! DEFINITION. The cross-thread instructions and `MOVS` (R87, R173-R179). A value of another thread is read as it stands when the
instruction issues, in whatever split that thread is. -/

namespace Sys2Proof.Machine

/-! ### Segments -/

/-- The first thread of a thread's segment (R122). -/
def segBase (w t : Nat) : Nat := t - t % w

/-- The contributing threads of a thread's segment, ascending (R173). -/
def Issue.segOf (i : Issue) (t : Nat) : List Nat :=
  (lanesOf i.en).filter fun j => segBase i.sp.segw j == segBase i.sp.segw t

/-! ### `SHFL` -/

/-- The source thread of `SHFL` and whether it lies in the segment (R175). -/
def shflFrom (mode w t n : Nat) : Nat × Bool :=
  let base := segBase w t
  match mode with
  | 0 => (base + n, decide (n < w))
  | 1 => (t - n, decide (n ≤ t - base))
  | 2 => (t + n, decide (n < base + w - t))
  | _ => (t ^^^ n, decide (n < w))

/-- R175. -/
def execShfl (e : Enc) (s : State) : Out := runInstr .shfl e s fun i s =>
  let wd := i.wideTy
  let from_ (t : Nat) : Nat × Bool := shflFrom i.e.opx.toNat i.sp.segw t (i.b false t)
  let s := if i.e.form = .base then s else
    s.modWave i.w.uid fun w => w.setP i.e.c.toNat i.en (maskOf fun t => (from_ t).2)
  i.vec s wd fun t => ⟨i.a wd (if (from_ t).2 then (from_ t).1 else t), 0⟩

/-! ### `VOTE`, `BALLOT`, `MATCH` -/

/-- R176: one value per segment over its contributing threads. -/
def execVote (e : Enc) (s : State) : Out := runInstr .vote e s fun i s =>
  let p := i.w.pred i.e.a.toNat
  i.predTo s i.e.d.toNat fun t =>
    let l := (i.segOf t).map fun j => p.getLsbD j
    match i.e.opx.toNat with
    | 0 => l.all id
    | 1 => l.any id
    | _ => l.all id || !l.any id

/-- R176: the mask of contributing threads whose predicate is true. -/
def execBallot (e : Enc) (s : State) : Out := runInstr .ballot e s fun i s =>
  i.sca s false (i.en &&& i.w.pred i.e.a.toNat).toNat

/-- R178: bit patterns are compared within the segment. -/
def execMatchT (e : Enc) (s : State) : Out := runInstr .matchT e s fun i s =>
  let wd := i.wideTy
  i.vec s false fun t =>
    let l := i.segOf t
    let same := l.filter fun j => i.a wd j == i.a wd t
    ⟨if i.e.opx = 0 then (maskOfList same).toNat
     else if same.length = l.length then (maskOfList l).toNat else 0, 0⟩

/-! ### `REDW` and `SCANW` -/

/-- The element width of a reduction mode and `TYPE`. -/
def redWidth (mode ty : Nat) : Nat := if 6 ≤ mode then (fmtOf ty).width else intWidth ty

/-- One node on elements (R87): add, min, max, and, or, xor, and the floating add, min and max. -/
def redElem (mode ty a b : Nat) : FRes :=
  let w := redWidth mode ty
  let sg := intSigned ty
  match mode with
  | 0 => ⟨(a + b) % 2 ^ w, 0⟩
  | 1 => ⟨wrapInt w (min (readInt sg w a) (readInt sg w b)), 0⟩
  | 2 => ⟨wrapInt w (max (readInt sg w a) (readInt sg w b)), 0⟩
  | 3 => ⟨a &&& b, 0⟩
  | 4 => ⟨a ||| b, 0⟩
  | 5 => ⟨a ^^^ b, 0⟩
  | 6 => addNode (fmtOf ty) a b
  | 7 => ⟨fminmax (fmtOf ty) false a b, 0⟩
  | _ => ⟨fminmax (fmtOf ty) true a b, 0⟩

/-- The number of elements of a reduction's operand. -/
def redCount (mode ty : Nat) : Nat := if 6 ≤ mode then fltCount ty else intCount ty

/-- One node on whole operands: packed elements reduce independently (R87). -/
def redNode (mode ty a b : Nat) : FRes :=
  let w := redWidth mode ty
  packRes w ((List.range (redCount mode ty)).map fun k => redElem mode ty (elem w a k) (elem w b k))

/-- The identity of an exclusive scan's first position (R87). -/
def redIdentity (mode ty : Nat) : Nat :=
  let w := redWidth mode ty
  let sg := intSigned ty
  let f := fmtOf ty
  let x : Nat := match mode with
    | 1 => wrapInt w (intMax sg w)
    | 2 => wrapInt w (intMin sg w)
    | 3 => 2 ^ w - 1
    | 6 => withSign f true 0
    | 7 => withSign f false f.infCode
    | 8 => withSign f true f.infCode
    | _ => 0
  packElems w (List.replicate (redCount mode ty) x)

/-- The mode of a reduction without the exclusive bit (R60). -/
def Issue.redMode (i : Issue) : Nat := (i.e.opx.extractLsb' 0 4).toNat

/-- The result is a pair: an integer mode with a 64-bit `TYPE`. -/
def Issue.redWide (i : Issue) : Bool := decide (i.redMode < 6) && i.wideTy

/-- The tree over some threads' values. -/
def Issue.redTree (i : Issue) (l : List Nat) : FRes :=
  tree (redNode i.redMode i.e.ty.toNat) 5 (l.map fun j => i.a i.redWide j)

/-- R177: the tree over the segment, with its flags, to every contributing thread. -/
def execRedw (e : Enc) (s : State) : Out := runInstr .redw e s fun i s =>
  i.vec s i.redWide fun t => i.redTree (i.segOf t)

/-- R177: the tree over the segment's values up to the thread's own, or before it; every flag of the segment's nodes to every
contributing thread. -/
def execScanw (e : Enc) (s : State) : Out := runInstr .scanw e s fun i s =>
  let excl := i.e.opx.getLsbD 4
  let upTo (t : Nat) : List Nat := (i.segOf t).filter fun j => if excl then decide (j < t) else decide (j ≤ t)
  let at_ (t : Nat) : FRes := match upTo t with
    | [] => ⟨redIdentity i.redMode i.e.ty.toNat, 0⟩
    | l => i.redTree l
  i.vec s i.redWide fun t =>
    ⟨(at_ t).bits, (i.segOf t).foldl (fun f j => f ||| (at_ j).fl) 0⟩

/-! ### `MOVS` -/

/-- The kernel identifier (R294): the queue's number in [31:22] and the packet's read index in [21:0]. -/
def Kernel.ident (k : Kernel) : Nat := k.q % 2 ^ 10 * 2 ^ 22 + k.index % 2 ^ 22

/-- The special values of R179 for a thread. -/
def Issue.special (i : Issue) (s : State) (t : Nat) : Nat :=
  let g := s.group? i.w.group
  match i.e.opx.toNat with
  | 0 => 32 * i.w.idx + t
  | 1 => i.w.lane
  | 2 => i.w.idx
  | 3 => match g with | some g => g.idx | none => 0
  | 4 => match g.bind fun g => s.convoy? g.convoy with | some c => c.idx | none => 0
  | 5 => match g with | some g => g.member | none => 0
  | 6 => match s.kernel? i.w.kernel with | some k => k.ident | none => 0
  | 7 => i.sp.segw
  | 8 => s.pt.toNat
  | 9 => i.w.dl.toNat
  | _ => (sget 0 i.w.fp t).toNat

/-- The special-function requests that `MOVS` of `fpstat` waits for, fixed when it issues (R179). -/
def Issue.sfqBefore (i : Issue) : List Nat :=
  match i.sp.st with
  | .blocked (.writes l) => l
  | _ => (i.w.pend.filter fun p => p.mask != 0 && (match p.body with | .sfq .. => true | _ => false)).map (·.seq)

/-- R179. -/
def execMovs (e : Enc) (s : State) : Out := runInstr .movs e s fun i s =>
  if i.e.opx = 10 && !i.w.writesDone i.sfqBefore then .block (.writes i.sfqBefore) s
  else i.vec s (i.e.opx == 8 || i.e.opx == 9) fun t => ⟨i.special s t, 0⟩

end Sys2Proof.Machine
end

