-- ==== Sys2Proof/Machine/Digest.lean ====
section
/-! DEFINITION. The SHA-512 digest (R447). The spec names the function and gives no algorithm: it is FIPS 180-4's (log 105). -/

namespace Sys2Proof.Machine

/-- The fractional parts of the cube roots of the first 80 primes, one for each round. -/
def shaK0 : List DWord :=
  [0x428A2F98D728AE22, 0x7137449123EF65CD, 0xB5C0FBCFEC4D3B2F, 0xE9B5DBA58189DBBC, 0x3956C25BF348B538,
   0x59F111F1B605D019, 0x923F82A4AF194F9B, 0xAB1C5ED5DA6D8118, 0xD807AA98A3030242, 0x12835B0145706FBE,
   0x243185BE4EE4B28C, 0x550C7DC3D5FFB4E2, 0x72BE5D74F27B896F, 0x80DEB1FE3B1696B1, 0x9BDC06A725C71235,
   0xC19BF174CF692694, 0xE49B69C19EF14AD2, 0xEFBE4786384F25E3, 0x0FC19DC68B8CD5B5, 0x240CA1CC77AC9C65]
def shaK1 : List DWord :=
  [0x2DE92C6F592B0275, 0x4A7484AA6EA6E483, 0x5CB0A9DCBD41FBD4, 0x76F988DA831153B5, 0x983E5152EE66DFAB,
   0xA831C66D2DB43210, 0xB00327C898FB213F, 0xBF597FC7BEEF0EE4, 0xC6E00BF33DA88FC2, 0xD5A79147930AA725,
   0x06CA6351E003826F, 0x142929670A0E6E70, 0x27B70A8546D22FFC, 0x2E1B21385C26C926, 0x4D2C6DFC5AC42AED,
   0x53380D139D95B3DF, 0x650A73548BAF63DE, 0x766A0ABB3C77B2A8, 0x81C2C92E47EDAEE6, 0x92722C851482353B]
def shaK2 : List DWord :=
  [0xA2BFE8A14CF10364, 0xA81A664BBC423001, 0xC24B8B70D0F89791, 0xC76C51A30654BE30, 0xD192E819D6EF5218,
   0xD69906245565A910, 0xF40E35855771202A, 0x106AA07032BBD1B8, 0x19A4C116B8D2D0C8, 0x1E376C085141AB53,
   0x2748774CDF8EEB99, 0x34B0BCB5E19B48A8, 0x391C0CB3C5C95A63, 0x4ED8AA4AE3418ACB, 0x5B9CCA4F7763E373,
   0x682E6FF3D6B2B8A3, 0x748F82EE5DEFB2FC, 0x78A5636F43172F60, 0x84C87814A1F0AB72, 0x8CC702081A6439EC]
def shaK3 : List DWord :=
  [0x90BEFFFA23631E28, 0xA4506CEBDE82BDE9, 0xBEF9A3F7B2C67915, 0xC67178F2E372532B, 0xCA273ECEEA26619C,
   0xD186B8C721C0C207, 0xEADA7DD6CDE0EB1E, 0xF57D4F7FEE6ED178, 0x06F067AA72176FBA, 0x0A637DC5A2C898A6,
   0x113F9804BEF90DAE, 0x1B710B35131C471B, 0x28DB77F523047D84, 0x32CAAB7B40C72493, 0x3C9EBE0A15C9BEBC,
   0x431D67C49C100D4C, 0x4CC5D4BECB3E42B6, 0x597F299CFC657E2A, 0x5FCB6FAB3AD6FAEC, 0x6C44198C4A475817]
def shaK : List DWord := shaK0 ++ shaK1 ++ shaK2 ++ shaK3

/-- The digest's eight words. -/
structure ShaState where
  a : DWord
  b : DWord
  c : DWord
  d : DWord
  e : DWord
  f : DWord
  g : DWord
  h : DWord
  deriving DecidableEq, Repr

/-- The initial words: the fractional parts of the square roots of the first eight primes. -/
def ShaState.init : ShaState :=
  ⟨0x6A09E667F3BCC908, 0xBB67AE8584CAA73B, 0x3C6EF372FE94F82B, 0xA54FF53A5F1D36F1,
   0x510E527FADE682D1, 0x9B05688C2B3E6C1F, 0x1F83D9ABFB41BD6B, 0x5BE0CD19137E2179⟩

/-- One round with its constant and its word of the schedule. -/
def ShaState.round (s : ShaState) (k w : DWord) : ShaState :=
  let big := s.e.rotateRight 14 ^^^ s.e.rotateRight 18 ^^^ s.e.rotateRight 41
  let t1 := s.h + big + ((s.e &&& s.f) ^^^ (~~~s.e &&& s.g)) + k + w
  let t2 := (s.a.rotateRight 28 ^^^ s.a.rotateRight 34 ^^^ s.a.rotateRight 39) + ((s.a &&& s.b) ^^^ (s.a &&& s.c) ^^^ (s.b &&& s.c))
  ⟨t1 + t2, s.a, s.b, s.c, s.d + t1, s.e, s.f, s.g⟩

/-- Word by word addition. -/
def ShaState.add (s t : ShaState) : ShaState :=
  ⟨s.a + t.a, s.b + t.b, s.c + t.c, s.d + t.d, s.e + t.e, s.f + t.f, s.g + t.g, s.h + t.h⟩

/-- The next word of the schedule from the last sixteen, oldest first. -/
def shaNext (w : List DWord) : DWord :=
  let x := w.getD 1 0
  let y := w.getD 14 0
  w.getD 0 0 + (x.rotateRight 1 ^^^ x.rotateRight 8 ^^^ (x >>> 7)) + w.getD 9 0 + (y.rotateRight 19 ^^^ y.rotateRight 61 ^^^ (y >>> 6))

/-- The rounds of a block, with the last sixteen words of its schedule. -/
def shaRounds : List DWord → List DWord → ShaState → ShaState
  | [], _, s => s
  | k :: r, w, s => shaRounds r (w.drop 1 ++ [shaNext w]) (s.round k (w.getD 0 0))

/-- Byte `i` of a padded message of `n` bytes: the message, a one bit, zeros, and the length in bits in the last 16 bytes. -/
def shaByte (n : Nat) (m : Sparse Byte) (i : Nat) : Byte :=
  let total := (n + 17 + 127) / 128 * 128
  if i < n then byteAt m i else if i = n then 0x80 else BitVec.ofNat 8 (8 * n / 2 ^ (8 * (total - 1 - i)))

/-- Word `i` of a padded message. -/
def shaWord (n : Nat) (m : Sparse Byte) (i : Nat) : DWord :=
  BitVec.ofNat 64 ((List.range 8).foldl (fun x k => x * 256 + (shaByte n m (8 * i + k)).toNat) 0)

/-- The digest after `k` blocks. -/
def shaBlocks (n : Nat) (m : Sparse Byte) : Nat → ShaState
  | 0 => .init
  | k + 1 =>
    let s := shaBlocks n m k
    s.add (shaRounds shaK ((List.range 16).map fun i => shaWord n m (16 * k + i)) s)

/-- The SHA-512 digest of `n` bytes, in the order of its bytes. -/
def sha512 (n : Nat) (m : Sparse Byte) : List Byte :=
  let s := shaBlocks n m ((n + 17 + 127) / 128)
  [s.a, s.b, s.c, s.d, s.e, s.f, s.g, s.h].flatMap fun x => (List.range 8).map fun k => x.extractLsb' (8 * (7 - k)) 8

end Sys2Proof.Machine
end

