-- ==== Sys2Proof/Machine/Platform.lean ====
section
/-! DEFINITION. The PCIe function, bring-up, identity and power (R438-R450). -/

namespace Sys2Proof.Machine

/-! ### Registers of the function -/

/-- An access that R438 accepts: 4 or 8 bytes, naturally aligned. -/
def hostSized (off size : Nat) : Bool := (size == 4 || size == 8) && off % size == 0

/-- All ones of a size, as a refused read returns them. -/
def allOnes (size : Nat) : DWord := BitVec.ofNat 64 (2 ^ (8 * size) - 1)

/-- The value of a host's read. -/
def State.answerRead (s : State) (v : DWord) : State := { s with out := s.out ++ [OutMsg.read v] }

/-- A register of 64 bits with a write of 4 or 8 bytes at a byte merged into it. -/
def mergeWrite (old byte size v : Nat) : Nat := setFld (old % 2 ^ 64) byte size v

/-- R439: the partition count, 1, 2, 4 or 8, while no context is RUNNING, HALTING, HALTED or FAULTED. -/
def execPartnWrite (v : DWord) (s : State) : Out :=
  let busy := s.ctxs.any fun c => match c.st with | .running | .halting | .halted | .faulted => true | _ => false
  if busy || !(v == 1 || v == 2 || v == 4 || v == 8) then .next s
  else .next { s with mgmt := { s.mgmt with partn := v.toNat } }

/-- R439, R449: the power limit in [15:0], from 600 to 1,150 W; [47:32] is read only, and the other bits are ignored (R6). -/
def execPwrcapWrite (v : DWord) (s : State) : Out :=
  let n := v.toNat % 2 ^ 16
  if n < 600 || 1150 < n then .next s
  else .next { s with mgmt := { s.mgmt with pwrcap := n } }

/-- R449: the arithmetic clock, never below 1.3 GHz and never above 2.6 GHz. -/
def tryClockAdjust (mhz : Nat) (s : State) : Option State :=
  if mhz < 1300 || 2600 < mhz then none else some { s with arithMHz := mhz }
/-- The step of `tryClockAdjust`. -/
def execClockAdjust (mhz : Nat) (s : State) : Out := made s (tryClockAdjust mhz s)

/-- R445: in phase 1 or 3 the write of a staged length starts verification. -/
def execStglenWrite (v : DWord) (s : State) : Out :=
  if (s.boot.phase == 1 || s.boot.phase == 3) && decide (v.toNat ≤ 2 ^ 25) then
    .next { s with boot := { s.boot with staged := some v.toNat } }
  else .next s

/-- R446: a write of 1 clears every failure count and fallback level. -/
def execBclrWrite (v : DWord) (s : State) : Out :=
  if v != 1 then .next s else .next { s with boot := { s.boot with steps := List.replicate 10 ⟨0, 0⟩ } }

/-- R447: a request of a report, which begins with `nonce` as it stands; one made while a report is being built is
ignored. -/
def execAttnWrite (v : DWord) (s : State) : Out :=
  if v != 1 || s.mgmt.attn then .next s
  else
    let m := s.mgmt
    .next { s with mgmt := { m with
      attn := true
      report := (List.range 64).foldl (fun r k => setByte r k (byteAt m.nonce k)) m.report } }

/-- Bytes 0 to 199 of a report, with `nonce` in its first 64 bytes already (R447): the digests of the running image and of the boot
record ring, the minimum version and `partn`. -/
def State.reportBody (s : State) : List Byte :=
  (List.range 64).map (byteAt s.mgmt.report) ++ sha512 s.boot.imageLen s.boot.image ++ sha512 4096 s.boot.ring ++
  leBytes 4 Config.minVersion.toNat ++ leBytes 4 s.mgmt.partn

/-- R447: the report is complete, with the signature of its first 200 bytes, for which the identity unit draws the random number
`answer` (log 75). -/
def tryAttestationReportReady (answer : DWord) (s : State) : Option State :=
  if !s.mgmt.attn then none
  else
    let l := s.reportBody ++ beBytes 132 (Config.signature s.reportBody answer).toNat
    some { s with mgmt := { s.mgmt with
      attn := false, report := (List.range l.length).foldl (fun r k => setByte r k (l.getD k 0)) s.mgmt.report } }
/-- The step of `tryAttestationReportReady`. -/
def execAttestationReportReady (answer : DWord) (s : State) : Out := made s (tryAttestationReportReady answer s)

/-! ### `rwdata` and the aperture -/

/-- The address that an access to `rwdata` of a context page uses, where R185 lets it (R440). -/
def State.rwPlace (s : State) (slot size : Nat) (u : Use) : Option Place :=
  let a := (s.ctx slot).rwaddr.toNat
  if hostSized a size && decide (slot < 64) then regPlace s slot u a size else none

/-- The wave of the context at a register place. -/
def State.ownsPlace (s : State) (slot : Nat) : Place → Bool
  | .reg core lane n _ _ _ => s.waves.any fun w => w.ctx == slot && s.inSlot core lane n w
  | _ => false

/-- R440: a register-window load at `rwaddr`; one that R185 refuses reads all ones. -/
def execRwdataRead (slot size : Nat) (s : State) : Out :=
  if !s.answers then .next (s.answerRead (allOnes size))
  else match s.rwPlace slot size .load with
    | some p => .next (s.answerRead (if s.ownsPlace slot p then BitVec.ofNat 64 (s.readPlace outside p size) else 0))
    | none => .next (s.answerRead (allOnes size))

/-- R440: a register-window store at `rwaddr`; one that R185 refuses has no effect. -/
def execRwdataWrite (slot size : Nat) (v : DWord) (s : State) : Out :=
  if !s.answers then .next s
  else match s.rwPlace slot size .store with
    | some p =>
      let (u, s) := s.freshUid
      .next (s.store u p v.toNat size)
    | none => .next s

/-- The device address of an aperture access (R444). -/
def State.apAddr (s : State) (off : Nat) : Nat := s.mgmt.apbase + off

/-- R444: a read of device memory; beyond it, and of an uncorrectable sector, all ones, with a record of kind 3. -/
def execApertureRead (off size : Nat) (s : State) : Out :=
  let pa := s.apAddr off
  if !s.answers || !hostSized off size || 2 ^ 24 ≤ off || !inDevice pa size then .next (s.answerRead (allOnes size))
  else if s.badAt pa size then
    let a := s.freeDWord
    let c := a.2.freeDWord
    .next ((c.2.logError 3 (c.1.toNat % 2 ^ 32) a.1.toNat (pa / 4096 * 4096) (pa % 4096 / 64)).answerRead (allOnes size))
  else .next (s.answerRead (BitVec.ofNat 64 (readLe s.mem pa size)))

/-- R444: a write of device memory; beyond it, no effect. -/
def execApertureWrite (off size : Nat) (v : DWord) (s : State) : Out :=
  let pa := s.apAddr off
  if !s.answers || !hostSized off size || 2 ^ 24 ≤ off || !inDevice pa size then .next s
  else
    let (u, s) := s.freshUid
    .next (s.store u (.phys pa) v.toNat size)

/-! ### Plain registers -/

/-- A management register without behaviour of its own (R439): its value with a write merged, or ignored outside its range; reserved
bits are ignored (R6). -/
def Mgmt.write (m : Mgmt) (off size v : Nat) : Mgmt :=
  let b := off % 8
  let at2M (n : Nat) : Bool := n % 2 ^ 21 == 0
  let set (old : Nat) (ok : Nat → Bool) (f : Nat → Mgmt) : Mgmt :=
    if ok (mergeWrite old b size v) then f (mergeWrite old b size v) else m
  match off / 8 with
  | 0x03 => set m.node (fun _ => true) fun n => { m with node := n % 2 ^ 16 }
  | 0x04 => set m.spillb at2M fun n => { m with spillb := n }
  | 0x05 => set m.spills at2M fun n => { m with spills := n }
  | 0x06 => set m.grantb (fun _ => true) fun n => { m with grantb := n }
  | 0x07 => set m.grants (fun _ => true) fun n => { m with grants := n }
  | 0x18 => set m.qdesc (fun n => n % 64 == 0) fun n => { m with qdesc := n }
  | 0x1A => set m.elog (fun n => n % 4096 == 0) fun n => { m with elog := n }
  | 0x22 => set m.apbase (fun n => n % 2 ^ 24 == 0) fun n => { m with apbase := n }
  | k =>
    if 0x08 ≤ k && k ≤ 0x17 then
      { m with pools := m.pools.modify (k - 8) fun x => BitVec.ofNat 64 (mergeWrite x.toNat b size v) }
    else if 0x40 ≤ k && k ≤ 0x47 then { m with nonce := writeLe m.nonce (off - 0x200) size v }
    else m

/-- A register of a context's control page without behaviour of its own (R440); reserved bits are ignored (R6). -/
def Ctx.write (c : Ctx) (off size v : Nat) : Ctx :=
  let b := off % 8
  let set (old : DWord) : DWord := BitVec.ofNat 64 (mergeWrite old.toNat b size v)
  let faulted := c.st == .faulted
  match off / 8 with
  | 1 => { c with cdesc := set c.cdesc }
  | 3 => { c with fseq := set c.fseq }
  | 5 => { c with ivbase := set c.ivbase }
  | 6 => { c with ivlen := set c.ivlen }
  | 8 =>
    let x := set (c.xcause.setWidth 64)
    if faulted then { c with xcause := (c.xcause &&& ~~~0x4000#32) ||| (x.setWidth 32 &&& 0x4000#32) } else c
  | 9 => if faulted then { c with xpc := set c.xpc } else c
  | 10 => if faulted then { c with xmask := set c.xmask &&& (if c.xnum then 0xFFFFFFFFFFFFFFFF#64 else 0xFFFFFFFF#64) } else c
  | 11 => { c with stab := set c.stab }
  | 13 => { c with rwaddr := set c.rwaddr &&& 0x7FFFFFFF#64 }
  | _ => c

/-- Bytes 4 to 63 of a flow's configuration, while `EN` is 0 (R442). -/
def Flow.write (f : Flow) (off size v : Nat) : Flow :=
  if f.en then f else { f with cfg := setFld f.cfg off size v }

/-- A link's configuration entry as a number (R443), `CMD` zero. -/
def Link.entry (k : Link) : Nat :=
  k.resv + k.pnode + k.octx * 2 ^ 16 + k.port * 2 ^ 22 + k.st * 2 ^ 26 + k.tctx * 2 ^ 32 + k.plink * 2 ^ 60 +
    k.abase * 2 ^ 64 + k.asize * 2 ^ 128 + k.paddr * 2 ^ 192 + k.laddr * 2 ^ 224 + k.uport * (2 ^ 16 * 2 ^ 256)

/-- Setting a link's fields, and its reserved bits, from an entry (R443). -/
def Link.setEntry (k : Link) (e : Nat) : Link :=
  { k with
    pnode := fld e 0 0 16
    octx := fld e 0 16 6
    port := fld e 0 22 4
    tctx := fld e 4 0 6
    plink := fld e 4 28 4
    abase := fld e 8 0 64
    asize := fld e 16 0 64
    paddr := fld e 24 0 32
    laddr := fld e 28 0 32
    uport := fld e 34 0 16
    resv := fld e 4 6 22 * 2 ^ 38 + fld e 32 0 16 * 2 ^ 256 + fld e 36 0 224 * (2 ^ 32 * 2 ^ 256) }

/-- A write to a link's configuration entry (R443): its fields in DOWN, then the command that bytes 0 to 3 carry. -/
def State.writeLink (s : State) (l off size v : Nat) : State :=
  let s := s.modLink l fun k => if k.st = 0 then k.setEntry (setFld k.entry off size v) else k
  if off = 0 then s.linkCommand l (fld v 0 29 3) else s

/-- A write to a flow's configuration entry (R442): bytes 4 to 63 first. -/
def State.writeFlow (s : State) (n off size v : Nat) : State :=
  if off = 0 then
    let s := if size = 8 then s.modFlow n fun f => f.write 4 4 (v / 2 ^ 32) else s
    s.writeFlowWord n (BitVec.ofNat 32 v)
  else s.modFlow n fun f => f.write off size v

/-- The state that a step gives; the same state where it gives none. -/
def ran (s : State) (o : Out) : State := match o with | .next t => t | _ => s

/-- A write to the management registers (R439). A register that acts on a write acts on one that reaches its first byte; the upper
half alone of such a register is ignored (log 27). -/
def State.writeMgmt (s : State) (off size : Nat) (v : DWord) : State :=
  let low := off % 8 == 0
  let act (o : Out) : State := if low then ran s o else s
  match off / 8 with
  | 0x02 => act (execPartnWrite v s)
  | 0x19 => act (if v.getLsbD 31 then execQueueUnbind v s else execQueueBind v s)
  | 0x1C => act (execPwrcapWrite v s)
  | 0x1D => act (execStglenWrite v s)
  | 0x1E => act (execBclrWrite v s)
  | 0x1F => act (execAttnWrite v s)
  | 0x20 => ran s (execPtsetWrite (BitVec.ofNat 64 (mergeWrite s.tb.staged.toNat (off % 8) size v.toNat)) s)
  | 0x21 => act (execPtpenWrite v s)
  | _ => { s with mgmt := s.mgmt.write off size v.toNat }

/-- A command word written to `ccmd` (R440): a code above 7 names no command. -/
def State.writeCcmd (s : State) (slot v : Nat) : State :=
  ran s (match v / 2 ^ 28 % 2 ^ 4 with
    | 0 => execContextLoad slot s
    | 1 => execContextRun slot s
    | 2 => execContextPreempt slot s
    | 3 => execContextSwapout slot s
    | 4 => execContextResume slot s
    | 5 => execContextSwitch slot (v % 64) s
    | 6 => execContextTerminate slot s
    | 7 => execContextUnload slot s
    | _ => .next s)

/-- A write to a context's control page (R440): `fcode` sends the response for the record that `fseq` holds, and a code other than 0
and 1 is ignored (R243); only a 1 written to `ivgo` starts an invalidation. -/
def State.writePage (s : State) (slot off size : Nat) (v : DWord) : State :=
  let n := v.toNat
  let low := off % 8 == 0
  match off / 8 with
  | 0 => if low then s.writeCcmd slot (n % 2 ^ 32) else s
  | 4 =>
    if low && n % 2 ^ 8 == 0 then respond slot (s.ctx slot).fseq.toNat true s
    else if low && n % 2 ^ 8 == 1 then respond slot (s.ctx slot).fseq.toNat false s
    else s
  | 7 => if low && n == 1 then ran s (execInvalidationStart slot s) else s
  | 12 => ran s (execRdvDetach slot (mergeWrite (s.ctx slot).rdvdet.toNat (off % 8) size n) s)
  | 14 => if low then ran s (execRwdataWrite slot size v s) else s
  | _ => s.modCtx slot fun c => c.write off size n

/-- What a host's write does (R438): a reserved or read-only offset ignores it, and so does the device when its size or its alignment is
not accepted. In a phase other than 3, and away from D0, only the management registers and the staging window take writes. -/
def State.hostWrite (s : State) (off size : Nat) (v : DWord) : State :=
  let n := v.toNat
  let staging := decide (0x400000 ≤ off) && decide (off < 0x2400000)
  if !hostSized off size || (!s.answers && !(off < 0x1000 && s.power == .d0) && !(staging && s.boot.phase == 1)) then s
  else if off < 0x1000 then s.writeMgmt off size v
  else if 0x100000 ≤ off && off < 0x140000 then s.writePage ((off - 0x100000) / 0x1000) (off % 0x1000) size v
  else if 0x200000 ≤ off && off < 0x202000 then
    if size = 8 then ran s (hostCommand ((off - 0x200000) / 8) v s) else s
  else if 0x300000 ≤ off && off < 0x304000 then s.writeFlow ((off - 0x300000) / 64) (off % 64) size n
  else if 0x310000 ≤ off && off < 0x310400 then s.writeLink ((off - 0x310000) / 64) (off % 64) size n
  else if staging then { s with mgmt := { s.mgmt with staging := writeLe s.mgmt.staging (off - 0x400000) size n } }
  else if 0x3000000 ≤ off then ran s (execApertureWrite (off - 0x3000000) size v s)
  else s

/-- R438: a host's write to the function's region. -/
def execRegisterWrite (off size : Nat) (v : DWord) (s : State) : Out := .next (s.hostWrite off size v)

/-! ### Reading registers -/

/-- The record of a step. -/
def Boot.step (b : Boot) (n : Nat) : BootStep := b.steps.getD (n - 1) ⟨0, 0⟩

/-- The state code of `cstat` (R440). -/
def CtxState.code : CtxState → Nat
  | .empty => 0 | .loaded => 1 | .running => 2 | .halting => 3 | .halted => 4 | .swapped => 5 | .faulted => 6 | .terminated => 7

/-- The 64-bit value of a management register (R439); a write-only register and a reserved offset read zero (log 27). -/
def State.readMgmt (s : State) (off : Nat) : Nat :=
  let m := s.mgmt
  let b := s.boot
  match off / 8 with
  | 0x00 => m.ident.toNat
  | 0x01 => b.last % 2 ^ 8 * 2 ^ 24 + (b.step b.last).count % 2 ^ 8 * 2 ^ 16 + b.phase % 16
  | 0x02 => m.partn
  | 0x03 => m.node
  | 0x04 => m.spillb
  | 0x05 => m.spills
  | 0x06 => m.grantb
  | 0x07 => m.grants
  | 0x1A => m.elog
  | 0x1B => m.elogn % 2 ^ 32
  | 0x1C => m.pwrcap + s.arithMHz * 2 ^ 32
  | 0x1F => if m.attn then 1 else 0
  | 0x20 => s.tb.staged.toNat
  | 0x21 => m.ptpen.toNat
  | 0x22 => m.apbase
  | k =>
    if 0x08 ≤ k && k ≤ 0x17 then (m.pools.getD (k - 8) 0).toNat
    else if 0x60 ≤ k && k ≤ 0x9F then readLe m.report (8 * (k - 0x60)) 8
    else if 0x100 ≤ k && k ≤ 0x1FF then (Config.idcert (k - 0x100)).toNat
    else 0

/-- The 64-bit value of a register of a context's control page (R440). -/
def Ctx.read (c : Ctx) (off : Nat) : Nat :=
  let rec_ (x : DWord) : Nat := if c.st = .faulted then x.toNat else 0
  match off / 8 with
  | 1 => c.cdesc.toNat
  | 2 => (if c.cmd = 0 then 0 else 2 ^ 31) + c.status % 4 * 2 ^ 8 + c.st.code
  | 7 => c.ivgo
  | 8 => rec_ (c.xcause.setWidth 64)
  | 9 => rec_ c.xpc
  | 10 => rec_ c.xmask
  | 11 => c.stab.toNat
  | 13 => c.rwaddr.toNat
  | 15 => rec_ c.xaddr
  | _ => 0

/-- The bytes of `size` from a byte of a number. -/
def partOf (v byte size : Nat) : DWord := BitVec.ofNat 64 (v / 2 ^ (8 * byte) % 2 ^ (8 * size))

/-- The bits of a flow's configuration entry that are not reserved (R442): its reserved bits read as zero (R6). -/
def flowMask : Nat :=
  let f (byte n m : Nat) : Nat := m % 2 ^ (8 * n) * 2 ^ (8 * byte)
  f 0 4 0xFFFFC000 + f 4 4 0xF8CF + f 8 4 0xFFFFFFFF + f 12 4 3 + f 16 12 (2 ^ 96 - 1) + f 28 4 0x7F + f 32 16 (2 ^ 128 - 1) +
    f 48 4 0x3FFF

/-- What the host reads at an offset of the function without a step of its own (R438): it changes nothing. Outside phase 3 only the management
registers answer, and every other offset reads all ones (R446). -/
def State.readRegister (s : State) (off size : Nat) : DWord :=
  if !hostSized off size || s.power != .d0 then allOnes size
  else if off < 0x1000 then partOf (s.readMgmt off) (off % 8) size
  else if s.boot.phase != 3 then allOnes size
  else if 0x100000 ≤ off && off < 0x140000 then partOf ((s.ctx ((off - 0x100000) / 0x1000)).read (off % 0x1000)) (off % 8) size
  else if 0x300000 ≤ off && off < 0x304000 then partOf ((s.flow ((off - 0x300000) / 64)).cfg &&& flowMask) (off % 64) size
  else if 0x310000 ≤ off && off < 0x310400 then partOf { s.link ((off - 0x310000) / 64) with resv := 0 }.entry (off % 64) size
  else 0

/-! ### Bring-up -/

/-- The most failures with which a step runs: a mandatory step has two fallback levels, an optional one is skipped at two
(R446). -/
def mandatory (step : Nat) : Bool := decide (step ≤ 5)

/-- Writing an entry of the ring in flash (R446). -/
def Boot.entry (b : Boot) (step count result level detail : Nat) : Boot :=
  let a := 16 * (b.written % 256)
  let r := writeLe b.ring a 8 b.start
  let r := writeLe r (a + 8) 4 (step + 2 ^ 8 * count + 2 ^ 16 * result + 2 ^ 24 * level)
  { b with ring := writeLe r (a + 12) 4 detail, written := b.written + 1, last := step }

/-- Rewriting the result of the entry written last. -/
def Boot.result (b : Boot) (r : Nat) : Boot :=
  { b with ring := writeLe b.ring (16 * ((b.written - 1) % 256) + 10) 1 r }

/-- Changing the record of a step. -/
def Boot.modStep (b : Boot) (n : Nat) (f : BootStep → BootStep) : Boot := { b with steps := b.steps.modify (n - 1) f }

/-- The level at which a step runs: its failure count, and never below a level reached before (R446). -/
def BootStep.runLevel (x : BootStep) : Nat := max x.level (min x.count 2)

/-- A step has run: a pass clears its failure count and keeps the level. -/
def Boot.finishStep (b : Boot) (n : Nat) (o : StepOutcome) : Boot :=
  (b.result (if o.pass then 0 else 1)).modStep n fun x => { x with count := if o.pass then 0 else x.count + 1 }

/-- Beginning a step: its entry stands at 3 in flash before it runs, at its level. -/
def Boot.beginStep (b : Boot) (n detail : Nat) : Boot :=
  let x := b.step n
  (b.entry n x.count 3 x.runLevel detail).modStep n fun x => { x with level := x.runLevel }

/-- The steps from one on, in order (R446): a mandatory step that fails stops the bring-up in its phase, or enters recovery at its
third failure; an optional step with two failures is skipped; one that the end of the start cuts short leaves its entry at 3. -/
def Boot.runSteps (os : List StepOutcome) : Nat → Nat → Boot → Boot
  | 0, _, b => { b with phase := 3 }
  | k + 1, n, b =>
    let o := os.getD (n - 1) ⟨true, false, 0⟩
    if mandatory n then
      if 3 ≤ (b.step n).count then { b with phase := 4, last := n }
      else
        let d := b.beginStep n o.detail.toNat
        let c := d.finishStep n o
        if o.cut then d
        else if o.pass then Boot.runSteps os k (n + 1) c
        else if 3 ≤ (c.step n).count then { c with phase := 4 } else c
    else if 2 ≤ (b.step n).count then
      Boot.runSteps os k (n + 1) (b.entry n (b.step n).count 2 (b.step n).level 0)
    else
      let d := b.beginStep n o.detail.toNat
      if o.cut then d else Boot.runSteps os k (n + 1) (d.finishStep n o)

/-- The step whose entry the present start has left at 3 (R446): the last entry, if it is of this start. -/
def Boot.running (b : Boot) : Option Nat :=
  let a := 16 * ((b.written - 1) % 256)
  if b.written = 0 || readLe b.ring (a + 10) 1 != 3 || readLe b.ring a 8 != b.start then none else some (readLe b.ring (a + 8) 1)

/-- An entry that the last start left running counts as a failure, once (R446). -/
def Boot.countRunning (b : Boot) : Boot :=
  match b.running with
  | some n => b.modStep n fun x => { x with count := x.count + 1 }
  | none => b

/-- An image passes verification (R445): its signature verifies, and its version is at least the fused minimum (log 75). -/
def imageOk (n : Nat) (m : Sparse Byte) : Bool := Config.imageSigned n m && decide (Config.minVersion ≤ Config.imageVersion n m)

/-- The image in flash after what has cut a write of it short (R445). -/
def Boot.tear (b : Boot) : Boot := if b.writing.isSome then { b with writing := none, torn := true } else b

/-- A start (R445, R446): step 1 verifies the image in flash, or, at a fallback level, waits for one from the host. A half-written image
fails. Of the first outcome only its detail code and whether it is cut short matter. -/
def Boot.begin (b : Boot) (os : List StepOutcome) : Boot :=
  let b := { b.countRunning.tear with start := b.start + 1, phase := 2, staged := none, rest := os }
  let r := os.getD 0 ⟨true, false, 0⟩
  let o : StepOutcome := { r with pass := imageOk b.flashLen b.flash && !b.torn }
  if 3 ≤ (b.step 1).count then { b with phase := 4, last := 1 }
  else
    let c := b.beginStep 1 o.detail.toNat
    if o.cut then c
    else if (c.step 1).level != 0 then { c with phase := 1 }
    else
      let d := c.finishStep 1 o
      if o.pass then Boot.runSteps os 9 2 { d with image := d.flash, imageLen := d.flashLen } else { d with phase := 1 }

/-- The state after a reset with a boot record (R446, R448): every state but flash, host memory and the model's own numbering is
as `State.reset` has it. -/
def State.restart (s : State) (b : Boot) : State :=
  { State.reset with
    agenda := s.agenda
    freeCtr := s.freeCtr
    nextUid := s.nextUid
    hostMem := s.hostMem
    out := s.out
    boot := b }

/-- R446: at power-up or reset the boot ROM runs the steps; a change of the phase is signalled on vector 129 (R441). -/
def execPowerUp (outcomes : List StepOutcome) (s : State) : Out :=
  .next ((s.restart (s.boot.begin outcomes)).raiseMsix 129)

/-- Bytes of a staged image. -/
def stagedImage (s : State) (n : Nat) : Sparse Byte := areaCells s.mgmt.staging 0 n

/-- R445: a failing image leaves the phase; a passing one runs in phase 1, and its write to flash begins. Where step 1 has waited for it
at a fallback level, the step passes (R446). `pass` is the result, and only the one that the image's bytes have can come (log 75). -/
def tryImageVerificationDone (pass : Bool) (s : State) : Option State :=
  match s.boot.staged with
  | none => none
  | some n =>
    let b := { s.boot with staged := none }
    if pass != imageOk n (stagedImage s n) then none
    else if !pass then some { s with boot := b }
    else
      let b := { b with writing := some (n, stagedImage s n) }
      if b.phase = 1 then
        let c := { b with image := stagedImage s n, imageLen := n, phase := 2 }
        let d := if c.running = some 1 then c.finishStep 1 ⟨true, false, 0⟩ else c
        some ({ s with boot := Boot.runSteps b.rest 9 2 d }.raiseMsix 129)
      else some { s with boot := b }
/-- The step of `tryImageVerificationDone`. -/
def execImageVerificationDone (pass : Bool) (s : State) : Out := made s (tryImageVerificationDone pass s)

/-- The write of an image to flash is complete (R445). -/
def tryFlashWritten (s : State) : Option State :=
  s.boot.writing.map fun x =>
    { s with boot := { s.boot with flash := x.2, flashLen := x.1, writing := none, torn := false } }

/-! ### Power -/

/-- R448: firmware pre-empts every RUNNING context, and the ports go down; the timebase loses its source, the 1PPS input too. -/
def tryD3hotEntry (s : State) : Option State :=
  if s.power != .d0 then none
  else
    let halt (c : Ctx) : Ctx := if c.st == .running then { c with st := .halting, why := .preempt } else c
    let s : State := { s with power := .d3hot, ctxs := s.ctxs.map halt }
    some ((List.range 16).foldl State.portFalls s).loseSource
/-- The step of `tryD3hotEntry`. -/
def execD3hotEntry (s : State) : Out := made s (tryD3hotEntry s)

/-- R448: the contexts stay HALTED until RESUME. -/
def tryD0Return (s : State) : Option State :=
  if s.power != .d3hot then none else some { s with power := .d0 }
/-- The step of `tryD0Return`. -/
def execD0Return (s : State) : Out := made s (tryD0Return s)

/-- R448: every state except flash is lost; the next start is a bring-up. A write of flash that it cuts short leaves an image that
fails verification (R445). -/
def execPowerLoss (s : State) : Out :=
  .next { s.restart { s.boot.tear with phase := 0, staged := none, image := [], imageLen := 0, rest := [] } with power := .off }

end Sys2Proof.Machine
end

