-- ==== Sys2Proof/Machine/Scalar.lean ====
section
/-! DEFINITION. The scalar, predicate, segment and mask instructions (R137-R145). -/

namespace Sys2Proof.Machine

/-! ### Scalar arithmetic -/

/-- The width of a scalar operand. -/
def Issue.sWidth (i : Issue) : Nat := if i.wideTy then 64 else 32

/-- A source of a scalar instruction as a signed or unsigned integer by `TYPE`. -/
def Issue.sIntA (i : Issue) : Int := readInt (intSigned i.e.ty.toNat) i.sWidth (i.sA i.wideTy)
def Issue.sIntB (i : Issue) : Int := readInt (intSigned i.e.ty.toNat) i.sWidth (i.sB i.wideTy)

/-- A scalar result that wraps modulo 2^w (R137). -/
def Issue.sWrap (i : Issue) (s : State) (x : Int) : Res := i.sca s i.wideTy (wrapInt i.sWidth x)

/-- R138. -/
def execSadd (e : Enc) (s : State) : Out := runOnce .sadd e s fun i s => i.sWrap s (i.sIntA + i.sIntB)
/-- R138. -/
def execSsub (e : Enc) (s : State) : Out := runOnce .ssub e s fun i s => i.sWrap s (i.sIntA - i.sIntB)
/-- R138. -/
def execSmul (e : Enc) (s : State) : Out := runOnce .smul e s fun i s => i.sWrap s (i.sIntA * i.sIntB)
/-- R138. -/
def execSmulh (e : Enc) (s : State) : Out := runOnce .smulh e s fun i s =>
  i.sWrap s (i.sIntA * i.sIntB / (2 ^ i.sWidth : Nat))
/-- R138. -/
def execSand (e : Enc) (s : State) : Out := runOnce .sand e s fun i s =>
  i.sca s i.wideTy (i.sA i.wideTy &&& i.sB i.wideTy)
/-- R138. -/
def execSor (e : Enc) (s : State) : Out := runOnce .sor e s fun i s =>
  i.sca s i.wideTy (i.sA i.wideTy ||| i.sB i.wideTy)
/-- R138. -/
def execSxor (e : Enc) (s : State) : Out := runOnce .sxor e s fun i s =>
  i.sca s i.wideTy (i.sA i.wideTy ^^^ i.sB i.wideTy)
/-- R138. -/
def execSnot (e : Enc) (s : State) : Out := runOnce .snot e s fun i s =>
  i.sca s i.wideTy (2 ^ i.sWidth - 1 - i.sA i.wideTy)
/-- R138: the amount is the whole of b, unsigned; at the width or beyond the result is 0. -/
def execSshl (e : Enc) (s : State) : Out := runOnce .sshl e s fun i s =>
  let n := i.sB i.wideTy
  i.sca s i.wideTy (if i.sWidth ≤ n then 0 else i.sA i.wideTy * 2 ^ n % 2 ^ i.sWidth)
/-- R138. -/
def execSshr (e : Enc) (s : State) : Out := runOnce .sshr e s fun i s =>
  let n := i.sB i.wideTy
  i.sca s i.wideTy (if i.sWidth ≤ n then 0 else i.sA i.wideTy / 2 ^ n)
/-- R138: copies of a's sign bit at the width or beyond. -/
def execSsar (e : Enc) (s : State) : Out := runOnce .ssar e s fun i s =>
  let n := min (i.sB i.wideTy) i.sWidth
  i.sWrap s (readInt true i.sWidth (i.sA i.wideTy) / (2 ^ n : Nat))
/-- R138. -/
def execSmin (e : Enc) (s : State) : Out := runOnce .smin e s fun i s => i.sWrap s (min i.sIntA i.sIntB)
/-- R138. -/
def execSmax (e : Enc) (s : State) : Out := runOnce .smax e s fun i s => i.sWrap s (max i.sIntA i.sIntB)
/-- R139: the one result goes to every active thread of the split. -/
def execScmp (e : Enc) (s : State) : Out := runOnce .scmp e s fun i s =>
  .done (s.modWave i.w.uid fun w =>
    w.setP i.e.d.toNat i.sp.mask (if icmpHolds i.e.opx.toNat i.sIntA i.sIntB then 0xFFFFFFFF else 0))
/-- R140: the predicate is true in at least one active thread. -/
def execSsel (e : Enc) (s : State) : Out := runOnce .ssel e s fun i s =>
  i.sca s i.wideTy (if i.sp.mask &&& i.w.pred i.e.c.toNat != 0 then i.sA i.wideTy else i.sB i.wideTy)
/-- R138. -/
def execSmov (e : Enc) (s : State) : Out := runOnce .smov e s fun i s => i.sca s i.wideTy (i.sB i.wideTy)
/-- R141. -/
def execSbfe (e : Enc) (s : State) : Out := runOnce .sbfe e s fun i s =>
  i.sca s false (bitField (i.e.ty.toNat == 0) (i.sA false) (i.sB false))
/-- R138: one register for every `TYPE`. -/
def execSpopc (e : Enc) (s : State) : Out := runOnce .spopc e s fun i s =>
  i.sca s false (popcount i.sWidth (i.sA i.wideTy))
/-- R138. -/
def execSclz (e : Enc) (s : State) : Out := runOnce .sclz e s fun i s =>
  i.sca s false (clz i.sWidth (i.sA i.wideTy))
/-- R142: any thread of the wave, as it stands. -/
def execSrdl (e : Enc) (s : State) : Out := runOnce .srdl e s fun i s =>
  let t := i.sB false % 32
  i.sca s i.wideTy (if i.wideTy then (i.w.vpair i.e.a.toNat t).toNat else (i.w.vreg i.e.a.toNat t).toNat)

/-! ### Predicates -/

/-- A predicate operation on whole masks, written in the enabled threads (R143). -/
def Issue.predOp (i : Issue) (s : State) (m : Word) : Res :=
  .done (s.modWave i.w.uid fun w => w.setP i.e.d.toNat i.en m)

/-- R143. -/
def execPand (e : Enc) (s : State) : Out := runInstr .pand e s fun i s =>
  i.predOp s (i.w.pred i.e.a.toNat &&& i.w.pred i.e.b.toNat)
/-- R143. -/
def execPor (e : Enc) (s : State) : Out := runInstr .por e s fun i s =>
  i.predOp s (i.w.pred i.e.a.toNat ||| i.w.pred i.e.b.toNat)
/-- R143. -/
def execPxor (e : Enc) (s : State) : Out := runInstr .pxor e s fun i s =>
  i.predOp s (i.w.pred i.e.a.toNat ^^^ i.w.pred i.e.b.toNat)
/-- R143. -/
def execPnot (e : Enc) (s : State) : Out := runInstr .pnot e s fun i s => i.predOp s (~~~(i.w.pred i.e.a.toNat))
/-- R143: a predicate, or the bits of a scalar register. -/
def execPmov (e : Enc) (s : State) : Out := runInstr .pmov e s fun i s =>
  i.predOp s (if i.e.ak = .sca then i.sp.sreg i.e.a.toNat else i.w.pred i.e.a.toNat)

/-! ### Segment width and active mask -/

/-- R144: a register outside the valid widths traps ILLEGAL and changes nothing. -/
def execSegw (e : Enc) (s : State) : Out := runOnce .segw e s fun i s =>
  let n := i.sA false
  if segwOk n then .done (s.modSplit i.w.uid i.sp.num fun p => { p with segw := n })
  else .trap (i.plainTrap .illegal) s
/-- R145. -/
def execActm (e : Enc) (s : State) : Out := runOnce .actm e s fun i s => i.sca s false i.sp.mask.toNat

end Sys2Proof.Machine
end

