-- ==== Sys2Proof/Machine/Traps.lean ====
section
/-! DEFINITION. Traps raised by instructions, the return from a handler, control registers, and `HALT` (R124, R336-R340). -/

namespace Sys2Proof.Machine

/-- The code of `TRAP` and `BKPT`: base word [31:18], or `IMM18`[13:0] (R338). -/
def Issue.trapCode (i : Issue) : Nat :=
  match i.e.form with
  | .base => (i.e.b.extractLsb' 0 7 ++ i.e.a.extractLsb' 0 7).toNat
  | _ => i.e.imm.toNat % 2 ^ 14

/-- R339. -/
def execTrap (e : Enc) (s : State) : Out := runOnce .trap e s fun i s =>
  .trap (i.plainTrap .trap 0 i.trapCode) s
/-- R339. -/
def execBkpt (e : Enc) (s : State) : Out := runOnce .bkpt e s fun i s =>
  .trap (i.plainTrap .bkpt 0 i.trapCode) s

/-- R339: outside a handler it has trapped PRIV before (R59). A `tpc` that is no multiple of 4 traps ALIGN at the `ERET` (R16). -/
def execEret (e : Enc) (s : State) : Out := runOnce .eret e s fun i s =>
  match i.w.trap with
  | some r => if r.tpc.toNat % 4 != 0 then .trap (i.plainTrap .align r.tpc.toNat) s else .gone (returnFromTrap s i.w r)
  | none => .trap (i.plainTrap .priv) s

/-- R58: an unassigned opcode traps ILLEGAL, with the length that `LEN` gives. -/
def execUnassignedOpcode (_ : BitVec 8) (len : BitVec 2) (s : State) : Out :=
  match issuer s with
  | none => .refused .noIssuer
  | some (w, sp) =>
    .next (takeTrap s w { sp with st := .ready, replay := none } (formOf len).words
      { cause := .illegal, code := 0, mask := sp.mask.setWidth 64, addr := 0, rpl := false })

/-! ### Control registers -/

/-- `wstat` as a split reads it (R124). -/
def wstatWord (w : Wave) (sp : Split) : Nat :=
  let stk := w.splits.foldl (fun n p => n + p.stack.length) 0 +
    (match w.trap with | some t => t.saved.stack.length | none => 0)
  stk % 64 * 2 ^ 8 + (w.splits.length - 1) % 4 * 2 ^ 6 + sp.num % 4 * 2 ^ 4 + (if w.udiv then 1 else 0)

/-- `clkst` (R100). -/
def clkstWord (s : State) : Nat :=
  s.tb.steps % 2 ^ 16 * 2 ^ 16 + s.tb.src % 2 ^ 8 * 2 ^ 8 + (if s.tb.back then 8 else 0) + s.tb.st % 8

/-- `ctxid` (R336). -/
def ctxidWord (s : State) (w : Wave) : Nat :=
  (if w.trap.isSome then 2 ^ 13 else 0) + (if s.waveSup w then 2 ^ 12 else 0) + s.mgmt.partn % 16 * 2 ^ 8 + w.ctx % 64

/-- `tcause` of a trap record (R336). -/
def TrapRec.word (r : TrapRec) : Nat := (causeWord r.cause r.code r.len r.rpl r.spl).toNat

/-- The value of a control register (R336); the trap registers read zero outside HANDLER. -/
def csrRead (s : State) (w : Wave) (sp : Split) (n : Nat) : Nat :=
  let c := s.ctx w.ctx
  let tr (f : TrapRec → Nat) : Nat := match w.trap with | some r => f r | none => 0
  match n with
  | 0x000 => wstatWord w sp
  | 0x010 => clkstWord s
  | 0x020 => c.mbrwin
  | 0x021 => c.grpwin
  | 0x022 => c.regwin
  | 0x030 => ctxidWord s w
  | 0x040 => tr TrapRec.word
  | 0x041 => tr fun r => r.tpc.toNat
  | 0x042 => tr fun r => r.tmask.toNat
  | 0x043 => tr fun r => r.taddr.toNat
  | 0x050 => (c.wch.getD 0 0).toNat
  | 0x051 => (c.wch.getD 1 0).toNat
  | 0x052 => (c.wch.getD 2 0).toNat
  | 0x053 => (c.wch.getD 3 0).toNat
  | _ => c.wctl.toNat

/-- The register is 64 bits wide. -/
def csrWide (n : Nat) : Bool := match csrRow n with | some (_, w, _) => w | none => false

/-- R339. -/
def execCsrrd (e : Enc) (s : State) : Out := runOnce .csrrd e s fun i s =>
  i.sca s (csrWide i.e.csr) (csrRead s i.w i.sp i.e.csr)

/-- The bits of a watch address that are kept (R336). -/
def watchMask : DWord := 0x01FFFFFFFFFFFFF8#64

/-- Writing a control register (R336): a write of the trap registers outside HANDLER is ignored, `tcause` takes only `RPL`,
and `clkset` stages a target (R99). -/
def csrWrite (s : State) (i : Issue) (v : DWord) : State :=
  let rec_ (f : TrapRec → TrapRec) : State := s.modWave i.w.uid fun w => { w with trap := w.trap.map f }
  let watch (k : Nat) : State := s.modCtx i.w.ctx fun c => { c with wch := c.wch.set k (v &&& watchMask) }
  match i.e.csr with
  | 0x011 => { s with tb := { s.tb with staged := v } }
  | 0x040 => rec_ fun r => { r with rpl := v.getLsbD 14 }
  | 0x041 => rec_ fun r => { r with tpc := v }
  | 0x042 => rec_ fun r => { r with tmask := if r.num then v else v &&& 0xFFFFFFFF#64 }
  | 0x050 => watch 0
  | 0x051 => watch 1
  | 0x052 => watch 2
  | 0x053 => watch 3
  | 0x054 => s.modCtx i.w.ctx fun c => { c with wctl := v.setWidth 32 &&& 0x0F0F0F0F#32 }
  | _ => s.modWave i.w.uid fun w =>
      forEach (lanesOf i.sp.mask) (fun w t => { w with fp := sset 0 w.fp t (v.setWidth 8) }) w

/-- R339. -/
def execCsrwr (e : Enc) (s : State) : Out := runOnce .csrwr e s fun i s =>
  let r := (i.e.d.extractLsb' 0 7).toNat
  .done (csrWrite s i (if csrWide i.e.csr then i.sp.spair r else (i.sp.sreg r).setWidth 64))

/-- R340: completes, then asks for the context's pre-emption (R325), and the issuing wave's core, lane and slot are reported. -/
def execHalt (e : Enc) (s : State) : Out := runOnce .halt e s fun i s =>
  let s := { s with out := s.out ++ [OutMsg.halted i.w.ctx i.w.core i.w.lane i.w.slot] }
  .done ((s.modCtx i.w.ctx fun c =>
    if c.st == .running then { c with st := .halting, why := .preempt } else c).raiseMsixOf i.w.ctx)

end Sys2Proof.Machine
end

