-- ==== Sys2Proof/Machine/Dispatch.lean ====
section
/-! DEFINITION. One arm per constructor of `Instr`: a direct call of its meaning. -/

namespace Sys2Proof.Machine

/-- The meaning of an instruction word, or of a step of another agent. -/
def exec (i : Instr) (s : State) : Host.Outcome State Fault Refusal :=
  match i with
  | .nop e => Sys2Proof.Machine.execNop e s
  | .iadd e => Sys2Proof.Machine.execIadd e s
  | .isub e => Sys2Proof.Machine.execIsub e s
  | .imul e => Sys2Proof.Machine.execImul e s
  | .imulh e => Sys2Proof.Machine.execImulh e s
  | .imad e => Sys2Proof.Machine.execImad e s
  | .imin e => Sys2Proof.Machine.execImin e s
  | .imax e => Sys2Proof.Machine.execImax e s
  | .iabs e => Sys2Proof.Machine.execIabs e s
  | .ineg e => Sys2Proof.Machine.execIneg e s
  | .and e => Sys2Proof.Machine.execAnd e s
  | .or e => Sys2Proof.Machine.execOr e s
  | .xor e => Sys2Proof.Machine.execXor e s
  | .not e => Sys2Proof.Machine.execNot e s
  | .andn e => Sys2Proof.Machine.execAndn e s
  | .shl e => Sys2Proof.Machine.execShl e s
  | .shr e => Sys2Proof.Machine.execShr e s
  | .sar e => Sys2Proof.Machine.execSar e s
  | .bfe e => Sys2Proof.Machine.execBfe e s
  | .bfi e => Sys2Proof.Machine.execBfi e s
  | .popc e => Sys2Proof.Machine.execPopc e s
  | .clz e => Sys2Proof.Machine.execClz e s
  | .ctz e => Sys2Proof.Machine.execCtz e s
  | .brev e => Sys2Proof.Machine.execBrev e s
  | .bperm e => Sys2Proof.Machine.execBperm e s
  | .icmp e => Sys2Proof.Machine.execIcmp e s
  | .sel e => Sys2Proof.Machine.execSel e s
  | .mov e => Sys2Proof.Machine.execMov e s
  | .dp4 e => Sys2Proof.Machine.execDp4 e s
  | .xset e => Sys2Proof.Machine.execXset e s
  | .ldx e => Sys2Proof.Machine.execLdx e s
  | .stx e => Sys2Proof.Machine.execStx e s
  | .fadd e => Sys2Proof.Machine.execFadd e s
  | .fsub e => Sys2Proof.Machine.execFsub e s
  | .fmul e => Sys2Proof.Machine.execFmul e s
  | .ffma e => Sys2Proof.Machine.execFfma e s
  | .fmin e => Sys2Proof.Machine.execFmin e s
  | .fmax e => Sys2Proof.Machine.execFmax e s
  | .fcmp e => Sys2Proof.Machine.execFcmp e s
  | .fclass e => Sys2Proof.Machine.execFclass e s
  | .frnd e => Sys2Proof.Machine.execFrnd e s
  | .fscl e => Sys2Proof.Machine.execFscl e s
  | .fexp e => Sys2Proof.Machine.execFexp e s
  | .faddp e => Sys2Proof.Machine.execFaddp e s
  | .fsubp e => Sys2Proof.Machine.execFsubp e s
  | .fmulp e => Sys2Proof.Machine.execFmulp e s
  | .ffmap e => Sys2Proof.Machine.execFfmap e s
  | .fminp e => Sys2Proof.Machine.execFminp e s
  | .fmaxp e => Sys2Proof.Machine.execFmaxp e s
  | .fcmpp e => Sys2Proof.Machine.execFcmpp e s
  | .cvt e => Sys2Proof.Machine.execCvt e s
  | .pkmx e => Sys2Proof.Machine.execPkmx e s
  | .upmx e => Sys2Proof.Machine.execUpmx e s
  | .pkq4 e => Sys2Proof.Machine.execPkq4 e s
  | .upq4 e => Sys2Proof.Machine.execUpq4 e s
  | .sfq e => Sys2Proof.Machine.execSfq e s
  | .waitk e => Sys2Proof.Machine.execWaitk e s
  | .shfl e => Sys2Proof.Machine.execShfl e s
  | .vote e => Sys2Proof.Machine.execVote e s
  | .ballot e => Sys2Proof.Machine.execBallot e s
  | .redw e => Sys2Proof.Machine.execRedw e s
  | .scanw e => Sys2Proof.Machine.execScanw e s
  | .matchT e => Sys2Proof.Machine.execMatchT e s
  | .movs e => Sys2Proof.Machine.execMovs e s
  | .sadd e => Sys2Proof.Machine.execSadd e s
  | .ssub e => Sys2Proof.Machine.execSsub e s
  | .smul e => Sys2Proof.Machine.execSmul e s
  | .smulh e => Sys2Proof.Machine.execSmulh e s
  | .sand e => Sys2Proof.Machine.execSand e s
  | .sor e => Sys2Proof.Machine.execSor e s
  | .sxor e => Sys2Proof.Machine.execSxor e s
  | .snot e => Sys2Proof.Machine.execSnot e s
  | .sshl e => Sys2Proof.Machine.execSshl e s
  | .sshr e => Sys2Proof.Machine.execSshr e s
  | .ssar e => Sys2Proof.Machine.execSsar e s
  | .smin e => Sys2Proof.Machine.execSmin e s
  | .smax e => Sys2Proof.Machine.execSmax e s
  | .scmp e => Sys2Proof.Machine.execScmp e s
  | .ssel e => Sys2Proof.Machine.execSsel e s
  | .smov e => Sys2Proof.Machine.execSmov e s
  | .sbfe e => Sys2Proof.Machine.execSbfe e s
  | .spopc e => Sys2Proof.Machine.execSpopc e s
  | .sclz e => Sys2Proof.Machine.execSclz e s
  | .srdl e => Sys2Proof.Machine.execSrdl e s
  | .pand e => Sys2Proof.Machine.execPand e s
  | .por e => Sys2Proof.Machine.execPor e s
  | .pxor e => Sys2Proof.Machine.execPxor e s
  | .pnot e => Sys2Proof.Machine.execPnot e s
  | .pmov e => Sys2Proof.Machine.execPmov e s
  | .segw e => Sys2Proof.Machine.execSegw e s
  | .actm e => Sys2Proof.Machine.execActm e s
  | .bra e => Sys2Proof.Machine.execBra e s
  | .brc e => Sys2Proof.Machine.execBrc e s
  | .brx e => Sys2Proof.Machine.execBrx e s
  | .join e => Sys2Proof.Machine.execJoin e s
  | .call e => Sys2Proof.Machine.execCall e s
  | .callx e => Sys2Proof.Machine.execCallx e s
  | .ret e => Sys2Proof.Machine.execRet e s
  | .exit e => Sys2Proof.Machine.execExit e s
  | .yield e => Sys2Proof.Machine.execYield e s
  | .loop e => Sys2Proof.Machine.execLoop e s
  | .trap e => Sys2Proof.Machine.execTrap e s
  | .eret e => Sys2Proof.Machine.execEret e s
  | .bkpt e => Sys2Proof.Machine.execBkpt e s
  | .csrrd e => Sys2Proof.Machine.execCsrrd e s
  | .csrwr e => Sys2Proof.Machine.execCsrwr e s
  | .halt e => Sys2Proof.Machine.execHalt e s
  | .ld e => Sys2Proof.Machine.execLd e s
  | .st e => Sys2Proof.Machine.execSt e s
  | .ldfe e => Sys2Proof.Machine.execLdfe e s
  | .stfe e => Sys2Proof.Machine.execStfe e s
  | .stn4 e => Sys2Proof.Machine.execStn4 e s
  | .atom e => Sys2Proof.Machine.execAtom e s
  | .red e => Sys2Proof.Machine.execRed e s
  | .pref e => Sys2Proof.Machine.execPref e s
  | .cinv e => Sys2Proof.Machine.execCinv e s
  | .cwb e => Sys2Proof.Machine.execCwb e s
  | .fence e => Sys2Proof.Machine.execFence e s
  | .fencesc e => Sys2Proof.Machine.execFencesc e s
  | .sld e => Sys2Proof.Machine.execSld e s
  | .sst e => Sys2Proof.Machine.execSst e s
  | .cpy e => Sys2Proof.Machine.execCpy e s
  | .cpyq e => Sys2Proof.Machine.execCpyq e s
  | .gath e => Sys2Proof.Machine.execGath e s
  | .tlwait e => Sys2Proof.Machine.execTlwait e s
  | .tlrd e => Sys2Proof.Machine.execTlrd e s
  | .xlate e => Sys2Proof.Machine.execXlate e s
  | .phint e => Sys2Proof.Machine.execPhint e s
  | .twflush e => Sys2Proof.Machine.execTwflush e s
  | .acq e => Sys2Proof.Machine.execAcq e s
  | .grel e => Sys2Proof.Machine.execGrel e s
  | .binit e => Sys2Proof.Machine.execBinit e s
  | .barv e => Sys2Proof.Machine.execBarv e s
  | .bwait e => Sys2Proof.Machine.execBwait e s
  | .barw e => Sys2Proof.Machine.execBarw e s
  | .bxpct e => Sys2Proof.Machine.execBxpct e s
  | .btest e => Sys2Proof.Machine.execBtest e s
  | .bdl e => Sys2Proof.Machine.execBdl e s
  | .tnow e => Sys2Proof.Machine.execTnow e s
  | .twait e => Sys2Proof.Machine.execTwait e s
  | .setdl e => Sys2Proof.Machine.execSetdl e s
  | .dlget e => Sys2Proof.Machine.execDlget e s
  | .mpost e => Sys2Proof.Machine.execMpost e s
  | .aclr e => Sys2Proof.Machine.execAclr e s
  | .acld e => Sys2Proof.Machine.execAcld e s
  | .acst e => Sys2Proof.Machine.execAcst e s
  | .mstat e => Sys2Proof.Machine.execMstat e s
  | .mcncl e => Sys2Proof.Machine.execMcncl e s
  | .seedscan e => Sys2Proof.Machine.execSeedscan e s
  | .seedgen e => Sys2Proof.Machine.execSeedgen e s
  | .rsvi e => Sys2Proof.Machine.execRsvi e s
  | .rsvu e => Sys2Proof.Machine.execRsvu e s
  | .rsvm e => Sys2Proof.Machine.execRsvm e s
  | .rsvf e => Sys2Proof.Machine.execRsvf e s
  | .rsvget e => Sys2Proof.Machine.execRsvget e s
  | .rsvset e => Sys2Proof.Machine.execRsvset e s
  | .trace e => Sys2Proof.Machine.execTrace e s
  | .beam e => Sys2Proof.Machine.execBeam e s
  | .hitld e => Sys2Proof.Machine.execHitld e s
  | .pxl e => Sys2Proof.Machine.execPxl e s
  | .pxs e => Sys2Proof.Machine.execPxs e s
  | .frmacq e => Sys2Proof.Machine.execFrmacq e s
  | .fpres e => Sys2Proof.Machine.execFpres e s
  | .frmst e => Sys2Proof.Machine.execFrmst e s
  | .qpost e => Sys2Proof.Machine.execQpost e s
  | .qwait e => Sys2Proof.Machine.execQwait e s
  | .qstat e => Sys2Proof.Machine.execQstat e s
  | .kstat e => Sys2Proof.Machine.execKstat e s
  | .rwr e => Sys2Proof.Machine.execRwr e s
  | .rrd e => Sys2Proof.Machine.execRrd e s
  | .rwrf e => Sys2Proof.Machine.execRwrf e s
  | .ratm e => Sys2Proof.Machine.execRatm e s
  | .lred e => Sys2Proof.Machine.execLred e s
  | .rdva e => Sys2Proof.Machine.execRdva e s
  | .rdvw e => Sys2Proof.Machine.execRdvw e s
  | .lstat e => Sys2Proof.Machine.execLstat e s
  | .unassignedOpcode op len => Sys2Proof.Machine.execUnassignedOpcode op len s
  | .homeSlicePerform seq => Sys2Proof.Machine.execHomeSlicePerform seq s
  | .loadReturn w seq threads => Sys2Proof.Machine.execLoadReturn w seq threads s
  | .sfqRequestComplete w seq thread => Sys2Proof.Machine.execSfqRequestComplete w seq thread s
  | .ldfeServe w sp => Sys2Proof.Machine.execLdfeServe w sp s
  | .scDrainDone w sp => Sys2Proof.Machine.execScDrainDone w sp s
  | .deviceHeartbeatTick => Sys2Proof.Machine.execDeviceHeartbeatTick s
  | .ptTick => Sys2Proof.Machine.execPtTick s
  | .twaitRelease w sp => Sys2Proof.Machine.execTwaitRelease w sp s
  | .gathReturn w seq => Sys2Proof.Machine.execGathReturn w seq s
  | .copyOperationComplete op => Sys2Proof.Machine.execCopyOperationComplete op s
  | .regwinHeldWrite op => Sys2Proof.Machine.execRegwinHeldWrite op s
  | .barrierDeadline g b => Sys2Proof.Machine.execBarrierDeadline g b s
  | .faultRecordDeferred slot => Sys2Proof.Machine.execFaultRecordDeferred slot s
  | .priRequestRelease => Sys2Proof.Machine.execPriRequestRelease s
  | .invalidationComplete id => Sys2Proof.Machine.execInvalidationComplete id s
  | .convoyReserve part => Sys2Proof.Machine.execConvoyReserve part s
  | .acqGrant core => Sys2Proof.Machine.execAcqGrant core s
  | .grelComplete w sp => Sys2Proof.Machine.execGrelComplete w sp s
  | .convoyRetire c => Sys2Proof.Machine.execConvoyRetire c s
  | .parameterRead k => Sys2Proof.Machine.execParameterRead k s
  | .kernelFinish k => Sys2Proof.Machine.execKernelFinish k s
  | .packetDispatch q => Sys2Proof.Machine.execPacketDispatch q s
  | .packetLaunch q index => Sys2Proof.Machine.execPacketLaunch q index s
  | .packetCopy q index => Sys2Proof.Machine.execPacketCopy q index s
  | .copyPacketComplete op => Sys2Proof.Machine.execCopyPacketComplete op s
  | .packetSignal q index => Sys2Proof.Machine.execPacketSignal q index s
  | .packetWait q index => Sys2Proof.Machine.execPacketWait q index s
  | .waitConditionMet q => Sys2Proof.Machine.execWaitConditionMet q s
  | .frameArm q index => Sys2Proof.Machine.execFrameArm q index s
  | .framePresent q index => Sys2Proof.Machine.execFramePresent q index s
  | .packetRdv q index => Sys2Proof.Machine.execPacketRdv q index s
  | .headHeaderTimeout q => Sys2Proof.Machine.execHeadHeaderTimeout q s
  | .queueEvict q => Sys2Proof.Machine.execQueueEvict q s
  | .queueReload q => Sys2Proof.Machine.execQueueReload q s
  | .partitionHalted slot => Sys2Proof.Machine.execPartitionHalted slot s
  | .hamperExchangeComplete slot => Sys2Proof.Machine.execHamperExchangeComplete slot s
  | .hamperImageDisplace slot => Sys2Proof.Machine.execHamperImageDisplace slot s
  | .rollCallFullServe cl => Sys2Proof.Machine.execRollCallFullServe cl s
  | .tileBind cl => Sys2Proof.Machine.execTileBind cl s
  | .matrixPass cl => Sys2Proof.Machine.execMatrixPass cl s
  | .matrixStepComplete cl => Sys2Proof.Machine.execMatrixStepComplete cl s
  | .matrixClassOwed cl cls => Sys2Proof.Machine.execMatrixClassOwed cl cls s
  | .matrixOperandAvailable cl task => Sys2Proof.Machine.execMatrixOperandAvailable cl task s
  | .rayComplete w seq thread => Sys2Proof.Machine.execRayComplete w seq thread s
  | .beamComplete op => Sys2Proof.Machine.execBeamComplete op s
  | .frameDeadline f => Sys2Proof.Machine.execFrameDeadline f s
  | .framePresentation f => Sys2Proof.Machine.execFramePresentation f s
  | .rtpPacketTransmit f => Sys2Proof.Machine.execRtpPacketTransmit f s
  | .pxlReturn w seq thread => Sys2Proof.Machine.execPxlReturn w seq thread s
  | .fpresApply id => Sys2Proof.Machine.execFpresApply id s
  | .rdvGuard r => Sys2Proof.Machine.execRdvGuard r s
  | .rdvHalfGuard r => Sys2Proof.Machine.execRdvHalfGuard r s
  | .rdvInstant r doff => Sys2Proof.Machine.execRdvInstant r doff s
  | .rdvRecordDeadline r => Sys2Proof.Machine.execRdvRecordDeadline r s
  | .backwardStep => Sys2Proof.Machine.execBackwardStep s
  | .sectorOwedIssue core sector cls => Sys2Proof.Machine.execSectorOwedIssue core sector cls s
  | .rotationLimit w sp => Sys2Proof.Machine.execRotationLimit w sp s
  | .waveFree w => Sys2Proof.Machine.execWaveFree w s
  | .contextPreempt slot => Sys2Proof.Machine.execContextPreempt slot s
  | .queueDoorbell q index => Sys2Proof.Machine.execQueueDoorbell q index s
  | .migrationCommit slot va => Sys2Proof.Machine.execMigrationCommit slot va s
  | .ptpAnnounce port selected => Sys2Proof.Machine.execPtpAnnounce port selected s
  | .onePpsEdge => Sys2Proof.Machine.execOnePpsEdge s
  | .syncMeasurement offset => Sys2Proof.Machine.execSyncMeasurement offset s
  | .announceTimeout => Sys2Proof.Machine.execAnnounceTimeout s
  | .ptsetWrite v => Sys2Proof.Machine.execPtsetWrite v s
  | .ptpenWrite v => Sys2Proof.Machine.execPtpenWrite v s
  | .faultResponseRetry slot seq => Sys2Proof.Machine.execFaultResponseRetry slot seq s
  | .faultResponseFail slot seq => Sys2Proof.Machine.execFaultResponseFail slot seq s
  | .atsTranslationCompletion slot va ans => Sys2Proof.Machine.execAtsTranslationCompletion slot va ans s
  | .prgResponseSuccess slot va => Sys2Proof.Machine.execPrgResponseSuccess slot va s
  | .prgResponseInvalidRequest slot va => Sys2Proof.Machine.execPrgResponseInvalidRequest slot va s
  | .prgResponseFailure slot va => Sys2Proof.Machine.execPrgResponseFailure slot va s
  | .priReenable alloc => Sys2Proof.Machine.execPriReenable alloc s
  | .atsInvalidateRequest slot va len => Sys2Proof.Machine.execAtsInvalidateRequest slot va len s
  | .invalidationStart slot => Sys2Proof.Machine.execInvalidationStart slot s
  | .migrationStart slot va frame => Sys2Proof.Machine.execMigrationStart slot va frame s
  | .placementEpoch pool => Sys2Proof.Machine.execPlacementEpoch pool s
  | .queueResume q index => Sys2Proof.Machine.execQueueResume q index s
  | .queueDisable q => Sys2Proof.Machine.execQueueDisable q s
  | .queueBind v => Sys2Proof.Machine.execQueueBind v s
  | .queueUnbind v => Sys2Proof.Machine.execQueueUnbind v s
  | .contextLoad slot => Sys2Proof.Machine.execContextLoad slot s
  | .contextRun slot => Sys2Proof.Machine.execContextRun slot s
  | .contextSwapout slot => Sys2Proof.Machine.execContextSwapout slot s
  | .contextResume slot => Sys2Proof.Machine.execContextResume slot s
  | .contextSwitch slot b => Sys2Proof.Machine.execContextSwitch slot b s
  | .contextTerminate slot => Sys2Proof.Machine.execContextTerminate slot s
  | .contextUnload slot => Sys2Proof.Machine.execContextUnload slot s
  | .rtpPacketReceive flow pkt => Sys2Proof.Machine.execRtpPacketReceive flow pkt s
  | .flowEnable flow v => Sys2Proof.Machine.execFlowEnable flow v s
  | .flowDisable flow v => Sys2Proof.Machine.execFlowDisable flow v s
  | .linkEnable l => Sys2Proof.Machine.execLinkEnable l s
  | .linkDrain l => Sys2Proof.Machine.execLinkDrain l s
  | .linkReset l => Sys2Proof.Machine.execLinkReset l s
  | .linkHandshake l ans => Sys2Proof.Machine.execLinkHandshake l ans s
  | .linkDegrade l => Sys2Proof.Machine.execLinkDegrade l s
  | .linkRecover l => Sys2Proof.Machine.execLinkRecover l s
  | .portDown p => Sys2Proof.Machine.execPortDown p s
  | .nraRetransmit l seq => Sys2Proof.Machine.execNraRetransmit l seq s
  | .nraOperationReceive l op => Sys2Proof.Machine.execNraOperationReceive l op s
  | .nraAck l seq => Sys2Proof.Machine.execNraAck l seq s
  | .nraReceiverNotReady l seq => Sys2Proof.Machine.execNraReceiverNotReady l seq s
  | .nraFinalNack l seq => Sys2Proof.Machine.execNraFinalNack l seq s
  | .nraReadResponse l seq data => Sys2Proof.Machine.execNraReadResponse l seq data s
  | .rdvReadyMessage r inst member => Sys2Proof.Machine.execRdvReadyMessage r inst member s
  | .rdvReport r inst member rep => Sys2Proof.Machine.execRdvReport r inst member rep s
  | .rdvDetach slot va => Sys2Proof.Machine.execRdvDetach slot va s
  | .partnWrite v => Sys2Proof.Machine.execPartnWrite v s
  | .pwrcapWrite v => Sys2Proof.Machine.execPwrcapWrite v s
  | .clockAdjust mhz => Sys2Proof.Machine.execClockAdjust mhz s
  | .stglenWrite v => Sys2Proof.Machine.execStglenWrite v s
  | .bclrWrite v => Sys2Proof.Machine.execBclrWrite v s
  | .attnWrite v => Sys2Proof.Machine.execAttnWrite v s
  | .rwdataRead slot size => Sys2Proof.Machine.execRwdataRead slot size s
  | .rwdataWrite slot size v => Sys2Proof.Machine.execRwdataWrite slot size v s
  | .apertureRead off size => Sys2Proof.Machine.execApertureRead off size s
  | .apertureWrite off size v => Sys2Proof.Machine.execApertureWrite off size v s
  | .registerWrite off size v => Sys2Proof.Machine.execRegisterWrite off size v s
  | .powerUp outcomes => Sys2Proof.Machine.execPowerUp outcomes s
  | .d3hotEntry => Sys2Proof.Machine.execD3hotEntry s
  | .d0Return => Sys2Proof.Machine.execD0Return s
  | .powerLoss => Sys2Proof.Machine.execPowerLoss s
  | .portUp p => Sys2Proof.Machine.execPortUp p s
  | .attestationReportReady answer => Sys2Proof.Machine.execAttestationReportReady answer s
  | .imageVerificationDone pass => Sys2Proof.Machine.execImageVerificationDone pass s

end Sys2Proof.Machine
end

