-- ==== Sys2Proof/Machine/Run.lean ====
section
/-! DEFINITION. What moves next (log 1): the issued instruction, an entry of the agenda, or, with an empty agenda, the first enabled
step of a lane or of another agent. -/

namespace Sys2Proof.Machine

/-- Clearing the issue cursor after an instruction. -/
def State.clearCur (s : State) : State := { s with cur := none }

/-- The next state of an outcome, changed; a fault or a refusal stays. -/
def Out.map (o : Out) (f : State → State) : Out :=
  match o with
  | .next s => .next (f s)
  | .fault r => .fault r
  | .refused r => .refused r

/-! ### The issued instruction -/

/-- A trap of the fetch or of the encoding, at the instruction's first word (R16, R44). -/
def issueTrap (s : State) (w : Wave) (p : Split) (c : Cause) (addr len : Nat) : State :=
  takeTrap s w p len { cause := c, code := 0, mask := p.mask.setWidth 64, addr, rpl := false }

/-- The length in words that the first word gives (R15). -/
def lenOfWords (ws : List Word) : Nat := (formOf (wLen (ws.headD 0))).words

/-- The length of the instruction at a split's PC, where it can be fetched. -/
def lenAt (s : State) (w : Wave) (p : Split) : Nat := match fetch s w p with | .words ws _ => lenOfWords ws | _ => 1

/-- Accesses on a page of 4 KiB. -/
def accsOn (l : List Acc) (page : Nat) : List Acc := l.filter fun a => a.va / 4096 * 4096 == page

/-- The service that a split waited for has failed (R243): PAGE, for the threads whose access was not made (R218), or for a
fetch at its first word (R16). -/
def lostTrap (s : State) (w : Wave) (p : Split) : State :=
  let q : Split := { p with st := p.resumed, replay := none, also := [], waiting := none }
  let word := if p.lost = p.pc.toNat / 4096 * 4096 then p.pc.toNat else p.lost
  match p.replay with
  | none => issueTrap s w q .page word 1
  | some r =>
    let l := r.accs.getD []
    let here := accsOn l p.lost
    let s := match r.pend with
      | some seq => s.modWave w.uid fun w => (lanesOf r.mask).foldl (fun w t => w.clearPend seq t) w
      | none => s
    let t : TrapInfo :=
      { maskTrap .page r.mask (if here.isEmpty then word else lowestVa here) true with again := l, ins := r.pend }
    match s.wave? w.uid with
    | some x => takeTrap s x q (lenAt s w p) t
    | none => s

/-- The threads whose data was uncorrectable when a load or a read-modify-write read it after its issue: the number, the thread and the
address (R220). -/
def Wave.eccReturned (w : Wave) : List (Nat × Nat × Nat) :=
  w.pend.flatMap fun p => match p.body with
    | .load .. | .atom .. | .later => (p.fails.filter fun x => x.2.1 == .ecc).map fun x => (p.seq, x.1, x.2.2)
    | _ => []

/-- A load issued again after a halt or an invalidation has consumed uncorrectable data (R220): the wave traps ECC at the next
instruction that it issues and that is no replay (log 92). -/
def eccTrap (s : State) (w : Wave) (p : Split) (l : List (Nat × Nat × Nat)) : State :=
  let s := s.modWave w.uid fun w => { w with pend := w.pend.map fun q =>
    { q with fails := q.fails.filter fun x => !l.contains (q.seq, x.1, x.2.2) } }
  let low := (l.map (·.2.2)).foldl min ((l.map (·.2.2)).headD 0)
  match s.wave? w.uid with
  | some x => takeTrap s x p (lenAt s w p) (maskTrap .ecc (maskOfList (l.map (·.2.1))) low false)
  | none => s

/-- The instruction of the split that the cursor names: fetched, decoded and executed (R16, R44). A cursor whose split
cannot issue is dropped. A wait whose instruction has to be fetched again is kept while the fetch waits for service. -/
def runCurrent (s : State) (u n : Nat) : Out :=
  match s.wave? u with
  | none => .next s.clearCur
  | some w => match w.split? n with
    | none => .next s.clearCur
    | some p =>
      if !canIssue s w p then .next s.clearCur
      else if p.st = .parked .failed then .next (lostTrap s w p).clearCur
      else if w.eccReturned != [] && p.replay.isNone then .next (eccTrap s w p w.eccReturned).clearCur
      else match fetch s w p with
        | .trap c addr =>
          .next (issueTrap (if c = .ecc then s.retireAt w.ctx addr else s) w p c addr 1).clearCur
        | .park pk s => .next (s.modWave u fun w =>
            { w.modSplit n fun q =>
                { q with st := .parked pk, also := [], waiting := match p.st with | .blocked wt => some wt | _ => none } with
              stored := true }).clearCur
        | .words ws s => match decodeWords ws with
          | .error _ => .next (issueTrap s w p .illegal 0 (lenOfWords ws)).clearCur
          | .ok i => Out.map (exec i s) State.clearCur

/-! ### Lanes -/

/-- The lanes that hold waves, the least recently issuing first. -/
def lanesByAge (s : State) : List (Nat × Nat) :=
  let here := (s.waves.map fun w => (w.core, w.lane)).eraseDups
  let known := (s.lanes.map fun l => (l.core, l.lane)).filter fun k => here.contains k
  (here.filter fun k => !known.contains k) ++ known.reverse

/-- Setting the cursor by the issue choice of a lane (R125, R126). -/
def issueLane (s : State) (core lane : Nat) : State :=
  match chooseIssue s core lane with
  | none => s
  | some (w, p) => { enterIssue (countStarved s core lane w.cls) w p with cur := some (w.uid, p.num) }

/-- The first lane with an issue. -/
def firstLane (s : State) : List (Nat × Nat) → Option (Nat × Nat)
  | [] => none
  | (c, l) :: r => if (chooseIssue s c l).isSome then some (c, l) else firstLane s r

/-! ### Other agents -/

/-- A step of an agent, where it can take place. -/
abbrev Cand := State → Option State

/-- One element of an engine operation (R223, R228). -/
def engineStep (id : Nat) : Cand := fun s => (s.op? id).bind fun o =>
  if o.op == .cpy || o.op == .cpyq then copyStep s o else none

/-- One read of an `LRED` at its origin (R425). -/
def originStep (l id : Nat) : Cand := fun s => ((s.link l).ops.find? fun o => o.id == id).bind fun o => lredStep s l o

/-- One byte of a `COPY` packet (R306). -/
def packetStep (id : Nat) : Cand := fun s => (s.pktCopies.find? fun c => c.id == id).bind fun c => packetCopyStep s c

/-- The message of a pending MSI-X vector leaves, and the vector is pending no more (R441). -/
def msixStep : Cand := fun s => match s.msix with
  | [] => none
  | v :: r => some { s with msix := r, out := s.out ++ [OutMsg.msix v] }

/-- The device's heartbeat, where an sc operation waits for it (R101). -/
def heartbeatStep : Cand := fun s =>
  if (scWaiting s false).isEmpty then none else match execDeviceHeartbeatTick s with | .next t => some t | _ => none

/-- Steps for the outstanding writes of a wave. -/
def pendSteps (w : Wave) (p : Pend) : List Cand :=
  match p.body with
  | .load .. | .atom .. => tryLoadReturn w.uid p.seq p.mask :: (lanesOf p.mask).map fun t => tryLoadReturn w.uid p.seq (1 <<< t)
  | .xlate _ => [tryLoadReturn w.uid p.seq p.mask]
  | .sfq .. => (lanesOf p.mask).map fun t => trySfqRequestComplete w.uid p.seq t
  | .gath _ => [tryGathReturn w.uid p.seq]
  | .trace .. => (lanesOf p.mask).map fun t => tryRayComplete w.uid p.seq t
  | .pxl .. => (lanesOf p.mask).map fun t => tryPxlReturn w.uid p.seq t
  | .remote _ | .later => []

/-- Steps that a split waits for. -/
def splitSteps (w : Wave) (p : Split) : List Cand :=
  match p.st with
  | .blocked (.ldfe ..) => [tryLdfeServe w.uid p.num]
  | .blocked (.scDrain ..) => [tryScDrainDone w.uid p.num]
  | .blocked (.twait ..) => [tryTwaitRelease w.uid p.num]
  | .blocked (.grel ..) => [tryGrelComplete w.uid p.num]
  | _ => []

/-- Steps of and for waves. -/
def waveSteps (s : State) : List Cand :=
  (s.stores.map fun m => tryHomeSlicePerform m.seq) ++
  (s.waves.flatMap fun w => (w.pend.flatMap (pendSteps w)) ++ w.splits.flatMap (splitSteps w)) ++ [heartbeatStep, tryPtTick]

/-- Steps of engines: copies, matrix engines, rays, presents, links. -/
def engineSteps (s : State) : List Cand :=
  let cls : List Nat := (s.tasks.map Task.cl ++ s.groups.map fun (g : Group) => g.core / 4).eraseDups
  (s.ops.flatMap fun o => [engineStep o.id, tryRegwinHeldWrite o.id, tryCopyOperationComplete o.id, tryFpresApply o.id]) ++
  (s.tasks.flatMap fun t => [tryBeamComplete t.id, tryMatrixOperandAvailable t.cl t.id]) ++
  (s.mcount.map fun x => tryMatrixClassOwed x.1 x.2.1) ++
  (cls.flatMap fun c => [tryRollCallFullServe c, tryTileBind c, tryMatrixStepComplete c, tryMatrixPass c]) ++
  (List.range 16).flatMap fun l =>
    ((s.link l).ops.map fun o => originStep l o.id) ++ [tryLinkDegrade l, tryLinkRecover l]

/-- Steps of the distributor and of kernels. -/
def kernelSteps (s : State) : List Cand :=
  (s.waves.filter fun w => w.exited).map (fun w => tryWaveFree w.uid) ++
  (s.acqQ.map fun a => tryAcqGrant a.core) ++
  (s.convoys.map fun c => tryConvoyRetire c.uid) ++
  (s.kernels.flatMap fun k => [tryParameterRead k.uid, tryKernelFinish k.uid]) ++
  (if s.kernels.isEmpty then [] else (List.range s.mgmt.partn).map tryConvoyReserve) ++
  s.groups.flatMap fun g => (List.range g.bars.length).map fun k => tryBarrierDeadline g.uid k

/-- A parked queue has something held for it (R318). -/
def hasHeld (s : State) (q : Queue) : Bool :=
  !q.onChip && ((s.parkBuf.any fun x => x.1 == q.num) || s.bellMap.any fun x => x.1 == q.num)

/-- A parked queue has a condition to evaluate or a head header to read when it is cached again (R318). A `WAIT` may be outstanding
in ERROR and DISABLED too, and parking changes only timing. -/
def hasWork (q : Queue) : Bool := !q.onChip && (q.st == 1 || q.st == 2 || q.waitAt.isSome)

/-- Reloading the queues of a kind, and making room for them (R318). -/
def cacheSteps (s : State) (want : Queue → Bool) : List Cand :=
  let l := s.queues.filter want
  (l.map fun q => tryQueueReload q.num) ++ (if l.isEmpty then [] else s.queues.map fun q => tryQueueEvict q.num)

/-- Steps of the command processor. -/
def queueSteps (s : State) : List Cand :=
  let packet (q : Queue) (p : RPkt) : List Cand :=
    [tryPacketLaunch q.num p.index, tryPacketCopy q.num p.index, tryPacketSignal q.num p.index, tryPacketWait q.num p.index,
     tryFrameArm q.num p.index, tryFramePresent q.num p.index, tryPacketRdv q.num p.index]
  (s.queues.flatMap fun q =>
    (q.running.flatMap (packet q)) ++ [tryWaitConditionMet q.num, tryPacketDispatch q.num, tryHeadHeaderTimeout q.num]) ++
  cacheSteps s (hasHeld s) ++ s.pktCopies.flatMap fun c => [packetStep c.id, tryCopyPacketComplete c.id]

/-- Steps of firmware and of the timed engines. -/
def firmwareSteps (s : State) : List Cand :=
  [msixStep, tryFlashWritten] ++ (s.inval.map fun v => tryInvalidationComplete v.id) ++
  ((List.range 64).flatMap fun c => match (s.ctx c).st with
    | .empty | .loaded => []
    | _ => [tryPartitionHalted c, tryHamperImageDisplace c, tryHamperExchangeComplete c, tryFaultRecordDeferred c]) ++
  [tryBackwardStep, tryPriRequestRelease] ++
  (s.migrating.map fun m => tryMigrationCommit m.ctx m.va) ++ (List.range 16).map tryPlacementEpoch ++
  (s.frames.flatMap fun f => [tryFrameDeadline f.id, tryFramePresentation f.id, tryRtpPacketTransmit f.id]) ++
  s.rdvs.flatMap fun r => [tryRdvGuard r.id, tryRdvHalfGuard r.id, rdvInstantFree r.id, tryRdvRecordDeadline r.id]

/-- The steps that the device takes by itself, as candidates in a fixed order (log 1). -/
def ownSteps (s : State) : List Cand :=
  waveSteps s ++ engineSteps s ++ kernelSteps s ++ queueSteps s ++ firmwareSteps s ++ cacheSteps s hasWork

/-- The first of some steps of other agents that is enabled. -/
def firstEnabled (s : State) : List Cand → Option State
  | [] => none
  | f :: r => (f s).orElse fun _ => firstEnabled s r

/-- An entry of the agenda. -/
def runAction (s : State) : Action → Out
  | .event i => exec i s
  | .issue core lane => .next (issueLane s core lane)
  | .elapse ns => .next (passTime s ns)
  | .evict n => .next { s with tlb := s.tlb.eraseIdx n }
  | .engine id => made s (engineStep id s)
  | .packetCopy id => made s (packetStep id s)
  | .command slot w => .next (waitedCommand slot w s)
  | .ecc e => .next (s.ecc e)

/-- A step with an empty agenda: lanes and other agents take turns, and a nanosecond passes. -/
def runFree (s : State) : State :=
  let t := { s with turn := !s.turn }
  let byLane := (firstLane s (lanesByAge s)).map fun l => issueLane t l.1 l.2
  let byAgent := firstEnabled t (ownSteps t)
  let r := if s.turn then byAgent.orElse fun _ => byLane else byLane.orElse fun _ => byAgent
  passTime (r.getD t) 1

/-- One step without power (R448): nothing but a power-up. -/
def runOff (s : State) : Out :=
  match s.agenda with
  | .event (.powerUp os) :: r => execPowerUp os { s with agenda := r }
  | _ => .fault .noPower

/-- One step of the machine. -/
def runStep (s : State) : Out :=
  match s.cur with
  | some (u, n) => runCurrent s u n
  | none =>
    if s.power = .off then runOff s
    else match s.agenda with
    | a :: r => runAction { s with agenda := r } a
    | [] => .next (runFree s)

/-! ### Placing an instruction -/

/-- The virtual address, the physical address and the table base that `withFetchWord` uses. -/
def placeVa : Nat := 0x100000
def placePa : Nat := 0x100000
def placeTable : Nat := 0x200000

/-- Five levels of page tables that map one 4 KiB page: user, writable, executable (R232, R233). -/
def placeTables (m : Sparse Byte) : Sparse Byte :=
  let ptr (k : Nat) : Nat := placeTable + 4096 * k + 1
  let m := writeLe m (placeTable + 8 * (placeVa / 2 ^ 48 % 512)) 8 (ptr 1)
  let m := writeLe m (placeTable + 0x1000 + 8 * (placeVa / 2 ^ 39 % 512)) 8 (ptr 2)
  let m := writeLe m (placeTable + 0x2000 + 8 * (placeVa / 2 ^ 30 % 512)) 8 (ptr 3)
  let m := writeLe m (placeTable + 0x3000 + 8 * (placeVa / 2 ^ 21 % 512)) 8 (ptr 4)
  writeLe m (placeTable + 0x4000 + 8 * (placeVa / 2 ^ 12 % 512)) 8 (placePa + 0x3D)

/-- The wave that runs the placed instruction: full profile, full allotment, 32 threads. -/
def placeWave (u : Nat) : Wave :=
  { uid := u, ctx := 0, kernel := u + 1, group := u + 3, core := 0, lane := 0, slot := 0, idx := 0,
    halted := false, splits := [freshSplit (BitVec.ofNat 64 placeVa) 0xFFFFFFFF 32], lastSp := 0, regs := 192,
    target := 192, v := [], badV := [], p := [], fp := [], latch := ⟨[], 0, []⟩, stored := false, back := false, udiv := false, pend := [],
    tls := List.replicate 8 ⟨0, [], [], []⟩, tw := [], arr := List.replicate 4 ⟨0, 0, 0, true⟩, dl := never, cls := 2,
    launchCls := 2, full := true, efl := 0, trap := none, stuck := false }

/-- The kernel, convoy and group of the placed instruction. -/
def placeKernel (u : Nat) : Kernel :=
  { uid := u + 1, ctx := 0, q := 0, index := 0, st := 3, cls := 2, full := true, segw := 32, conv := 1, team := 0,
    gthr := 32, regs := 192, pregs := 192, bars := 16, margin := 0, scr := 262144, pscr := 262144,
    code := BitVec.ofNat 64 placeVa, nx := 1, ny := 1, nz := 1, dl := never, sfirst := 0xFFFFFFFF, slast := 0, param := 0,
    recA := 0, params := [], next := 1, placed := 1, shed := [], gdone := 0, durSum := 0, retired := 0, readyNo := 0,
    fcause := none, fcount := 0, donePT := 0, dieLast := none, passed := false, pref := none, det := [], parkedOn := none }
def placeConvoy (u : Nat) : Convoy :=
  { uid := u + 2, ctx := 0, kernel := u + 1, idx := 0, st := .resident, groups := [u + 3], dieWas := none, distWas := 127 }
def placeGroup (u : Nat) : Group :=
  { uid := u + 3, ctx := 0, kernel := u + 1, convoy := u + 2, member := 0, core := 0, idx := 0, waves := 1, st := .running,
    granted := true, reservedAll := false, scratch := 262144, scratchTarget := 262144, plan := [], preRegs := 192, fullRegs := 192,
    mem := [], full := [], bad := [], bars := List.replicate 16 (Barrier.fresh 1), det := [], team := 0, calls := [], commitPT := 0 }

/-- Placing the words of an instruction where the next step fetches it: a supervisor context in slot 0 with a handler, its
page tables, the code bytes, and one wave of one kernel that is issuing (log 1). -/
def placeWord (s : State) (nbits w : Nat) : State :=
  let u := s.nextUid
  { s with
    agenda := [], cur := some (u, 0), nextUid := u + 4,
    ctxs := s.ctxs.set 0 { Ctx.fresh with st := .running, ptroot := placeTable, hen := true, ksup := true },
    mem := writeLe (placeTables s.mem) placePa 28 (w % 2 ^ nbits),
    tlb := s.tlb.filter fun t => t.ctx != 0,
    migrating := s.migrating.filter fun m => m.ctx != 0,
    badSectors := s.badSectors.filter fun k => !(decide (placePa / 64 ≤ k) && decide (k < placeTable / 64 + 320)),
    kernels := placeKernel u :: s.kernels, convoys := placeConvoy u :: s.convoys, groups := placeGroup u :: s.groups,
    waves := placeWave u :: s.waves.filter fun x => !(x.core == 0 && x.lane == 0 && x.slot == 0),
    lanes := { core := 0, lane := 0, wave := u, split := 0 } :: s.lanes.filter fun l => !(l.core == 0 && l.lane == 0) }

end Sys2Proof.Machine
end

