-- ==== Sys2Proof/Machine/Step.lean ====
section
/-! DEFINITION. The step of the machine, and the placing of an instruction where it fetches next. -/

namespace Sys2Proof.Machine

/-- One step: the issued instruction, an entry of the agenda, or a step of the device itself (`runStep`). -/
def step (s : State) : Host.Outcome State Fault Refusal := runStep s

/-- The state with an instruction's words stored where `step` fetches its next instruction (`placeWord`). -/
def State.withFetchWord (s : State) (nbits w : Nat) : State := placeWord s nbits w

end Sys2Proof.Machine
end

