-- ==== Sys2Proof/Safety.lean ====
section
/-! DEFINITION. The terms in which claims are made: when an instruction issues and is executed, what a step leaves unchanged, how the
issuing split moves on, and the canonical memory that every step keeps. -/

namespace Sys2Proof.Machine

/-- The next state of an outcome. -/
def nextOf (o : Out) : Option State := match o with | .next t => some t | _ => none

/-- The issue invalidates the wave's latches (R35, R36). -/
def latchesDrop (op : Op) (e : Enc) (w : Wave) (sp : Split) : Bool :=
  dropsLatches op || touchesUnwaited (issueOf op e w sp) w

/-- The state that the meaning starts from. -/
def issued (op : Op) (e : Enc) (s : State) (w : Wave) (sp : Split) : State :=
  if latchesDrop op e w sp then s.modWave w.uid Wave.dropLatches else s

/-- The split `sp` of the wave `w` is issuing the instruction, and it is executed: none of the traps that the encoding, the
mode, the allotment and the latches decide (R44, R45, R59), no outstanding write or copy in its registers (R111, R185), and no
uncorrectable error in what it reads (R450). -/
structure Issues (s : State) (op : Op) (e : Enc) (w : Wave) (sp : Split) : Prop where
  issuing : issuer s = some (w, sp)
  legal   : earlyTrap s (issueOf op e w sp) = none
  score   : scoreHeld (issueOf op e w sp) w = []
  copies  : copyHeld (issueOf op e w sp) w = []
  sound   : eccBad (issueOf op e w sp) = false

/-- The address after the instruction is not where the top entry of the split's stack reconverges (R120). -/
def NoJoin (e : Enc) (sp : Split) : Prop :=
  ∀ x ∈ sp.stack.head?, sp.pc + BitVec.ofNat 64 (4 * e.form.words) ≠ x.ja

/-- The split once its instruction is complete: past it, READY, with nothing held (R114). -/
def passed (e : Enc) (sp : Split) : Split :=
  { sp with pc := sp.pc + BitVec.ofNat 64 (4 * e.form.words), st := .ready, replay := none, held := none, begun := false,
            also := [] }

/-- Nothing but waves changes, and no wave but `u`: every byte of memory, every context, timeline owner, group, queue,
engine and management register stays. -/
structure OnlyWave (s t : State) (u : Nat) : Prop where
  rest   : { t with waves := s.waves } = s
  others : ∀ k, k ≠ u → t.wave? k = s.wave? k
  memory : ∀ a, byteAt t.mem a = byteAt s.mem a ∧ byteAt t.hostMem a = byteAt s.hostMem a

/-- Of a wave, nothing but its splits, vector registers, predicates, flags and latches changes. -/
structure OnlyRegs (w w' : Wave) : Prop where
  rest : { w' with splits := w.splits, v := w.v, badV := w.badV, p := w.p, fp := w.fp, latch := w.latch } = w

/-- No split of a wave but number `n` changes. -/
def OtherSplits (w w' : Wave) (n : Nat) : Prop := ∀ k, k ≠ n → w'.split? k = w.split? k

/-- The flags of every thread that is not enabled stay, and no flag of any thread is cleared (R84). -/
def FlagsGrow (w w' : Wave) (en : Word) : Prop :=
  ∀ t < 32, (en.getLsbD t = false → sget 0 w'.fp t = sget 0 w.fp t) ∧
    sget 0 w.fp t &&& sget 0 w'.fp t = sget 0 w.fp t

/-- The latches of a wave after an instruction without `LE`: as they were, or invalid (R33, R35, R36). -/
def latchAfter (op : Op) (e : Enc) (w : Wave) (sp : Split) : LatchFile :=
  if latchesDrop op e w sp then w.dropLatches.latch else w.latch

/-- The vector registers of `n` numbers from `d` in the enabled threads are the only ones that may change; with `NW` none
does (R34). -/
def VecFrame (e : Enc) (w w' : Wave) (en : Word) (d n : Nat) : Prop :=
  ∀ t < 32, ∀ r, (e.nw = true ∨ en.getLsbD t = false ∨ r < d ∨ d + n ≤ r) → w'.vreg r t = w.vreg r t

/-- The instruction is complete: `t` holds the wave as `w'` and the issuing split as `sp'`, and changes nothing else. -/
structure Completed (s t : State) (w w' : Wave) (sp sp' : Split) : Prop where
  only   : OnlyWave s t w.uid
  wave   : t.wave? w.uid = some w'
  regs   : OnlyRegs w w'
  split  : w'.split? sp.num = some sp'
  others : OtherSplits w w' sp.num

/-- A vector register or pair of a thread as a number. -/
def vecValue (w : Wave) (r : Nat) (wide : Bool) (t : Nat) : Nat := if wide then (w.vpair r t).toNat else (w.vreg r t).toNat

/-- The slot of a thread in a latch (R33). -/
def latchSlot (l : LatchFile) (b t : Nat) : DWord := sget 0 l.slots (b * 32 + t)

/-- What an instruction with `LE` leaves of the latches, from those that its issue leaves: the latch `LD` is valid; the slots of the
enabled threads hold what their destination registers hold, zero-extended and the first of several registers where there are more than
a pair, unless `NW` writes none; its other slots stay where it was valid and are zero where it was not; the other latches stay (R33,
R34, R146). -/
structure LatchWritten (op : Op) (e : Enc) (w w' : Wave) (sp : Split) (n : Nat) : Prop where
  valid : w'.latch.valid = (latchAfter op e w sp).valid ||| (1#4 <<< e.ld.toNat)
  slots : e.nw = false → ∀ t < 32, (enabledOf op e w sp).getLsbD t = true →
    (latchSlot w'.latch e.ld.toNat t).toNat = vecValue w' e.d.toNat (n == 2) t
  rest  : ∀ t < 32, (enabledOf op e w sp).getLsbD t = false → latchSlot w'.latch e.ld.toNat t =
    if (latchAfter op e w sp).valid.getLsbD e.ld.toNat then latchSlot w.latch e.ld.toNat t else 0
  other : ∀ b < 4, b ≠ e.ld.toNat → ∀ t < 32, latchSlot w'.latch b t = latchSlot w.latch b t

/-- The result that a vector instruction wrote for a thread: its destination register or pair, or with `NW` the slot of its latch, which
is then the only place of it (R34). -/
def written (e : Enc) (w' : Wave) (wide : Bool) (t : Nat) : Nat :=
  if e.nw then (latchSlot w'.latch e.ld.toNat t).toNat else vecValue w' e.d.toNat wide t

/-- A vector result of `n` registers was written: the wave before, `w`, the wave after, `w'` (R34, R36, R84). -/
structure VecResult (op : Op) (e : Enc) (w w' : Wave) (sp : Split) (n : Nat) : Prop where
  vec   : VecFrame e w w' (enabledOf op e w sp) e.d.toNat n
  preds : w'.p = w.p
  flags : FlagsGrow w w' (enabledOf op e w sp)
  latch : e.le = false → w'.latch = latchAfter op e w sp
  latched : e.le = true → LatchWritten op e w w' sp n

/-- The number of destination registers that an opcode's fields name (R25, R56). -/
def destRegs (op : Op) (e : Enc) : Nat :=
  countD op e (if mustPair (opSpec op).dpair (opSpec op).wide (pairType op e) then 2 else 1)

/-- A predicate result was written: predicate `n`, if it is not p7, in the enabled threads; nothing else (R25). -/
structure PredResult (op : Op) (e : Enc) (w w' : Wave) (sp : Split) (n : Nat) (m v : Word) : Prop where
  value : n ≠ 7 → w'.pred n = (w.pred n &&& ~~~m) ||| (v &&& m)
  other : ∀ k, k ≠ n ∨ n = 7 → w'.pred k = w.pred k
  vecs  : w'.v = w.v
  flags : w'.fp = w.fp
  latch : w'.latch = latchAfter op e w sp

/-- Nothing of a wave but its splits changed, and its latches as an issue changes them. -/
structure NoVectorEffect (op : Op) (e : Enc) (w w' : Wave) (sp : Split) : Prop where
  vecs  : w'.v = w.v
  preds : w'.p = w.p
  flags : w'.fp = w.fp
  latch : w'.latch = latchAfter op e w sp

/-- A scalar register, or an even pair where `wide`, of a split holds the low bits of a number; no other scalar register and
nothing else of the split changed. -/
structure ScalarWrite (p p' : Split) (d : Nat) (wide : Bool) (x : Nat) : Prop where
  low   : p'.sreg d = BitVec.ofNat 32 x
  high  : wide = true → p'.sreg (d + 1) = BitVec.ofNat 32 (x / 2 ^ 32)
  other : ∀ r, r ≠ d → (wide = false ∨ r ≠ d + 1) → p'.sreg r = p.sreg r
  rest  : { p' with s := p.s, badS := p.badS } = p

/-- The instruction is executed for the split: some thread is enabled (R28). -/
def Enabled (op : Op) (e : Enc) (w : Wave) (sp : Split) : Prop := enabledOf op e w sp ≠ 0

/-! ### Control and traps -/

/-- Where a control transfer goes (R129, R130, R133, R136). -/
def controlTarget (op : Op) (i : Issue) : DWord :=
  match op with
  | .bra => i.target22
  | .brx | .ret | .callx => i.sp.spair i.e.a.toNat
  | _ => i.target14

/-- A split after a control transfer. -/
def movedTo (e : Enc) (sp : Split) (target : DWord) : Split := { passed e sp with pc := target }

/-- The registers of a wave that every thread shares stay. -/
structure SameRegs (w w' : Wave) : Prop where
  vecs  : w'.v = w.v
  preds : w'.p = w.p
  flags : w'.fp = w.fp

/-- The wave is in its handler (R332, R336): the record, the saved split and latches, and the one handler split. -/
structure HandlerEntered (s t : State) (w : Wave) (sp : Split) (ti : TrapInfo) (len : Nat) : Prop where
  only : OnlyWave s t w.uid
  wave : ∃ w' r, t.wave? w.uid = some w' ∧ SameRegs w w' ∧ w'.latch.valid = 0 ∧ w'.trap = some r ∧
    r.cause = ti.cause ∧ r.code = ti.code ∧ r.len = len ∧ r.rpl = ti.rpl ∧ r.spl = sp.num ∧ r.tpc = sp.pc ∧
    r.tmask = ti.mask ∧ r.taddr = BitVec.ofNat 64 ti.addr ∧
    (r.saved.s = sp.s ∧ r.saved.x = sp.x ∧ r.saved.segw = sp.segw ∧ r.saved.stack = sp.stack ∧ r.saved.mask = sp.mask) ∧
    ∃ p, w'.split? sp.num = some p ∧ p.pc = (s.ctx w.ctx).handler ∧ p.mask = sp.mask ∧ p.s = sp.s ∧ p.x = sp.x ∧
      p.segw = 32 ∧ p.stack = [] ∧ p.st = .ready ∧ p.replay = none

/-- The context has faulted (R334): the fault record of its first fault, and no instruction of the wave issues. -/
structure ContextFaulted (s t : State) (w : Wave) (sp : Split) (ti : TrapInfo) (len : Nat) : Prop where
  rest  : { t with waves := s.waves, ctxs := s.ctxs } = s
  stuck : ∃ w', t.wave? w.uid = some w' ∧ w'.stuck = true ∧ SameRegs w w' ∧ w'.splits = w.splits
  other : ∀ k, k ≠ w.ctx → t.ctx k = s.ctx k
  record : (s.ctx w.ctx).xsplit = none →
    (t.ctx w.ctx).xcause = causeWord ti.cause ti.code len ti.rpl sp.num ∧ (t.ctx w.ctx).xpc = sp.pc ∧
    (t.ctx w.ctx).xmask = ti.mask ∧ (t.ctx w.ctx).xaddr = BitVec.ofNat 64 ti.addr ∧
    (t.ctx w.ctx).xsplit = some (w.uid, sp.num)
  halts : (s.ctx w.ctx).st = .running → (t.ctx w.ctx).st = .halting

/-! ### Memory -/

/-- Every access of a memory instruction reaches a place, on its first attempt: no ALIGN, SPACE or WATCH (R207), every address
resolved and translated with the rights that it needs (R236), no uncorrectable sector. -/
def AllReach (s : State) (i : Issue) (ask : MemAsk) (accs : List Acc) (oks : List (Acc × Option Tlb)) : Prop :=
  i.sp.replay = none ∧ ∃ g, s.group? i.w.group = some g ∧ memPre s i g ask accs = none ∧
    accs.map (reach (askWindow s i ask).2 i g ask (askWindow s i ask).1) = oks.map fun x => Reach.ok x.1 x.2

/-- What issuing a memory instruction changes: the split goes on, stores and reads are outstanding, translations are cached;
no byte of memory, no register, no other object. -/
structure MemIssued (e : Enc) (s t : State) (w w' : Wave) (sp : Split) : Prop where
  rest  : { t with waves := s.waves, stores := s.stores, tlb := s.tlb, counts := s.counts, nextUid := s.nextUid,
                   freeCtr := s.freeCtr } = s
  others : ∀ k, k ≠ w.uid → t.wave? k = s.wave? k
  wave  : t.wave? w.uid = some w'
  regs  : SameRegs w w'
  wrest : { w' with splits := w.splits, latch := w.latch, pend := w.pend, tw := w.tw } = w
  split : w'.split? sp.num = some (passed e sp)
  osp   : OtherSplits w w' sp.num
  memory : ∀ a, byteAt t.mem a = byteAt s.mem a ∧ byteAt t.hostMem a = byteAt s.hostMem a

/-- An sc access is held at its instruction (R198): its split waits for the operations `seqs`, which name every earlier operation
of its threads that is not performed or returned; translations are cached; no operation leaves, no byte of memory, no register
and no other object changes. -/
structure ScHeld (e : Enc) (s t : State) (w w' : Wave) (sp : Split) (threads : Word) (num : Nat) (seqs : List Nat)
    (work : ScWork) : Prop where
  rest   : { t with waves := s.waves, tlb := s.tlb, counts := s.counts, nextUid := s.nextUid, freeCtr := s.freeCtr } = s
  others : ∀ k, k ≠ w.uid → t.wave? k = s.wave? k
  wave   : t.wave? w.uid = some w'
  regs   : SameRegs w w'
  wrest  : { w' with splits := w.splits, latch := w.latch, pend := w.pend, tw := w.tw } = w
  split  : ∃ p, w'.split? sp.num = some p ∧ p.pc = sp.pc ∧ p.mask = sp.mask ∧ p.s = sp.s ∧
    p.st = .blocked (.scDrain num seqs (decide (4 ≤ e.scope)) e.form.words work)
  osp    : OtherSplits w w' sp.num
  number : num = s.nextUid
  stores : ∀ m ∈ s.stores, m.wave = w.uid → threads.getLsbD m.acc.thread = true → m.ins < num → m.ins ∈ seqs
  reads  : ∀ q ∈ w.pend, q.readsFor threads = true → q.seq < num → q.seq ∈ seqs

/-- The state in which a tick has come, of the device heartbeat or of PT, and one operation of a lane has its place in S
(R101, R198, R199). -/
def ticked (s : State) (sys : Bool) (lane num : Nat) : State :=
  if sys then { s with ptTicks := s.ptTicks + 1, sOrder := s.sOrder ++ [(s.ptTicks + 1, lane, num)] }
  else { s with hbTicks := s.hbTicks + 1, sOrder := s.sOrder ++ [(s.hbTicks + 1, lane, num)] }

/-! ### Shapes of completion -/

/-- The instruction only moves its split on: `t` is `s` but for what `base` names of it, and for waves. -/
def Advances (op : Op) (e : Enc) (base : State → State) (w : Wave) (sp : Split) (o : Out) : Prop :=
  ∃ t w', o = .next t ∧ Completed (base t) t w w' sp (passed e sp) ∧ NoVectorEffect op e w w' sp

/-- The instruction writes one scalar result `x` and changes nothing else but what `base` names. -/
def GivesScalar (op : Op) (e : Enc) (base : State → State) (w : Wave) (sp : Split) (wide : Bool) (x : Nat) (o : Out) : Prop :=
  ∃ t w' p, o = .next t ∧ Completed (base t) t w w' sp (passed e p) ∧ NoVectorEffect op e w w' sp ∧
    ScalarWrite sp p e.d.toNat wide x

/-- The split waits at its instruction: no register of the wave and nothing else but what `base` names changes. -/
def WaitsOn (base : State → State) (w : Wave) (sp : Split) (wt : Wait) (o : Out) : Prop :=
  ∃ t w' p, o = .next t ∧ OnlyWave (base t) t w.uid ∧ t.wave? w.uid = some w' ∧ SameRegs w w' ∧
    w'.split? sp.num = some p ∧ p.pc = sp.pc ∧ p.mask = sp.mask ∧ p.s = sp.s ∧ p.st = .blocked wt

/-- The instruction goes on with no register of the wave changed; whatever else it did is said beside this. -/
def GoesOn (e : Enc) (w : Wave) (sp : Split) (t : State) (w' : Wave) : Prop :=
  t.wave? w.uid = some w' ∧ SameRegs w w' ∧ w'.split? sp.num = some (passed e sp)

/-- A waiting split has gone on past its instruction of `len` words, and nothing else of the wave changed. -/
def Released (s t : State) (u : Nat) (w : Wave) (p : Split) (len : Nat) : Prop :=
  OnlyWave s t u ∧ ∃ w', t.wave? u = some w' ∧ { w' with splits := w.splits } = w ∧
    w'.split? p.num = some { p with st := .ready, replay := none, held := none, begun := false,
                                    pc := p.pc + BitVec.ofNat 64 (4 * len) }

/-- An engine operation is posted (R221): it takes the next number of its timeline; no register, no byte of memory and nothing
else of the device changes. -/
structure EngPosted (e : Enc) (s t : State) (w w' : Wave) (sp : Split) (tl : Nat) (o : EngOp) : Prop where
  rest  : { t with waves := s.waves, ops := s.ops, nextUid := s.nextUid } = s
  ops   : t.ops = s.ops ++ [o]
  goes  : GoesOn e w sp t w'
  others : ∀ k, k ≠ w.uid → t.wave? k = s.wave? k
  number : o.num = (w.tl tl).posted + 1 ∧ o.tl = tl ∧ o.wave = w.uid ∧ o.prog = 0 ∧ o.failed = none
  count : (w'.tl tl).posted = (w.tl tl).posted + 1 ∧ (w'.tl tl).open_ = (w.tl tl).open_ ++ [o.num]
  timelines : ∀ k, k ≠ tl → w'.tl k = w.tl k

/-- A barrier object holds `b`, and every other one is as it was. -/
def BarSet (s t : State) (g k : Nat) (b : Barrier) : Prop :=
  t.bar? g k = some b ∧ ∀ g' k', g' ≠ g ∨ k' ≠ k → t.bar? g' k' = s.bar? g' k'

/-- The object after its phase completes (R279, R280). -/
def nextPhase (b : Barrier) (late : Bool) : Barrier :=
  { b with gen := (b.gen + 1) % 256, late, hc := b.exp, dl := never, phases := b.phases + 1 }

/-- The barrier object that an instruction names exists, holds no uncorrectable error, and its deadline has not passed (R280,
R284, R450). -/
def NamesBarrier (s : State) (i : Issue) (g : Group) (b : Barrier) : Prop :=
  i.barOwner s = some g ∧ s.group? g.uid = some g ∧ g.bars[i.barNum]? = some b ∧ b.bad = false ∧
  s.barLate g.uid i.barNum = false

/-- The object that a barrier instruction names is not in ERROR and has the instruction's scope (R284). -/
def OnBarrier (s : State) (i : Issue) (g : Group) (b : Barrier) : Prop :=
  NamesBarrier s i g b ∧ b.err = false ∧ b.scp + 1 = i.e.scope

/-- Nothing that an arrival releases is outstanding (R281). -/
def ReleaseDone (s : State) (u : Nat) (mask : Word) : Prop := ∀ w, s.wave? u = some w → s.drained w (s.drainSet w mask) = true

/-- Nothing of a context but its splits and engine operations waits for service (R240). -/
def NoneWait (s : State) (c : Nat) : Prop :=
  (∀ w ∈ s.waves, w.ctx = c → ∀ p ∈ w.pend, p.waits = []) ∧ (∀ t ∈ s.tasks, t.ctx = c → t.parked = none) ∧
  (∀ f ∈ s.flows, f.ctx = c → f.parked = none) ∧ (∀ f ∈ s.frames, f.ctx = c → f.dirty = none)

/-- The splits of a context that are parked on something go on, or fail (R243). -/
def SplitsWake (s t : State) (c : Nat) (hit : ParkOn → Bool) (ok : Bool) : Prop :=
  ∀ u w n p k, s.wave? u = some w → w.ctx = c → w.split? n = some p → p.st = .parked k →
      (hit k = true ∨ p.also.any hit = true) →
    ∃ w' p', t.wave? u = some w' ∧ w'.split? n = some p' ∧ p'.pc = p.pc ∧ p'.mask = p.mask ∧ p'.replay = p.replay ∧
      p'.st = if ok then
          (match p.waiting with | some x => .blocked x | none => if p.replay.isNone then .ready else .parked .ready)
        else .parked .failed

/-! ### Values -/

/-- An element of a number as bits. -/
def lane (n x k : Nat) : BitVec n := BitVec.ofNat n (elem n x k)

/-- The results of R149 for the integer opcodes on elements of `n` bits, signed or unsigned by `TYPE`, modulo 2^n. -/
def intSpec {n : Nat} (op : Op) (sg : Bool) (a b c : BitVec n) : BitVec n :=
  match op with
  | .iadd => a + b
  | .isub => a - b
  | .imul => a * b
  | .imad => a * b + c
  | .imin => if (if sg then b.slt a else b.ult a) then b else a
  | .imax => if (if sg then a.slt b else a.ult b) then b else a
  | .iabs => if a.slt 0 then -a else a
  | .ineg => -a
  | .imulh => if sg then (a.signExtend (2 * n) * b.signExtend (2 * n)).extractLsb' n n
      else (a.setWidth (2 * n) * b.setWidth (2 * n)).extractLsb' n n
  | _ => a

/-- The results of R149 for the bitwise opcodes. -/
def bitSpec {n : Nat} (op : Op) (a b : BitVec n) : BitVec n :=
  match op with
  | .and => a &&& b
  | .or => a ||| b
  | .xor => a ^^^ b
  | .not => ~~~a
  | .andn => a &&& ~~~b
  | _ => b

/-- The results of R149 for the shifts: the amount is b.e[7:0], `SHR` reads a as unsigned and `SAR` as signed. -/
def shiftSpec {n : Nat} (op : Op) (a : BitVec n) (k : Nat) : BitVec n :=
  match op with
  | .shl => a <<< k
  | .shr => a >>> k
  | _ => a.sshiftRight k

/-- The results of R138 for the scalar opcodes; the shift amount is the whole of b. -/
def scaSpec {n : Nat} (op : Op) (sg : Bool) (a b : BitVec n) : BitVec n :=
  match op with
  | .sadd => a + b
  | .ssub => a - b
  | .smul => a * b
  | .smulh => if sg then (a.signExtend (2 * n) * b.signExtend (2 * n)).extractLsb' n n
      else (a.setWidth (2 * n) * b.setWidth (2 * n)).extractLsb' n n
  | .sand => a &&& b
  | .sor => a ||| b
  | .sxor => a ^^^ b
  | .snot => ~~~a
  | .sshl => a <<< b.toNat
  | .sshr => a >>> b.toNat
  | .ssar => a.sshiftRight b.toNat
  | .smin => if (if sg then b.slt a else b.ult a) then b else a
  | .smax => if (if sg then a.slt b else a.ult b) then b else a
  | _ => b

/-- The new value of a read-modify-write of R213 on a word of `w` bits, signed or not: b is the operand, c the value that a compare and
swap stores. -/
def rmwSpec {w : Nat} (mode : Nat) (sg : Bool) (old b c : BitVec w) : BitVec w :=
  match mode with
  | 0 => old + b
  | 1 => if (if sg then b.slt old else b.ult old) then b else old
  | 2 => if (if sg then old.slt b else old.ult b) then b else old
  | 3 => old &&& b
  | 4 => old ||| b
  | 5 => old ^^^ b
  | 6 => b
  | 7 => if old = b then c else old
  | 8 => if b.ule old then 0 else old + 1
  | _ => if old = 0 ∨ b.ult old then b else old - 1

/-- A comparison of R60 on bits. -/
def cmpSpec {n : Nat} (cc : Nat) (sg : Bool) (a b : BitVec n) : Bool :=
  let lt (x y : BitVec n) : Bool := if sg then x.slt y else x.ult y
  match cc with
  | 0 => a == b
  | 1 => a != b
  | 2 => lt a b
  | 3 => !lt b a
  | 4 => lt b a
  | _ => !lt a b

/-! ### Floating-point values -/

/-- A floating-point operand or exact result: a number is its sign and its magnitude in whole units, which its use names. -/
inductive FVal where
  | nan
  | inf (neg : Bool)
  | num (neg : Bool) (x : Nat)
  deriving DecidableEq, Repr

/-- The magnitude of a code in units of the format's least subnormal (R66, R67), also beyond its largest finite code, as if its exponent
had no bound above (R76). -/
def Fmt.units (f : Fmt) (c : Nat) : Nat :=
  if c / 2 ^ f.fb = 0 then c else (2 ^ f.fb + c % 2 ^ f.fb) * 2 ^ (c / 2 ^ f.fb - 1)

/-- How many of these units make 1. -/
def Fmt.one (f : Fmt) : Nat := 2 ^ (f.bias + f.fb - 1)

/-- The value of the code of a format with infinities and NaNs, in units of its least subnormal (R66, R67). -/
def fval (f : Fmt) (bits : Nat) : FVal :=
  let neg := bits / 2 ^ (f.eb + f.fb) % 2 == 1
  let mag := bits % 2 ^ (f.eb + f.fb)
  if f.infCode < mag then .nan else if mag = f.infCode then .inf neg else .num neg (f.units mag)

/-- A number with its sign, in its units. -/
def FVal.signed (neg : Bool) (x : Nat) : Int := if neg then -(x : Int) else x

/-- Negation, and a number in units of which `k` make one of its own. -/
def FVal.negated : FVal → FVal
  | .nan => .nan
  | .inf n => .inf (!n)
  | .num n x => .num (!n) x
def FVal.finer (k : Nat) : FVal → FVal
  | .num n x => .num n (x * k)
  | v => v

/-- The exact sum of two values under a mode, and whether it is invalid (R85). -/
def FVal.plus (r : Rnd) : FVal → FVal → FVal × Bool
  | .nan, _ => (.nan, false)
  | _, .nan => (.nan, false)
  | .inf n, .inf k => if n = k then (.inf n, false) else (.nan, true)
  | .inf n, _ => (.inf n, false)
  | _, .inf n => (.inf n, false)
  | .num n x, .num k y =>
    let t := FVal.signed n x + FVal.signed k y
    if t = 0 then (.num (if r = .dn then n || k else n && k) 0, false) else (.num (decide (t < 0)) t.natAbs, false)

/-- The exact product, in the units of both, and whether it is invalid (R75). -/
def FVal.times : FVal → FVal → FVal × Bool
  | .nan, _ => (.nan, false)
  | _, .nan => (.nan, false)
  | .inf n, .inf k => (.inf (n != k), false)
  | .inf n, .num k x => if x = 0 then (.nan, true) else (.inf (n != k), false)
  | .num n x, .inf k => if x = 0 then (.nan, true) else (.inf (n != k), false)
  | .num n x, .num k y => (.num (n != k) (x * y), false)

/-- The exact result of R159 for operands of format `f`: its value, whether it is invalid, and how many of its units make one of the
format's. A NaN operand makes no invalid result (R75). -/
def fltSpec (op : Op) (r : Rnd) (f : Fmt) (a b c : FVal) : FVal × Bool × Nat :=
  match op with
  | .fadd | .faddp => let x := a.plus r b; (x.1, x.2, 1)
  | .fsub | .fsubp => let x := a.plus r b.negated; (x.1, x.2, 1)
  | .fmul | .fmulp => let x := a.times b; (x.1, x.2, f.one)
  | _ => let p := a.times b; let x := p.1.plus r (c.finer f.one); (x.1, (p.2 || x.2) && decide (c ≠ .nan), f.one)

/-- The mode takes the upper of two neighbouring codes, `c` and `c + 1`, for a magnitude `x` from that of the lower, `lo`, up to that of
the upper, `hi` (R76): the nearer, and of two that are as near the even one or the one away from zero; or the one on the mode's side. -/
def takesUpper (r : Rnd) (neg : Bool) (c lo hi x : Nat) : Prop :=
  match r with
  | .ne => lo + hi < 2 * x ∨ (lo + hi = 2 * x ∧ c % 2 = 1)
  | .na => lo + hi ≤ 2 * x
  | .tz => False
  | .up => neg = false ∧ lo ≠ x
  | .dn => neg = true ∧ lo ≠ x

/-- The code and the flags that the rounding of an exact value gives in a format with infinities, where `k` of the value's units make one
of the format's (R75, R76, R77, R79): the magnitude lies between those of two neighbouring codes, and the mode takes one of them. -/
def RoundsTo (f : Fmt) (r : Rnd) (sat : Bool) (k : Nat) (v : FVal) (nv : Bool) (bits : Nat) (fl : Byte) : Prop :=
  match v with
  | .nan => bits = f.nanCode ∧ fl = if nv then flNV else 0
  | .inf n => bits = withSign f n (if sat then f.maxCode else f.infCode) ∧ fl = 0
  | .num n 0 => bits = withSign f n 0 ∧ fl = 0
  | .num n x => ∃ c mag, f.units c * k ≤ x ∧ x < f.units (c + 1) * k ∧
      (takesUpper r n c (f.units c * k) (f.units (c + 1) * k) x → mag = c + 1) ∧
      (¬takesUpper r n c (f.units c * k) (f.units (c + 1) * k) x → mag = c) ∧
      if f.maxCode < mag then
        bits = withSign f n (if sat = true ∨ r = .tz ∨ (r = .up ∧ n = true) ∨ (r = .dn ∧ n = false) then f.maxCode else f.infCode) ∧
        fl = flOF ||| flNX
      else bits = withSign f n mag ∧
        fl = if f.units mag * k = x then 0 else if x < f.units (2 ^ f.fb) * k then flNX ||| flUF else flNX

/-- The order of two values, and their equality, in the same units; no value compares with a NaN, and the zeros are equal (R60, R161). -/
def FVal.below : FVal → FVal → Bool
  | .nan, _ => false
  | _, .nan => false
  | .inf true, b => b != .inf true
  | a, .inf false => a != .inf false
  | .num n x, .num k y => decide (FVal.signed n x < FVal.signed k y)
  | _, _ => false
def FVal.same : FVal → FVal → Bool
  | .inf n, .inf k => n == k
  | .num n x, .num k y => FVal.signed n x == FVal.signed k y
  | _, _ => false

/-- The comparisons of `FCMP` (R60). -/
def fcmpSpec (cc : Nat) (a b : FVal) : Bool :=
  let un := a == .nan || b == .nan
  let rel (k : Nat) : Bool :=
    match k with
    | 0 => a.same b
    | 1 => !a.same b
    | 2 => a.below b
    | 3 => a.below b || a.same b
    | 4 => b.below a
    | _ => b.below a || a.same b
  if cc < 6 then !un && rel cc else if cc = 6 then !un else if cc = 7 then un else un || rel (cc - 8)

/-- `FMIN` and `FMAX` on codes (R160): −0 is less than +0. -/
def minmaxSpec (f : Fmt) (wantMax : Bool) (a b : Nat) : Nat :=
  let x := fval f a
  let y := fval f b
  let first := x.below y || (decide (x = .num true 0) && decide (y = .num false 0))
  if x = .nan then (if y = .nan then f.nanCode else b) else if y = .nan then a
  else if first then (if wantMax then b else a) else if wantMax then a else b

/-- Of every wave, nothing but splits changes: waiting splits may go on. -/
def WavesKeep (s t : State) : Prop :=
  ∀ k x, s.wave? k = some x → ∃ x', t.wave? k = some x' ∧ { x' with splits := x.splits } = x

/-- Of the device, nothing but queues, the splits of waves and the model's own numbers changes. -/
structure OnlyQueues (s t : State) : Prop where
  rest  : { t with queues := s.queues, waves := s.waves, nextUid := s.nextUid } = s
  waves : WavesKeep s t

/-- The canonical form of the two memories. -/
def MemInv (s : State) : Prop := Memory.wf s.mem = true ∧ Memory.wf s.hostMem = true

end Sys2Proof.Machine
end

