-- ==== Sys2Proof/Certificates/Slice0/Obligations.lean ====
section
/-! DEFINITION. The statements for the provers. -/

open Sys2Proof Sys2Proof.Machine

/-! ### Encoding -/

/-- Decoding the bytes of an encoded well-formed instruction gives it back, with every operand (R15-R34, R58). -/
def Obligations.DecodeInvertsEncode : Prop :=
  ∀ i, WellFormed i = true → encode i ≠ [] → decodeBytes (bytesOfWords (encode i)) = .ok i

/-- What the decoder accepts is well formed. -/
def Obligations.DecodedIsWellFormed : Prop :=
  ∀ ws i, decodeWords ws = .ok i → WellFormed i = true

/-- Encoding what was decoded from exactly an instruction's words gives the same words: no two encodings of an assigned opcode
decode to one instruction. -/
def Obligations.EncodeInvertsDecode : Prop :=
  ∀ w ws op e, (w :: ws).length = (formOf (wLen w)).words → decodeWords (w :: ws) = .ok (Instr.ofOp e op) →
    encode (Instr.ofOp e op) = w :: ws

/-- A reserved value of `RND` or a set bit 13 of w2 refuses an instruction of the extended form or with a block, whatever its
opcode accepts (R22, R30, R44). Each unassigned opcode number, in every form, decodes to the instruction that traps ILLEGAL
(R58). -/
def Obligations.UnlistedEncodings : Prop :=
  (∀ w w1 w2 rest op, Op.ofCode (wOp w) = some op → (2#2 ≤ wLen w) →
     (5 ≤ (w1.extractLsb' 29 3).toNat ∨ w2.getLsbD 13 = true) →
     ∀ i, decodeWords (w :: w1 :: w2 :: rest) ≠ .ok i) ∧
  (∀ w ws, Op.ofCode (wOp w) = none → (formOf (wLen w)).words ≤ ws.length + 1 →
     decodeWords (w :: ws) = .ok (.unassignedOpcode (wOp w) (wLen w)))

/-! ### A step -/

/-- The split that the cursor names can issue, and its instruction is fetched from memory. -/
def Fetches (s : State) (w : Wave) (p : Split) (ws : List Word) (s' : State) : Prop :=
  s.cur = some (w.uid, p.num) ∧ s.wave? w.uid = some w ∧ w.split? p.num = some p ∧ canIssue s w p = true ∧
  p.st ≠ .parked .failed ∧ (w.eccReturned = [] ∨ p.replay ≠ none) ∧ fetch s w p = .words ws s'

/-- A step runs the instruction that the words at the program counter decode to, and then clears the issue cursor. -/
def Obligations.StepRunsDecodedInstruction : Prop :=
  ∀ (s : State) (w : Wave) p ws s' i, Fetches s w p ws s' → decodeWords ws = .ok i →
    step s = Out.map (exec i s') State.clearCur

/-- Words that decode to nothing trap ILLEGAL at the instruction, with its length (R44). A program counter with non-zero bits [1:0] traps
ALIGN at that address. That a program counter with non-zero bits [1:0] traps ALIGN at the fetch is the model's choice (log 21). -/
def Obligations.FetchTraps : Prop :=
  (∀ (s : State) (w : Wave) p ws s' r, Fetches s w p ws s' → decodeWords ws = .error r →
     step s = .next (takeTrap s' w p (formOf (wLen (ws.headD 0))).words
       { cause := .illegal, code := 0, mask := p.mask.setWidth 64, addr := 0, rpl := false }).clearCur) ∧
  (∀ (s : State) (w : Wave) p, s.cur = some (w.uid, p.num) → s.wave? w.uid = some w → w.split? p.num = some p → canIssue s w p = true →
     p.st ≠ .parked .failed → (w.eccReturned = [] ∨ p.replay ≠ none) → p.pc.toNat % 4 ≠ 0 →
     step s = .next (takeTrap s w p 1
       { cause := .align, code := 0, mask := p.mask.setWidth 64, addr := p.pc.toNat, rpl := false }).clearCur)

/-! ### Vector instructions -/

/-- The opcodes that write one vector register or pair per enabled thread, and complete on every operand. -/
def vectorOps : List Op :=
  [.iadd, .isub, .imul, .imulh, .imad, .imin, .imax, .iabs, .ineg, .and, .or, .xor, .not, .andn, .shl, .shr, .sar, .bfe, .bfi,
   .popc, .clz, .ctz, .brev, .bperm, .sel, .mov, .dp4, .fadd, .fsub, .fmul, .ffma, .fmin, .fmax, .fclass, .frnd, .fscl, .fexp,
   .faddp, .fsubp, .fmulp, .ffmap, .fminp, .fmaxp, .fcmpp, .cvt, .pkmx, .upmx, .pkq4, .upq4, .redw, .scanw, .matchT, .rsvf,
   .rsvget]

/-- A vector instruction completes: it writes its destination registers in the enabled threads unless `NW`, raises flags of those threads,
and with `LE` writes the same to their slots of its latch, which becomes valid; every other register, predicate, flag, split, wave, byte
of memory and object of the device stays (R27, R34, R84, R146). -/
def Obligations.VectorInstructionsComplete : Prop :=
  ∀ op ∈ vectorOps, ∀ (s : State) (e : Enc) (w : Wave) (sp : Split), Issues s op e w sp → NoJoin e sp →
    ∃ (t : State) (w' : Wave), exec (Instr.ofOp e op) s = .next t ∧ Completed s t w w' sp (passed e sp) ∧
      VecResult op e w w' sp (destRegs op e)

/-- The vector integer opcodes write the wrapped results of R149 per element of `TYPE`. With `SAT`, `IADD` and `ISUB` write the
nearest value of the element's range and raise `IS` exactly when the exact sum or difference of an element lies outside it
(R147). `FADD`, `FSUB`, `FMUL` and `FFMA`, single and packed, round the exact result of each element once, under `RND` and `SAT`, and raise
the flags of that rounding (R75-R77, R79, R84, R85, R159); `FMIN` and `FMAX` choose an operand and raise no flag (R160). -/
def Obligations.WrappedAndSaturatedResults : Prop :=
  (∀ op ∈ [Op.iadd, .isub, .imul, .imulh, .imad, .imin, .imax, .iabs, .ineg], ∀ (s : State) (e : Enc) (w : Wave) (sp : Split), Issues s op e w sp → NoJoin e sp →
     e.sat = false →
     let i := issueOf op e w sp
     let n := intWidth e.ty.toNat
     ∃ (t : State) (w' : Wave), exec (Instr.ofOp e op) s = .next t ∧ t.wave? w.uid = some w' ∧
       ∀ t < 32, i.en.getLsbD t = true → ∀ k < intCount e.ty.toNat,
         lane n (written e w' i.wideTy t) k =
           intSpec op (intSigned e.ty.toNat) (lane n (i.a i.wideTy t) k) (lane n (i.b i.wideTy t) k) (lane n (i.c i.wideTy t) k)) ∧
  (∀ op ∈ [Op.iadd, .isub], ∀ (s : State) (e : Enc) (w : Wave) (sp : Split), Issues s op e w sp → NoJoin e sp → e.sat = true →
     let i := issueOf op e w sp
     let n := intWidth e.ty.toNat
     let sg := intSigned e.ty.toNat
     let exact (t k : Nat) : Int :=
       readInt sg n (elem n (i.a i.wideTy t) k) +
         (if op = .iadd then 1 else -1) * readInt sg n (elem n (i.b i.wideTy t) k)
     let fits (t k : Nat) : Prop := intMin sg n ≤ exact t k ∧ exact t k ≤ intMax sg n
     ∃ (t : State) (w' : Wave), exec (Instr.ofOp e op) s = .next t ∧ t.wave? w.uid = some w' ∧
       ∀ t < 32, i.en.getLsbD t = true →
         (∀ k < intCount e.ty.toNat, readInt sg n (elem n (written e w' i.wideTy t) k) =
           if exact t k < intMin sg n then intMin sg n else if intMax sg n < exact t k then intMax sg n else exact t k) ∧
         sget 0 w'.fp t = (if ∀ k < intCount e.ty.toNat, fits t k then sget 0 w.fp t else sget 0 w.fp t ||| flIS)) ∧
  (∀ op ∈ [Op.fadd, .fsub, .fmul, .ffma, .faddp, .fsubp, .fmulp, .ffmap], ∀ (s : State) (e : Enc) (w : Wave) (sp : Split), Issues s op e w sp → NoJoin e sp →
     let i := issueOf op e w sp
     let f := fmtOf e.ty.toNat
     let x (t k : Nat) := fltSpec op e.rnd f (fval f (elem f.width (i.a false t) k)) (fval f (elem f.width (i.b false t) k))
       (fval f (elem f.width (i.c false t) k))
     ∃ (t : State) (w' : Wave), exec (Instr.ofOp e op) s = .next t ∧ t.wave? w.uid = some w' ∧
       ∀ t < 32, i.en.getLsbD t = true → ∃ fl : Nat → Byte,
         (∀ k < 32 / f.width, RoundsTo f e.rnd e.sat (x t k).2.2 (x t k).1 (x t k).2.1 (elem f.width (written e w' false t) k) (fl k)) ∧
         sget 0 w'.fp t = (List.range (32 / f.width)).foldl (fun y k => y ||| fl k) (sget 0 w.fp t)) ∧
  (∀ op ∈ [Op.fmin, .fmax, .fminp, .fmaxp], ∀ (s : State) (e : Enc) (w : Wave) (sp : Split), Issues s op e w sp → NoJoin e sp →
     let i := issueOf op e w sp
     let f := fmtOf e.ty.toNat
     ∃ (t : State) (w' : Wave), exec (Instr.ofOp e op) s = .next t ∧ t.wave? w.uid = some w' ∧ w'.fp = w.fp ∧
       ∀ t < 32, i.en.getLsbD t = true → ∀ k < 32 / f.width,
         elem f.width (written e w' false t) k =
           minmaxSpec f (op == .fmax || op == .fmaxp) (elem f.width (i.a false t) k) (elem f.width (i.b false t) k))

/-- The bitwise opcodes and `MOV` write their results of R149 and R155 on whole registers or pairs. The shifts without `SAT` write their
results of R149 per element, the amount b.e[7:0] or, from the immediate, its low 8 bits. That an immediate amount is the low 8 bits of
`IMM18` is the model's choice (log 17). -/
def Obligations.BitwiseAndShiftResults : Prop :=
  (∀ op ∈ [Op.and, .or, .xor, .not, .andn, .mov], ∀ (s : State) (e : Enc) (w : Wave) (sp : Split), Issues s op e w sp → NoJoin e sp →
     let i := issueOf op e w sp
     ∃ (t : State) (w' : Wave), exec (Instr.ofOp e op) s = .next t ∧ t.wave? w.uid = some w' ∧
       ∀ t < 32, i.en.getLsbD t = true →
         (i.wideTy = false → written e w' false t =
           (bitSpec op (BitVec.ofNat 32 (i.a false t)) (BitVec.ofNat 32 (i.b false t))).toNat) ∧
         (i.wideTy = true → written e w' true t =
           (bitSpec op (BitVec.ofNat 64 (i.a true t)) (BitVec.ofNat 64 (i.b true t))).toNat)) ∧
  (∀ op ∈ [Op.shl, .shr, .sar], ∀ (s : State) (e : Enc) (w : Wave) (sp : Split), Issues s op e w sp → NoJoin e sp → e.sat = false →
     let i := issueOf op e w sp
     let n := intWidth e.ty.toNat
     ∃ (t : State) (w' : Wave), exec (Instr.ofOp e op) s = .next t ∧ t.wave? w.uid = some w' ∧
       ∀ t < 32, i.en.getLsbD t = true → ∀ k < intCount e.ty.toNat,
         lane n (written e w' i.wideTy t) k = shiftSpec op (lane n (i.a i.wideTy t) k) (i.shiftBy i.wideTy t k))

/-- `NOP` only advances the program counter, and leaves latches as they are; its words are 0 and the extended word 2 with a guard,
and no others (R57). -/
def Obligations.NopOnlyAdvances : Prop :=
  (∀ (s : State) (e : Enc) (w : Wave) (sp : Split), Issues s .nop e w sp → NoJoin e sp →
    ∃ (t : State) (w' : Wave), exec (.nop e) s = .next t ∧ Completed s t w w' sp (passed e sp) ∧ { w' with splits := w.splits } = w) ∧
  (∃ e, decodeWords [0] = .ok (.nop e)) ∧
  (∀ w1 : Word, w1 &&& ~~~0x000F0000#32 = 0 → ∃ e, decodeWords [2, w1, 0] = .ok (.nop e)) ∧
  ∀ w ws i, wOp w = 0 → decodeWords (w :: ws) = .ok i →
    w = 0 ∨ (w = 2 ∧ ws.getD 0 0 &&& ~~~0x000F0000#32 = 0 ∧ ws.getD 1 0 = 0)

/-- The integer and the floating opcodes whose operands A, B and C are values in the sense of R24. -/
def integerOps : List Op :=
  [.iadd, .isub, .imul, .imulh, .imad, .imin, .imax, .iabs, .ineg, .and, .or, .xor, .not, .andn, .shl, .shr, .sar, .bfe, .bfi, .popc, .clz,
   .ctz, .brev, .bperm, .icmp, .sel, .mov, .dp4, .matchT, .shfl, .stx]
def floatOps : List Op :=
  [.fadd, .fsub, .fmul, .ffma, .fmin, .fmax, .fcmp, .fclass, .frnd, .fscl, .fexp, .faddp, .fsubp, .fmulp, .ffmap, .fminp, .fmaxp, .fcmpp]

/-- The value of each of the operands A, B and C by its kind: a vector register or pair of the thread, a scalar register or pair of the
split, a latch slot, the sign-extended immediate of an integer opcode or the expanded one of a floating opcode, or for B the literal
(R20, R23, R24, R33). A thread whose guard is false
is not enabled for a vector opcode: `p[PG]` exclusive-or `PN` decides (R27). -/
def Obligations.OperandsAndGuards : Prop :=
  (∀ (i : Issue) (wide : Bool) (t : Nat),
     let Holds (k : Kind) (n : BitVec 8) (v : Nat) : Prop :=
       (k = .vec → v = vecValue i.w n.toNat wide t) ∧
       (k = .sca → v = if wide then (i.sp.spair n.toNat).toNat else (i.sp.sreg n.toNat).toNat) ∧
       (k = .lat → v = if wide then (latchSlot i.w.latch n.toNat t).toNat else ((latchSlot i.w.latch n.toNat t).setWidth 32).toNat) ∧
       (k = .imm → i.op ∈ integerOps → v = if wide then (i.e.imm.signExtend 64).toNat else (i.e.imm.signExtend 32).toNat) ∧
       (k = .imm → i.op ∈ floatOps →
         (i.e.ty = 0 → v = (i.e.imm ++ 0#14).toNat) ∧ (i.e.ty = 1 ∨ i.e.ty = 2 → v = (i.e.imm.setWidth 16 ++ i.e.imm.setWidth 16).toNat))
     Holds i.e.ak i.e.a (i.a wide t) ∧ (i.e.form ≠ .literal → Holds i.e.bk i.e.b (i.b wide t)) ∧ Holds i.e.ck i.e.c (i.c wide t) ∧
     (i.e.form = .literal → i.b wide t = if wide then i.e.lit.toNat else (i.e.lit.setWidth 32).toNat)) ∧
  (∀ op e w sp t, op ≠ .nop → sp.replay = none → t < 32 →
     ((enabledOf op e w sp).getLsbD t = true ↔
       sp.mask.getLsbD t = true ∧ ((w.pred e.pg.toNat).getLsbD t ^^ e.pn) = true))

/-! ### Predicate results -/

/-- `ICMP` and `FCMP` write predicate `D` in the enabled threads, by the comparison that `OPX` selects; a write to p7 is
discarded (R25, R60, R153, R161). `FCMPP` writes 0xFFFF or 0 into each element by the same comparison, and raises no flag (R161). -/
def Obligations.ComparisonsComplete : Prop :=
  (∀ (s : State) (e : Enc) (w : Wave) (sp : Split), Issues s .icmp e w sp → NoJoin e sp →
    let i := issueOf .icmp e w sp
    ∃ (t : State) (w' : Wave), ∃ v, exec (.icmp e) s = .next t ∧ Completed s t w w' sp (passed e sp) ∧
      PredResult .icmp e w w' sp e.d.toNat i.en v ∧
      ∀ t < 32, v.getLsbD t =
        if i.wideTy then cmpSpec e.opx.toNat (intSigned e.ty.toNat) (BitVec.ofNat 64 (i.a true t)) (BitVec.ofNat 64 (i.b true t))
        else cmpSpec e.opx.toNat (intSigned e.ty.toNat) (BitVec.ofNat 32 (i.a false t)) (BitVec.ofNat 32 (i.b false t))) ∧
  (∀ (s : State) (e : Enc) (w : Wave) (sp : Split), Issues s .fcmp e w sp → NoJoin e sp →
    let i := issueOf .fcmp e w sp
    ∃ (t : State) (w' : Wave), ∃ v, exec (.fcmp e) s = .next t ∧ Completed s t w w' sp (passed e sp) ∧
      PredResult .fcmp e w w' sp e.d.toNat i.en v ∧
      ∀ t < 32, v.getLsbD t = fcmpSpec e.opx.toNat (fval fp32 (i.a false t)) (fval fp32 (i.b false t))) ∧
  ∀ (s : State) (e : Enc) (w : Wave) (sp : Split), Issues s .fcmpp e w sp → NoJoin e sp →
    let i := issueOf .fcmpp e w sp
    let f := fmtOf e.ty.toNat
    ∃ (t : State) (w' : Wave), exec (.fcmpp e) s = .next t ∧ t.wave? w.uid = some w' ∧ w'.fp = w.fp ∧
      ∀ t < 32, i.en.getLsbD t = true → ∀ k < 2, elem 16 (written e w' false t) k =
        if fcmpSpec e.opx.toNat (fval f (elem 16 (i.a false t) k)) (fval f (elem 16 (i.b false t) k)) then 0xFFFF else 0

/-- The predicate opcodes combine whole predicates and write the enabled threads (R143). `VOTE` writes one value per segment,
over the enabled threads of the segment: all true, any true, or all equal (R176). `SHFL` completes: it writes its destination,
and in the extended form predicate `C`, in the enabled threads, and its latch as other vector instructions do (R34). -/
def Obligations.PredicateAndShuffleInstructionsComplete : Prop :=
  (∀ op ∈ [Op.pand, .por, .pxor, .pnot, .pmov], ∀ (s : State) (e : Enc) (w : Wave) (sp : Split), Issues s op e w sp → NoJoin e sp →
     let a := w.pred e.a.toNat
     let b := w.pred e.b.toNat
     ∃ (t : State) (w' : Wave), exec (Instr.ofOp e op) s = .next t ∧ Completed s t w w' sp (passed e sp) ∧
       PredResult op e w w' sp e.d.toNat (enabledOf op e w sp)
         (match op with
           | .pand => a &&& b | .por => a ||| b | .pxor => a ^^^ b | .pnot => ~~~a
           | _ => if e.ak = .sca then sp.sreg e.a.toNat else a)) ∧
  (∀ (s : State) (e : Enc) (w : Wave) (sp : Split), Issues s .vote e w sp → NoJoin e sp →
     let i := issueOf .vote e w sp
     let same (t j : Nat) : Prop := j < 32 ∧ i.en.getLsbD j = true ∧ j / sp.segw = t / sp.segw
     let p := w.pred e.a.toNat
     ∃ (t : State) (w' : Wave), ∃ v, exec (.vote e) s = .next t ∧ Completed s t w w' sp (passed e sp) ∧
       PredResult .vote e w w' sp e.d.toNat i.en v ∧
       ∀ t < 32, 0 < sp.segw →
         (e.opx = 0 → (v.getLsbD t = true ↔ ∀ j, same t j → p.getLsbD j = true)) ∧
         (e.opx = 1 → (v.getLsbD t = true ↔ ∃ j, same t j ∧ p.getLsbD j = true)) ∧
         (e.opx = 2 → (v.getLsbD t = true ↔
           (∀ j, same t j → p.getLsbD j = true) ∨ ∀ j, same t j → p.getLsbD j = false))) ∧
  (∀ (s : State) (e : Enc) (w : Wave) (sp : Split), Issues s .shfl e w sp → NoJoin e sp →
     let i := issueOf .shfl e w sp
     let src (t : Nat) : Nat × Bool := shflFrom e.opx.toNat sp.segw t (i.b false t)
     ∃ (t : State) (w' : Wave), exec (.shfl e) s = .next t ∧ Completed s t w w' sp (passed e sp) ∧ VecFrame e w w' i.en e.d.toNat (destRegs .shfl e) ∧
       w'.fp = w.fp ∧ (e.le = false → w'.latch = latchAfter .shfl e w sp) ∧ (e.le = true → LatchWritten .shfl e w w' sp (destRegs .shfl e)) ∧
       (∀ t < 32, i.en.getLsbD t = true →
         written e w' i.wideTy t = i.a i.wideTy (if (src t).2 then (src t).1 else t)) ∧
       (∀ k, e.form = .base ∨ k ≠ e.c.toNat → w'.pred k = w.pred k) ∧
       (e.form ≠ .base → e.c.toNat ≠ 7 → ∀ t < 32, (w'.pred e.c.toNat).getLsbD t =
         if i.en.getLsbD t then (src t).2 else (w.pred e.c.toNat).getLsbD t))

/-! ### Scalar results -/

/-- The opcodes that write a scalar register or pair of the issuing split and complete on every operand. -/
def scalarOps : List Op :=
  [.sadd, .ssub, .smul, .smulh, .sand, .sor, .sxor, .snot, .sshl, .sshr, .ssar, .smin, .smax, .smov]

/-- The scalar opcodes write the results of R138, once for the split, when some thread is enabled; every other register stays. -/
def Obligations.ScalarInstructionsComplete : Prop :=
  ∀ op ∈ scalarOps, ∀ (s : State) (e : Enc) (w : Wave) (sp : Split), Issues s op e w sp → NoJoin e sp → Enabled op e w sp →
    let i := issueOf op e w sp
    let sg := intSigned e.ty.toNat
    ∃ (t : State) (w' : Wave), ∃ p x, exec (Instr.ofOp e op) s = .next t ∧ Completed s t w w' sp (passed e p) ∧ NoVectorEffect op e w w' sp ∧
      ScalarWrite sp p e.d.toNat i.wideTy x ∧
      (i.wideTy = false → BitVec.ofNat 32 x = scaSpec op sg (BitVec.ofNat 32 (i.sA false)) (BitVec.ofNat 32 (i.sB false))) ∧
      (i.wideTy = true → BitVec.ofNat 64 x = scaSpec op sg (BitVec.ofNat 64 (i.sA true)) (BitVec.ofNat 64 (i.sB true)))

/-- A scalar instruction whose guard is true for no active thread only advances (R28). The other opcodes with a scalar result:
`SSEL` (R140), `SBFE` (R141), `SPOPC`, `SCLZ` (R138) in both widths, `SRDL` (R142), `ACTM` (R145), `BALLOT` (R176). -/
def Obligations.OtherScalarInstructionsComplete : Prop :=
  (∀ op ∈ scalarOps ++ [Op.ssel, .sbfe, .spopc, .sclz, .srdl, .scmp, .segw, .actm, .csrwr, .halt, .bra, .join, .yield], ∀ (s : State) (e : Enc) (w : Wave) (sp : Split),
     Issues s op e w sp → NoJoin e sp → ¬ Enabled op e w sp →
     ∃ (t : State) (w' : Wave), exec (Instr.ofOp e op) s = .next t ∧ Completed s t w w' sp (passed e sp) ∧ NoVectorEffect op e w w' sp) ∧
  (∀ op ∈ [Op.ssel, .sbfe, .spopc, .sclz, .srdl, .actm, .ballot], ∀ (s : State) (e : Enc) (w : Wave) (sp : Split), Issues s op e w sp → NoJoin e sp →
     (op = .ballot ∨ Enabled op e w sp) →
     let i := issueOf op e w sp
     ∃ (t : State) (w' : Wave), ∃ p x, exec (Instr.ofOp e op) s = .next t ∧ Completed s t w w' sp (passed e p) ∧ NoVectorEffect op e w w' sp ∧
       ScalarWrite sp p e.d.toNat (destRegs op e == 2) x ∧
       (op = .actm → BitVec.ofNat 32 x = sp.mask) ∧
       (op = .ballot → BitVec.ofNat 32 x = i.en &&& w.pred e.a.toNat) ∧
       (op = .ssel → x = if sp.mask &&& w.pred e.c.toNat = 0 then i.sB i.wideTy else i.sA i.wideTy) ∧
       (op = .srdl → x = vecValue w e.a.toNat i.wideTy (i.sB false % 32)) ∧
       (op = .sbfe →
         let a := BitVec.ofNat 32 (i.sA false)
         let sg := e.ty == 0
         let pos := i.sB false % 256
         let len := min (i.sB false / 256 % 256) 32
         let f (j : Nat) : Bool := if pos + j < 32 then a.getLsbD (pos + j) else sg && a.getLsbD 31
         ∀ k < 32, (BitVec.ofNat 32 x).getLsbD k =
           if len = 0 then false else if k < len then f k else sg && f (len - 1)) ∧
       (op = .spopc → x = ((List.range i.sWidth).filter fun k => (i.sA i.wideTy).testBit k).length) ∧
       (op = .sclz → x ≤ i.sWidth ∧ (∀ k < i.sWidth, i.sWidth - x ≤ k → (i.sA i.wideTy).testBit k = false) ∧
         (x < i.sWidth → (i.sA i.wideTy).testBit (i.sWidth - 1 - x) = true)))

/-- `SCMP` writes one result to every active thread of the split (R139). -/
def Obligations.ScalarCompareCompletes : Prop :=
  ∀ (s : State) (e : Enc) (w : Wave) (sp : Split), Issues s .scmp e w sp → NoJoin e sp → Enabled .scmp e w sp →
    let i := issueOf .scmp e w sp
    ∃ t w', ∃ v : Bool, exec (.scmp e) s = .next t ∧ Completed s t w w' sp (passed e sp) ∧
      PredResult .scmp e w w' sp e.d.toNat sp.mask (if v then 0xFFFFFFFF#32 else 0) ∧
      (i.wideTy = false → v = cmpSpec e.opx.toNat (intSigned e.ty.toNat)
        (BitVec.ofNat 32 (i.sA false)) (BitVec.ofNat 32 (i.sB false))) ∧
      (i.wideTy = true → v = cmpSpec e.opx.toNat (intSigned e.ty.toNat)
        (BitVec.ofNat 64 (i.sA true)) (BitVec.ofNat 64 (i.sB true)))

/-! ### Registers that an index names, segment widths -/

/-- `XSET` writes the index register `D` of the issuing split, `LDX` and `STX` read and write the register that it names for a
thread, or trap BOUNDS with the failing threads and no effect; `SEGW` sets the split's segment width or traps ILLEGAL. -/
def Obligations.IndexRegistersAndSegments : Prop :=
  (∀ (s : State) (e : Enc) (w : Wave) (sp : Split), Issues s .xset e w sp → NoJoin e sp → Enabled .xset e w sp →
    ∃ (t : State) (w' : Wave) (p : Split), exec (.xset e) s = .next t ∧ Completed s t w w' sp (passed e p) ∧ NoVectorEffect .xset e w w' sp ∧
      { p with x := sp.x } = sp ∧ (∀ k, k ≠ e.d.toNat → sget 0 p.x k = sget 0 sp.x k) ∧
      sget 0 p.x e.d.toNat = BitVec.ofNat 32
        ((issueOf .xset e w sp).xsetField e.bk e.b * 256 + (issueOf .xset e w sp).xsetField e.ak e.a)) ∧
  (∀ (s : State) (e : Enc) (w : Wave) (sp : Split), Issues s .ldx e w sp → NoJoin e sp → (issueOf .ldx e w sp).indexFails = 0 →
    ∃ (t : State) (w' : Wave), exec (.ldx e) s = .next t ∧ Completed s t w w' sp (passed e sp) ∧ VecResult .ldx e w w' sp (destRegs .ldx e) ∧
      (∀ t < 32, (enabledOf .ldx e w sp).getLsbD t = true → ∃ r, (issueOf .ldx e w sp).indexed t = some r ∧
        written e w' (issueOf .ldx e w sp).wideTy t = vecValue w r (issueOf .ldx e w sp).wideTy t)) ∧
  (∀ (s : State) (e : Enc) (w : Wave) (sp : Split), Issues s .stx e w sp → NoJoin e sp → (issueOf .stx e w sp).indexFails = 0 →
    let i := issueOf .stx e w sp
    ∃ (t : State) (w' : Wave), exec (.stx e) s = .next t ∧ Completed s t w w' sp (passed e sp) ∧ w'.p = w.p ∧ w'.fp = w.fp ∧
      w'.latch = latchAfter .stx e w sp ∧
      (∀ t < 32, i.en.getLsbD t = true → ∀ b, i.indexed t = some b →
        (i.wideTy = false → w'.vreg b t = BitVec.ofNat 32 (i.a false t)) ∧
        (i.wideTy = true → w'.vpair b t = BitVec.ofNat 64 (i.a true t))) ∧
      ∀ t < 32, ∀ r, (i.en.getLsbD t = false ∨ ∀ b, i.indexed t = some b → r ≠ b ∧ (i.wideTy = false ∨ r ≠ b + 1)) →
        w'.vreg r t = w.vreg r t) ∧
  (∀ op ∈ [Op.ldx, .stx], ∀ (s : State) (e : Enc) (w : Wave) (sp : Split), Issues s op e w sp → (issueOf op e w sp).indexFails ≠ 0 →
    exec (Instr.ofOp e op) s = .next (finish (issueOf op e w sp)
      (.trap { cause := .bounds, code := 0, mask := (issueOf op e w sp).indexFails.setWidth 64, addr := 0, rpl := false }
        (issued op e s w sp)))) ∧
  ∀ (s : State) (e : Enc) (w : Wave) (sp : Split), Issues s .segw e w sp → NoJoin e sp → Enabled .segw e w sp →
    let n := (issueOf .segw e w sp).sA false
    (segwOk n = true → ∃ (t : State) (w' : Wave), exec (.segw e) s = .next t ∧ Completed s t w w' sp (passed e { sp with segw := n }) ∧
      NoVectorEffect .segw e w w' sp) ∧
    (segwOk n = false → exec (.segw e) s = .next (finish (issueOf .segw e w sp)
      (.trap { cause := .illegal, code := 0, mask := sp.mask.setWidth 64, addr := 0, rpl := false } (issued .segw e s w sp))))

/-! ### Control -/

/-- `BRA`, `BRX`, `RET`, `CALL` and `CALLX` move the split to their target when it can be reached; `CALL` and `CALLX` write the
address of the next instruction into the pair `D`. A wave of one split keeps that split and nothing else changes; with other
splits at the target they may merge (R117, R128-R130, R133). A target with non-zero bits [1:0] traps ALIGN and one at or above
2^57 traps SPACE, at the transferring instruction with the target as the address (R16, R128). `LOOP` subtracts 1 from its scalar
register and transfers while the result is not zero (R136). -/
def Obligations.ControlTransfersComplete : Prop :=
  (∀ op ∈ [Op.bra, .brx, .ret, .call, .callx], ∀ (s : State) (e : Enc) (w : Wave) (sp : Split), Issues s op e w sp → Enabled op e w sp →
     let target := controlTarget op (issueOf op e w sp)
     targetBad target = none →
     ∃ (t : State) (w' : Wave), exec (Instr.ofOp e op) s = .next t ∧ OnlyWave s t w.uid ∧ t.wave? w.uid = some w' ∧ SameRegs w w' ∧
       (w.splits = [sp] → (∀ x ∈ sp.stack.head?, target ≠ x.ja) →
         ∃ p, w'.splits = [movedTo e p target] ∧
           (op = .call ∨ op = .callx →
             ScalarWrite sp p e.d.toNat true (sp.pc + BitVec.ofNat 64 (4 * e.form.words)).toNat) ∧
           (op ≠ .call → op ≠ .callx → p = sp))) ∧
  (∀ op ∈ [Op.bra, .brx, .ret, .call, .callx], ∀ (s : State) (e : Enc) (w : Wave) (sp : Split), Issues s op e w sp → Enabled op e w sp →
     let target := controlTarget op (issueOf op e w sp)
     ∀ c, (c = .align ∧ target.toNat % 4 ≠ 0) ∨ (c = .space ∧ target.toNat % 4 = 0 ∧ 2 ^ 57 ≤ target.toNat) →
     exec (Instr.ofOp e op) s = .next (finish (issueOf op e w sp)
       (.trap { cause := c, code := 0, mask := sp.mask.setWidth 64, addr := target.toNat, rpl := false }
         (issued op e s w sp)))) ∧
  (∀ (s : State) (e : Enc) (w : Wave) (sp : Split), Issues s .loop e w sp → NoJoin e sp → Enabled .loop e w sp →
     let n := sp.sreg e.d.toNat - 1
     let target := (issueOf .loop e w sp).target14
     (n = 0 → ∃ (t : State) (w' : Wave) (p : Split), exec (.loop e) s = .next t ∧ Completed s t w w' sp (passed e p) ∧ NoVectorEffect .loop e w w' sp ∧
       ScalarWrite sp p e.d.toNat false 0) ∧
     (n ≠ 0 → targetBad target = none → w.splits = [sp] → (∀ x ∈ sp.stack.head?, target ≠ x.ja) →
       ∃ (t : State) (w' : Wave) (p : Split), exec (.loop e) s = .next t ∧ OnlyWave s t w.uid ∧ t.wave? w.uid = some w' ∧ SameRegs w w' ∧
         w'.splits = [movedTo e p target] ∧ ScalarWrite sp p e.d.toNat false n.toNat))

/-- `BRC` goes on when no active thread takes it, transfers when all do, and otherwise divides the split: with fewer than four
splits outside a handler the taken threads form a new split of the lowest free number at the target, which copies the split's
scalar registers, index registers and segment width, and the others go on (R115, R116, R131); with four splits, or in a handler, they
go first and the stack holds the others (R120, R333). No other split of the wave stands at the target, where the two would merge
(R117), and no other split changes. At an issue boundary where the PC is that of the top entry's join, the entry of phase 1 exchanges
the parts, and that of phase 2 is popped and unites them (R120): so of every wave's boundary, and so after a `NOP`. `JOIN` completes
alone in a wave of one split or in a handler; with a READY split elsewhere it waits in JWAIT (R119, R132). -/
def Obligations.BranchesDivideAndJoin : Prop :=
  (∀ (s : State) (e : Enc) (w : Wave) (sp : Split), Issues s .brc e w sp → NoJoin e sp → Enabled .brc e w sp → (w.splits.map Split.num).Nodup →
     let i := issueOf .brc e w sp
     let p := w.pred (e.d.toNat % 8)
     let taken := sp.mask &&& (if e.d.getLsbD 3 then ~~~p else p)
     let next := sp.pc + BitVec.ofNat 64 (4 * e.form.words)
     (taken = 0 → ∃ (t : State) (w' : Wave), exec (.brc e) s = .next t ∧ Completed s t w w' sp (passed e sp)) ∧
     (targetBad i.target14 = none → (∀ x ∈ sp.stack.head?, i.target14 ≠ x.ja) → (∀ q ∈ w.splits, q.num ≠ sp.num → q.pc ≠ i.target14) →
       (taken ≠ 0 → taken = sp.mask → ∃ (t : State) (w' : Wave), exec (.brc e) s = .next t ∧ OnlyWave s t w.uid ∧ t.wave? w.uid = some w' ∧
         SameRegs w w' ∧ w'.split? sp.num = some (movedTo e sp i.target14) ∧ OtherSplits w w' sp.num) ∧
       (taken ≠ 0 → taken ≠ sp.mask → w.trap = none → w.splits.length < 4 → i.target14 ≠ next →
         ∃ (t : State) (w' : Wave), ∃ a b, exec (.brc e) s = .next t ∧ OnlyWave s t w.uid ∧ t.wave? w.uid = some w' ∧ SameRegs w w' ∧
           w'.split? sp.num = some a ∧ a.mask = sp.mask &&& ~~~taken ∧ a.pc = next ∧ a.s = sp.s ∧ a.x = sp.x ∧ a.segw = sp.segw ∧
           a.stack = sp.stack ∧ a.st = .ready ∧
           w'.splits.length = w.splits.length + 1 ∧ (∀ k, k ≠ sp.num → k ≠ b.num → w'.split? k = w.split? k) ∧
           w.split? b.num = none ∧ (∀ k < b.num, w.split? k ≠ none) ∧ w'.split? b.num = some b ∧ b.mask = taken ∧ b.pc = i.target14 ∧ b.s = sp.s ∧ b.x = sp.x ∧
           b.segw = sp.segw ∧ b.stack = [] ∧ b.st = .ready) ∧
       (taken ≠ 0 → taken ≠ sp.mask → w.trap.isSome = true ∨ 4 ≤ w.splits.length → i.target14 ≠ i.joinAddr →
         ∃ (t : State) (w' : Wave), ∃ a, exec (.brc e) s = .next t ∧ OnlyWave s t w.uid ∧ t.wave? w.uid = some w' ∧ SameRegs w w' ∧
           w'.split? sp.num = some a ∧ OtherSplits w w' sp.num ∧ a.mask = taken ∧ a.pc = i.target14 ∧ a.s = sp.s ∧ a.x = sp.x ∧
           a.segw = sp.segw ∧ a.st = .ready ∧
           a.stack = { ja := i.joinAddr, rest := sp.mask &&& ~~~taken, pc := next, phase := 1, done := 0 } :: sp.stack))) ∧
  (∀ (s : State) (e : Enc) (w : Wave) (sp : Split), Issues s .join e w sp → Enabled .join e w sp →
     (NoJoin e sp → w.trap.isSome = true ∨ w.splits = [sp] →
       ∃ (t : State) (w' : Wave), exec (.join e) s = .next t ∧ Completed s t w w' sp (passed e sp) ∧ NoVectorEffect .join e w w' sp) ∧
     (w.trap = none → (w.splits.map Split.num).Nodup → (∀ q ∈ w.splits, q.num ≠ sp.num → q.pc ≠ sp.pc) →
       (∃ q ∈ w.splits, q.num ≠ sp.num ∧ q.st = .ready) →
       ∃ (t : State) (w' : Wave) (p : Split), exec (.join e) s = .next t ∧ OnlyWave s t w.uid ∧ t.wave? w.uid = some w' ∧ SameRegs w w' ∧
         w'.split? sp.num = some p ∧ OtherSplits w w' sp.num ∧ p.st = .jwait e.form.words ∧ p.pc = sp.pc ∧ p.mask = sp.mask ∧ p.s = sp.s)) ∧
  (∀ (w : Wave) (p : Split) x r, w.split? p.num = some p → p.stack = x :: r → p.pc = x.ja →
     (x.phase = 1 → x.pc ≠ x.ja →
       w.boundary p.num = w.modSplit p.num fun _ =>
         { p with mask := x.rest, pc := x.pc, stack := { x with phase := 2, done := p.mask } :: r }) ∧
     (x.phase = 2 → (∀ y ∈ r.head?, y.ja ≠ x.ja) → r ≠ [] ∨ (∀ q ∈ w.splits, q.num ≠ p.num → q.pc ≠ x.ja) → (w.splits.map Split.num).Nodup →
       w.boundary p.num = w.modSplit p.num fun _ => { p with mask := p.mask ||| x.done, stack := r })) ∧
  ∀ (s : State) (e : Enc) (w : Wave) (sp : Split) x r, Issues s .nop e w sp → (w.splits.map Split.num).Nodup → sp.stack = x :: r →
    sp.pc + BitVec.ofNat 64 (4 * e.form.words) = x.ja →
    ∃ (t : State) (w' : Wave), exec (.nop e) s = .next t ∧ OnlyWave s t w.uid ∧ t.wave? w.uid = some w' ∧
      w' = (w.modSplit sp.num fun _ => passed e sp).boundary sp.num

/-! ### Traps, returns and control registers -/

/-- Taking a trap outside a handler of a context with a handler enters the handler (R332, R336). A trap of a context without a handler, or
taken in a handler, is a fault of the context (R334). That no split of the wave issues after a fault, not only the one that faulted, is
the model's choice (log 34). -/
def Obligations.TrapsAreTaken : Prop :=
  (∀ (s : State) (w : Wave) (sp : Split) ti len, s.wave? w.uid = some w → w.split? sp.num = some sp → w.trap = none → (s.ctx w.ctx).hen = true →
     HandlerEntered s (takeTrap s w sp len ti) w sp ti len) ∧
  (∀ (s : State) (w : Wave) (sp : Split) ti len, s.wave? w.uid = some w → w.split? sp.num = some sp → w.ctx < s.ctxs.length →
     ((s.ctx w.ctx).hen = false ∨ w.trap.isSome = true) →
     ContextFaulted s (takeTrap s w sp len ti) w sp ti len)

/-- `TRAP` and `BKPT` enter the handler with their causes and code (R338, R339), and so does an unassigned opcode with ILLEGAL (R58). What
the encoding, the mode, the allotment or the latches refuse traps before the instruction has any effect, in that order of causes: ILLEGAL
where the encoding is not accepted, or a `.fast` function is asked of a baseline kernel; then PRIV where the mode check of R59 refuses, as
`CSRWR`, `HALT` and `TWFLUSH` in user mode; then BOUNDS where a vector register that the instruction reads or writes lies beyond the
wave's allotment, or a reservoir that it names does; then LATCH where it reads a latch that is not valid (R25, R38, R44, R45, R59). For
the opcodes of two or three vector sources the registers of BOUNDS are written out, the odd halves of pairs among them. -/
def Obligations.TrapInstructionsEnterHandler : Prop :=
  ((∀ op ∈ [Op.trap, .bkpt], ∀ (s : State) (e : Enc) (w : Wave) (sp : Split), Issues s op e w sp → Enabled op e w sp → w.trap = none →
     (s.ctx w.ctx).hen = true →
     ∃ (t : State), exec (Instr.ofOp e op) s = .next t ∧
       HandlerEntered s t w sp { cause := if op = .trap then .trap else .bkpt, code := (issueOf op e w sp).trapCode,
                                 mask := sp.mask.setWidth 64, addr := 0, rpl := false } e.form.words) ∧
   ∀ (s : State) c len (w : Wave) (sp : Split), issuer s = some (w, sp) → w.trap = none → (s.ctx w.ctx).hen = true →
     ∃ (t : State), exec (.unassignedOpcode c len) s = .next t ∧
       HandlerEntered s t w sp { cause := .illegal, code := 0, mask := sp.mask.setWidth 64, addr := 0, rpl := false }
         (formOf len).words) ∧
  ((∀ op s e w sp c, issuer s = some (w, sp) → earlyTrap s (issueOf op e w sp) = some c → w.trap = none →
     (s.ctx w.ctx).hen = true →
     ∃ (t : State), exec (Instr.ofOp e op) s = .next t ∧
       HandlerEntered s t w sp { cause := c, code := 0, mask := sp.mask.setWidth 64, addr := 0, rpl := false } e.form.words) ∧
   (∀ op s e w sp,
     let i := issueOf op e w sp
     let illegal := encErr op e ≠ none ∨ (op = .sfq ∧ 16 ≤ e.opx.toNat ∧ w.full = false)
     let priv := privBad i (s.waveSup i.w) = true
     let bounds := (∃ r ∈ (usesOf op e).vr ++ (usesOf op e).vw, w.regs < r.1 + r.2) ∨ ∃ n ∈ rsvRead i ++ rsvWritten i, w.regs < 4 * (n + 1)
     let latch := ∃ x ∈ [(e.ak, e.a), (e.bk, e.b), (e.ck, e.c)], x.1 = .lat ∧ i.w.latch.valid.getLsbD x.2.toNat = false
     (illegal → earlyTrap s i = some .illegal) ∧
     (¬illegal → priv → earlyTrap s i = some .priv) ∧
     (¬illegal → ¬priv → bounds → earlyTrap s i = some .bounds) ∧
     (¬illegal → ¬priv → ¬bounds → latch → earlyTrap s i = some .latch) ∧
     (¬illegal → ¬priv → ¬bounds → ¬latch → earlyTrap s i = none)) ∧
   (∀ op ∈ [Op.iadd, .isub, .imul, .imulh, .imin, .imax, .and, .or, .xor, .andn, .fadd, .fsub, .fmul, .fmin, .fmax, .imad, .ffma],
     ∀ (s : State) (e : Enc) (w : Wave) (sp : Split), encErr op e = none →
     let n := if (issueOf op e w sp).wideTy then 2 else 1
     earlyTrap s (issueOf op e w sp) = some .bounds ↔
       (e.nw = false ∧ w.regs < e.d.toNat + n) ∨ (e.ak = .vec ∧ w.regs < e.a.toNat + n) ∨
       (e.form ≠ .literal ∧ e.bk = .vec ∧ w.regs < e.b.toNat + n) ∨
       ((op = .imad ∨ op = .ffma) ∧ e.ck = .vec ∧ w.regs < e.c.toNat + n)) ∧
   ∀ op ∈ [Op.csrwr, .halt, .twflush], ∀ (s : State) (e : Enc) (w : Wave) (sp : Split), encErr op e = none → (s.ctx w.ctx).ksup = false → w.trap = none →
     earlyTrap s (issueOf op e w sp) = some .priv)

/-- `ERET` leaves the handler: the saved split goes on at the record's PC with its latches, past the instruction where `RPL` is
set with no thread left, or executing it again for the record's threads (R339); without `RPL` it goes on in the state in which it
stood, where the handler has not moved it (R113). A `tpc` with non-zero bits [1:0] traps ALIGN at the `ERET`, with the target as the
address (R16), which is a fault of the context, for the wave is in its handler (R334). That an instruction executed again uses the
addresses of its first issue, but reads its registers where the handler has written another `tpc`, is the model's choice (log 25), and
so is that `STKD` of `wstat` says that a split of the wave has a stack entry (log 79). `CSRRD` reads the control register that its
field names into a scalar register or pair; of `wstat`, `clkst`, `tpc`, `taddr` and `wch0` the value is stated (R100, R124,
R336, R337, R340). `CSRWR` of `fpset` writes the flags of the active threads (R84), of `clkset` stages a target (R99), and of
`tpc` in a handler changes the record that `ERET` uses; each changes nothing else (R336, R339). -/
def Obligations.ReturnsAndControlRegistersComplete : Prop :=
  (∀ (s : State) (e : Enc) (w : Wave) (sp : Split) r, Issues s .eret e w sp → Enabled .eret e w sp → w.trap = some r → w.split? r.spl ≠ none → r.saved.num = r.spl →
     r.tpc.toNat % 4 = 0 →
     let m := r.tmask.setWidth 32
     let pc := if r.rpl = true ∧ m = 0 then r.tpc + BitVec.ofNat 64 (4 * r.len) else r.tpc
     (∀ x ∈ r.saved.stack.head?, pc ≠ x.ja) →
     ∃ (t : State) (w' : Wave) (p : Split), exec (.eret e) s = .next t ∧ OnlyWave s t w.uid ∧ t.wave? w.uid = some w' ∧ SameRegs w w' ∧ w'.trap = none ∧
       w'.latch = r.latch ∧ w'.split? r.spl = some p ∧ p.pc = pc ∧ p.mask = r.saved.mask ∧ p.s = r.saved.s ∧
       p.st = (if r.rpl = false ∧ r.tpc = r.saved.pc then r.saved.resumed else .ready) ∧
       p.x = r.saved.x ∧ p.segw = r.saved.segw ∧ p.stack = r.saved.stack ∧
       (r.rpl = true → m ≠ 0 → r.tpc = r.saved.pc → r.again ≠ [] →
         p.replay = some { mask := m, accs := some (r.again.filter fun a => m.getLsbD a.thread), pend := r.ins }) ∧
       (r.rpl = true → m ≠ 0 → r.tpc ≠ r.saved.pc ∨ r.again = [] → p.replay = some { mask := m, accs := none, pend := none }) ∧
       (r.rpl = false → p.replay = if r.tpc = r.saved.pc then r.saved.replay else none) ∧ (r.rpl = true → m = 0 → p.replay = none)) ∧
  (∀ (s : State) (e : Enc) (w : Wave) (sp : Split) r, Issues s .eret e w sp → Enabled .eret e w sp → w.trap = some r → w.ctx < s.ctxs.length →
     r.tpc.toNat % 4 ≠ 0 →
     ∃ (t : State), exec (.eret e) s = .next t ∧
       ContextFaulted s t w sp { cause := .align, code := 0, mask := sp.mask.setWidth 64, addr := r.tpc.toNat, rpl := false } e.form.words) ∧
  (∀ (s : State) (e : Enc) (w : Wave) (sp : Split), Issues s .csrrd e w sp → NoJoin e sp → Enabled .csrrd e w sp →
     ∃ (t : State) (w' : Wave), ∃ p x, exec (.csrrd e) s = .next t ∧ Completed s t w w' sp (passed e p) ∧ NoVectorEffect .csrrd e w w' sp ∧
       ScalarWrite sp p e.d.toNat (csrWide e.csr) x ∧
       (e.csr = 0x000 → x = wstatWord w sp) ∧ (e.csr = 0x010 → x = clkstWord (issued .csrrd e s w sp)) ∧
       (e.csr = 0x041 → x = match w.trap with | some r => r.tpc.toNat | none => 0) ∧
       (e.csr = 0x043 → x = match w.trap with | some r => r.taddr.toNat | none => 0) ∧
       (e.csr = 0x050 → x = ((s.ctx w.ctx).wch.getD 0 0).toNat)) ∧
  (∀ (s : State) (e : Enc) (w : Wave) (sp : Split), Issues s .csrwr e w sp → NoJoin e sp → Enabled .csrwr e w sp →
     let r := e.d.toNat % 128
     (e.csr = 0x011 → ∃ (t : State) (w' : Wave), exec (.csrwr e) s = .next t ∧ t.tb = { s.tb with staged := sp.spair r } ∧
       Completed { s with tb := t.tb } t w w' sp (passed e sp) ∧ NoVectorEffect .csrwr e w w' sp) ∧
     (e.csr = 0x060 → ∃ (t : State) (w' : Wave), exec (.csrwr e) s = .next t ∧ Completed s t w w' sp (passed e sp) ∧ w'.v = w.v ∧ w'.p = w.p ∧
       ∀ k < 32, sget 0 w'.fp k = if sp.mask.getLsbD k then (sp.sreg r).setWidth 8 else sget 0 w.fp k) ∧
     (e.csr = 0x041 → ∀ tr, w.trap = some tr → ∃ (t : State) (w' : Wave), exec (.csrwr e) s = .next t ∧ OnlyWave s t w.uid ∧
       t.wave? w.uid = some w' ∧ SameRegs w w' ∧ w'.trap = some { tr with tpc := sp.spair r } ∧
       w'.split? sp.num = some (passed e sp)) ∧
     (e.csr = 0x041 → w.trap = none → ∃ (t : State) (w' : Wave), exec (.csrwr e) s = .next t ∧ Completed s t w w' sp (passed e sp) ∧
       NoVectorEffect .csrwr e w w' sp))

/-- `EXIT` ends the enabled threads: the others of the split go on; a split with no thread left follows its top stack entry to the rest or
to the threads that are done (R120), or, without one, leaves its wave, which has exited when no split is left (R134). `YIELD` ranks the
split down and goes on (R135). `HALT` completes, then its running context begins to halt (R325, R340). The message by which `HALT` is
reported is the model's choice (log 69). -/
def Obligations.ExitYieldAndHaltComplete : Prop :=
  ((∀ (s : State) (e : Enc) (w : Wave) (sp : Split), Issues s .exit e w sp → NoJoin e sp → w.trap = none → w.split? sp.num = some sp →
     let en := enabledOf .exit e w sp
     sp.mask &&& ~~~en ≠ 0 → en ≠ 0 →
     ∃ (t : State) (w' : Wave), exec (.exit e) s = .next t ∧ Completed s t w w' sp (passed e { sp with mask := sp.mask &&& ~~~en }) ∧
       NoVectorEffect .exit e w w' sp) ∧
   (∀ (s : State) (e : Enc) (w : Wave) (sp : Split) x r, Issues s .exit e w sp → w.trap = none → sp.stack = x :: r → sp.mask ≠ 0 →
     enabledOf .exit e w sp = sp.mask → x.phase = 1 ∨ x.phase = 2 → (w.splits.map Split.num).Nodup →
     let pc := if x.phase = 1 then x.pc else x.ja
     (∀ y ∈ r.head?, pc ≠ y.ja) → (∀ q ∈ w.splits, q.num ≠ sp.num → q.pc ≠ pc) →
     ∃ (t : State) (w' : Wave) (p : Split), exec (.exit e) s = .next t ∧ OnlyWave s t w.uid ∧ t.wave? w.uid = some w' ∧ SameRegs w w' ∧
       OtherSplits w w' sp.num ∧ w'.split? sp.num = some p ∧ p.mask = (if x.phase = 1 then x.rest else x.done) ∧ p.pc = pc ∧
       p.stack = r ∧ p.st = .ready ∧ p.s = sp.s ∧ p.x = sp.x ∧ p.segw = sp.segw) ∧
   (∀ (s : State) (e : Enc) (w : Wave) (sp : Split), Issues s .exit e w sp → w.trap = none → sp.stack = [] → sp.mask ≠ 0 →
     enabledOf .exit e w sp = sp.mask → (∃ q ∈ w.splits, q.num ≠ sp.num ∧ q.st = .ready) →
     ∃ (t : State) (w' : Wave), exec (.exit e) s = .next t ∧ OnlyWave s t w.uid ∧ t.wave? w.uid = some w' ∧ SameRegs w w' ∧
       OtherSplits w w' sp.num ∧ w'.split? sp.num = none) ∧
   (∀ (s : State) (e : Enc) (w : Wave) (sp : Split), Issues s .exit e w sp → w.trap = none → w.splits = [sp] → sp.stack = [] → sp.mask ≠ 0 →
     enabledOf .exit e w sp = sp.mask →
     ∃ (t : State) (w' : Wave), exec (.exit e) s = .next t ∧ t.wave? w.uid = some w' ∧ w'.splits = [] ∧ { t with waves := s.waves, groups := s.groups, ctxs := s.ctxs } = s) ∧
   ∀ (s : State) (e : Enc) (w : Wave) (sp : Split), Issues s .yield e w sp → NoJoin e sp → Enabled .yield e w sp →
     ∃ (t : State) (w' : Wave), exec (.yield e) s = .next t ∧ Completed s t w w' sp (passed e { sp with yielded := true }) ∧
       NoVectorEffect .yield e w w' sp) ∧
  (∀ (s : State) (e : Enc) (w : Wave) (sp : Split), Issues s .halt e w sp → NoJoin e sp → Enabled .halt e w sp → (s.ctx w.ctx).st = .running → w.ctx < s.ctxs.length →
     ∃ (t : State) (w' : Wave), exec (.halt e) s = .next t ∧ (t.ctx w.ctx).st = .halting ∧ (∀ k, k ≠ w.ctx → t.ctx k = s.ctx k) ∧
       Completed { s with ctxs := t.ctxs, msix := t.msix, out := t.out } t w w' sp (passed e sp) ∧ NoVectorEffect .halt e w w' sp ∧
       2 * w.ctx + 1 ∈ t.msix ∧ t.out = s.out ++ [.halted w.ctx w.core w.lane w.slot])

/-! ### Memory instructions -/

/-- The access per thread, the request and the operation of a store, as its meaning computes them. -/
def storeForm (op : Op) (i : Issue) (s : State) : MemAsk × List Acc × MemFn :=
  match op with
  | .st => (stAsk i, stAccs i s.freeDWord.1.toNat, .store)
  | .stfe => (stfeAsk i, stAccs i s.freeDWord.1.toNat, .storeFull)
  | .stn4 => (stn4Ask i, stn4Accs i, .stn4)
  | .red => (atomAsk i true, atomAccs i, .rmw i.e.opx.toNat i.e.ty.toNat)
  | _ => (sstAsk i, [sstAcc i], .store)

/-- The state in which a store's accesses are resolved. -/
def storeState (op : Op) (i : Issue) (s : State) : State := if op = .st ∨ op = .stfe then stFree i s else s

/-- The bytes of a store's access in the group's buffer of `DET` writes (R201). -/
def detBytes (w : Wave) (ins : Nat) (x : Acc × Option Tlb) : List DetItem :=
  (List.range x.1.size).map fun k =>
    DetItem.byte (w.idx * 32 + x.1.thread) ins (x.1.va + k) (BitVec.ofNat 8 (x.1.data / 2 ^ (8 * k))) false

/-- `ST`, `STFE`, `STN4`, `RED` and `SST` that are not sc complete when every access reaches its place: they leave one operation per
access, in ascending thread order, at the addresses and with the data of their threads, and change no byte of memory and no register
(R187, R205-R215). A store to the wave's own scratchpad reaches its place for every aligned address within the group's allotment, and the
place is the byte range of the scratchpad at the thread's address (R180, R205, R207). An sc `ST` is held until what it covers is
performed, and no operation leaves (R198). A store to `DET` pages alone enters its bytes in the group's buffer at once, in thread order,
and leaves no operation (R201). That the buffer is keyed by virtual address and takes `SST` too, where R201 speaks of `ST`, is the model's
choice (log 35). -/
def Obligations.StoresIssue : Prop :=
  (∀ op ∈ [Op.st, .stfe, .stn4, .red, .sst], ∀ (s : State) (e : Enc) (w : Wave) (sp : Split), Issues s op e w sp → NoJoin e sp → Enabled op e w sp → e.order ≠ 4 →
     let i := issueOf op e w sp
     let s1 := issued op e s w sp
     let f := storeForm op i s1
     ∀ oks, AllReach (storeState op i s1) i f.1 f.2.1 oks → (∀ x ∈ oks, ∀ g va pa, x.1.place ≠ .det g va pa) →
     ∃ (t : State) (w' : Wave) (ops : List MemOp), exec (Instr.ofOp e op) s = .next t ∧ MemIssued e s t w w' sp ∧ w'.pend = w.pend ∧
       t.stores = s.stores ++ ops ∧ ops.map MemOp.acc = oks.map Prod.fst ∧
       ∀ m ∈ ops, m.fn = f.2.2 ∧ m.wave = w.uid ∧ m.order = e.order ∧ m.scope = e.scope ∧ m.ret = none) ∧
  (∀ op ∈ [Op.st, .stfe], ∀ (s : State) i, i.op = op → i.e.space = 1 → i.sp.replay = none →
     ∀ g accs, s.group? i.w.group = some g → accs = stAccs i s.freeDWord.1.toNat →
     (∀ t < 32, i.en.getLsbD t = true →
       i.addr i.e.ck i.e.c i.hasC t % szBytes i.e.sz = 0 ∧ i.addr i.e.ck i.e.c i.hasC t + szBytes i.e.sz ≤ g.scratch) →
     (∀ a ∈ accs, watchHit (s.ctx i.w.ctx) .write a = false) →
     AllReach s i (storeForm op i s).1 accs (accs.map fun a => ({ a with place := .spd g.uid a.va }, none)) ∧
     ∀ a ∈ accs, a.va = i.addr i.e.ck i.e.c i.hasC a.thread) ∧
  (∀ (s : State) (e : Enc) (w : Wave) (sp : Split), Issues s .st e w sp → Enabled .st e w sp → e.order = 4 →
     let i := issueOf .st e w sp
     let s1 := issued .st e s w sp
     ∀ oks, AllReach (stFree i s1) i (stAsk i) (stAccs i s1.freeDWord.1.toNat) oks →
     ∃ (t : State) (w' : Wave) (num : Nat) (seqs : List Nat), exec (.st e) s = .next t ∧
       ScHeld e s t w w' sp i.en num seqs (.ops 4 e.scope .store none (oks.map Prod.fst)) ∧ w'.pend = w.pend) ∧
  ∀ op ∈ [Op.st, .sst], ∀ (s : State) (e : Enc) (w : Wave) (sp : Split), Issues s op e w sp → NoJoin e sp → Enabled op e w sp → e.order ≠ 4 →
    let i := issueOf op e w sp
    let s1 := issued op e s w sp
    ∀ oks gr, AllReach (storeState op i s1) i (storeForm op i s1).1 (storeForm op i s1).2.1 oks → s.group? w.group = some gr →
    (∀ x ∈ oks, ∃ pa, x.1.place = .det w.group x.1.va pa) →
    ∃ (t : State) (w' : Wave) (ins : Nat) (gr' : Group), exec (Instr.ofOp e op) s = .next t ∧
      MemIssued e s { t with groups := s.groups } w w' sp ∧ w'.pend = w.pend ∧ t.stores = s.stores ∧ t.group? w.group = some gr' ∧
      gr' = { gr with det := gr.det ++ oks.flatMap (detBytes w ins) } ∧
      ∀ g, g ≠ w.group → t.group? g = s.group? g

/-- `LD` and `SLD` that are not sc, and `ATOM`, complete with an outstanding write of their destination for every thread whose
access reaches its place; an `ATOM` leaves its operations, which return to that write. No register has changed yet (R39,
R56, R209, R213, R215). An sc `LD` or `ATOM` whose threads all reach their places is held with its write outstanding, and no
access is made (R198). -/
def Obligations.LoadsIssue : Prop :=
  (∀ op ∈ [Op.ld, .sld, .atom], ∀ (s : State) (e : Enc) (w : Wave) (sp : Split), Issues s op e w sp → NoJoin e sp → Enabled op e w sp → e.order ≠ 4 →
    let i := issueOf op e w sp
    let s1 := issued op e s w sp
    let f : MemAsk × List Acc :=
      match op with
      | .ld => (ldAsk i, ldAccs i) | .sld => (sldAsk i, [sldAcc i]) | _ => (atomAsk i false, atomAccs i)
    ∀ oks, AllReach s1 i f.1 f.2 oks → (op = .atom → ∀ x ∈ oks, ∀ g va pa, x.1.place ≠ .det g va pa) →
    ∃ (t : State) (w' : Wave) (p : Pend) (ops : List MemOp), exec (Instr.ofOp e op) s = .next t ∧ MemIssued e s t w w' sp ∧ w'.pend = w.pend ++ [p] ∧
      p.mask = accMask (oks.map Prod.fst) ∧ p.all = p.mask ∧ p.sp = sp.num ∧ p.wait = .ld ∧
      p.dst = (if op = .sld then .sca e.d.toNat (destRegs op e) else .vec e.d.toNat (destRegs op e)) ∧
      t.stores = s.stores ++ ops ∧
      (op ≠ .atom → ops = [] ∧
        p.body = .load e.order e.scope (if op = .ld then e.sz else if e.ty == 2 then 1 else 0) (oks.map Prod.fst)) ∧
      (op = .atom → ops.map MemOp.acc = oks.map Prod.fst ∧
        ∀ m ∈ ops, m.fn = .rmw e.opx.toNat e.ty.toNat ∧ m.ret = some p.seq ∧ m.wave = w.uid)) ∧
  ∀ op ∈ [Op.ld, .atom], ∀ (s : State) (e : Enc) (w : Wave) (sp : Split), Issues s op e w sp → Enabled op e w sp → e.order = 4 →
    let i := issueOf op e w sp
    let s1 := issued op e s w sp
    let f : MemAsk × List Acc := if op = .ld then (ldAsk i, ldAccs i) else (atomAsk i false, atomAccs i)
    ∀ oks, AllReach s1 i f.1 f.2 oks →
    let accs := oks.map Prod.fst
    let work : ScWork :=
      if op = .ld then .load e.d.toNat e.sz accs
      else .ops 4 e.scope (.rmw e.opx.toNat e.ty.toNat) (some (e.d.toNat, if atomWide e then 8 else 4)) accs
    ∃ (t : State) (w' : Wave) (p : Pend) (seqs : List Nat), exec (Instr.ofOp e op) s = .next t ∧
      ScHeld e s t w w' sp i.en p.seq seqs work ∧ w'.pend = w.pend ++ [p] ∧ p.mask = accMask accs ∧ p.all = p.mask ∧
      p.sp = sp.num ∧ p.wait = .ld ∧ p.body = .later ∧ p.dst = .vec e.d.toNat (destRegs op e)

/-- The accesses of a memory instruction, one per enabled thread, as its meaning computes them. -/
def accessesOf (op : Op) (i : Issue) (s : State) : List Acc :=
  match op with
  | .ld => ldAccs i
  | .ldfe => (lanesOf i.en).map fun t => accAt t (i.addr i.e.bk i.e.b true t) (szBytes i.e.sz) 0 0
  | .atom => atomAccs i
  | .sld => [sldAcc i]
  | _ => (storeForm op i s).2.1

/-- Accesses that are not naturally aligned trap ALIGN with every misaligned thread and the lowest misaligned address, before any other
condition of memory is looked at, and without effect, whatever their order (R207). That the address of the trap is the lowest misaligned
one is the model's choice (log 26). -/
def Obligations.MisalignedAccessesTrap : Prop :=
  ∀ op ∈ [Op.ld, .st, .ldfe, .stfe, .atom, .red, .sld, .sst], ∀ (s : State) (e : Enc) (w : Wave) (sp : Split), Issues s op e w sp →
    Enabled op e w sp →
    let i := issueOf op e w sp
    let s1 := issued op e s w sp
    let bad := (accessesOf op i s1).filter fun a => a.va % a.size != 0
    sp.replay = none → (∃ g, s.group? w.group = some g) → bad ≠ [] →
    exec (Instr.ofOp e op) s = .next (finish i (.trap (maskTrap .align (accMask bad) (lowestVa bad) false) (storeState op i s1)))

/-- `PREF`, `CINV` and `CWB` change no value and never trap, park or fault once they execute: they only advance (R216). `FENCE` that is
not sc completes when the operations that it covers are performed and waits for them otherwise: an acquire fence for the enabled threads'
loads, a release fence for all their operations. An sc `FENCE` and `FENCE.sc` wait for what they cover and then for their tick (R190,
R198, R217). Which operations a fence covers, and that it waits until all of them are performed, is the model's choice (log 28). -/
def Obligations.CacheAndFenceInstructionsComplete : Prop :=
  (∀ op ∈ [Op.pref, .cinv, .cwb], ∀ (s : State) (e : Enc) (w : Wave) (sp : Split), Issues s op e w sp → NoJoin e sp →
     ∃ (t : State) (w' : Wave), exec (Instr.ofOp e op) s = .next t ∧ OnlyWave s t w.uid ∧ GoesOn e w sp t w' ∧ OtherSplits w w' sp.num ∧
       w'.latch = latchAfter op e w sp ∧ { w' with splits := w.splits, latch := w.latch, tw := w.tw } = w) ∧
  ((∀ (s : State) (e : Enc) (w : Wave) (sp : Split), Issues s .fence e w sp → NoJoin e sp → Enabled .fence e w sp → e.order ≠ 4 →
     let i := issueOf .fence e w sp
     let loads := (i.w.pend.filter fun p => p.readsFor i.en).map (·.seq)
     let covered := if e.order = 1 then loads else (issued .fence e s w sp).drainSet i.w i.en
     ((issued .fence e s w sp).drained i.w covered = true →
       ∃ (t : State) (w' : Wave), exec (.fence e) s = .next t ∧ Completed s t w w' sp (passed e sp) ∧ NoVectorEffect .fence e w w' sp) ∧
     ((issued .fence e s w sp).drained i.w covered = false →
       ∃ (t : State) (w' : Wave) (p : Split), exec (.fence e) s = .next t ∧ Completed s t w w' sp p ∧ p.pc = sp.pc ∧ p.st = .blocked (.drain covered))) ∧
   ∀ op ∈ [Op.fence, .fencesc], ∀ (s : State) (e : Enc) (w : Wave) (sp : Split), Issues s op e w sp → Enabled op e w sp → e.order = 4 →
     ∃ (t : State) (w' : Wave), ∃ p num seqs, exec (Instr.ofOp e op) s = .next t ∧ Completed { s with nextUid := t.nextUid } t w w' sp p ∧
       p.pc = sp.pc ∧ p.st = .blocked (.scDrain num seqs (decide (4 ≤ e.scope)) e.form.words .fence) ∧
       (sp.replay = none → num = s.nextUid) ∧
       (op = .fencesc → (∀ m ∈ s.stores, m.wave = w.uid → m.acc.thread < 32 → m.ins < num → m.ins ∈ seqs) ∧
         ∀ p ∈ w.pend, p.readsFor 0xFFFFFFFF = true → p.seq < num → p.seq ∈ seqs))

/-! ### Steps of the memory system -/

/-- A store performs at its home once nothing that orders it stands before it: it writes exactly its bytes, lowest first, in
device memory, host memory or a scratchpad, or in the same word of every member for a store to the group-reduction window (R271), and
leaves every other byte, register and operation (R187, R210). A nibble store writes the half of its byte that its data names (R214). A
read-modify-write of 4 or 8 bytes replaces the old value of its bytes in device memory by the value of R213 and changes no other byte;
the old value goes to the outstanding write that it names, if it names one, and to nothing else. Where the data is uncorrectable, it
writes nothing (R220). -/
def Obligations.StoresAndAtomicsPerform : Prop :=
  ((∀ (s : State) seq m, s.stores.find? (fun m => m.seq == seq) = some m → mayPerform s m = true → m.fn = .store →
     ∃ (t : State), exec (.homeSlicePerform seq) s = .next t ∧
       ((∀ core lane slot thread reg byte, m.acc.place ≠ .reg core lane slot thread reg byte) → t.waves = s.waves) ∧
       (∀ core lane slot thread reg byte, m.acc.place = .reg core lane slot thread reg byte →
         t.mem = s.mem ∧ t.hostMem = s.hostMem ∧ t.groups = s.groups) ∧
       (∀ m' ∈ s.stores, m'.seq ≠ seq → m' ∈ t.stores) ∧ (∀ m' ∈ t.stores, m' ∈ s.stores ∧ m'.seq ≠ seq) ∧
       (∀ pa, m.acc.place = .phys pa → t.hostMem = s.hostMem ∧ t.groups = s.groups ∧
         (∀ a, a < pa ∨ pa + m.acc.size ≤ a → byteAt t.mem a = byteAt s.mem a) ∧
         ∀ k < m.acc.size, byteAt t.mem (pa + k) = BitVec.ofNat 8 (m.acc.data / 2 ^ (8 * k))) ∧
       (∀ pa, m.acc.place = .host pa → t.mem = s.mem ∧ t.groups = s.groups ∧
         (∀ a, a < pa ∨ pa + m.acc.size ≤ a → byteAt t.hostMem a = byteAt s.hostMem a) ∧
         ∀ k < m.acc.size, byteAt t.hostMem (pa + k) = BitVec.ofNat 8 (m.acc.data / 2 ^ (8 * k))) ∧
       (∀ g off, m.acc.place = .spd g off → t.mem = s.mem ∧ t.hostMem = s.hostMem ∧
         ∀ gr, s.group? g = some gr → ∃ gr', t.group? g = some gr' ∧
           (∀ a, a < off ∨ off + m.acc.size ≤ a → byteAt gr'.mem a = byteAt gr.mem a) ∧
           ∀ k < m.acc.size, byteAt gr'.mem (off + k) = BitVec.ofNat 8 (m.acc.data / 2 ^ (8 * k))) ∧
       (∀ c ty op off, m.acc.place = .grp c ty op off → t.mem = s.mem ∧ t.hostMem = s.hostMem ∧
         ∀ gr ∈ s.members c, ∃ gr', t.group? gr.uid = some gr' ∧ (∀ a, a < off ∨ off + 4 ≤ a → byteAt gr'.mem a = byteAt gr.mem a) ∧
           ∀ k < 4, byteAt gr'.mem (off + k) = BitVec.ofNat 8 (m.acc.data / 2 ^ (8 * k)))) ∧
   ∀ (s : State) seq m pa, s.stores.find? (fun m => m.seq == seq) = some m → mayPerform s m = true → m.fn = .stn4 →
     m.acc.place = .phys pa →
     ∃ (t : State), exec (.homeSlicePerform seq) s = .next t ∧ t.waves = s.waves ∧ t.hostMem = s.hostMem ∧
       (∀ a, a ≠ pa → byteAt t.mem a = byteAt s.mem a) ∧
       byteAt t.mem pa =
         (if m.acc.data / 16 % 2 = 0 then (byteAt s.mem pa).extractLsb' 4 4 ++ BitVec.ofNat 4 m.acc.data
          else BitVec.ofNat 4 m.acc.data ++ (byteAt s.mem pa).extractLsb' 0 4)) ∧
  ((∀ (s : State) seq m mode ty pa n, s.stores.find? (fun m => m.seq == seq) = some m → mayPerform s m = true → m.fn = .rmw mode ty →
     m.acc.place = .phys pa → m.acc.size = n → (n = 4 ∧ ty < 2) ∨ (n = 8 ∧ (ty = 2 ∨ ty = 3)) → mode < 10 →
     m.acc.data < 2 ^ (8 * n) → m.acc.data2 < 2 ^ (8 * n) → s.placeBad m.acc = none →
     let old := readLe s.mem pa n
     ∃ (t : State), exec (.homeSlicePerform seq) s = .next t ∧ t.hostMem = s.hostMem ∧ t.groups = s.groups ∧
       (∀ a, a < pa ∨ pa + n ≤ a → byteAt t.mem a = byteAt s.mem a) ∧
       BitVec.ofNat (8 * n) (readLe t.mem pa n) = rmwSpec mode (decide (ty = 0 ∨ ty = 2)) (BitVec.ofNat (8 * n) old)
         (BitVec.ofNat (8 * n) m.acc.data) (BitVec.ofNat (8 * n) m.acc.data2) ∧
       (m.ret = none → t.waves = s.waves) ∧
       ∀ r w p o sc z vals, m.ret = some r → s.wave? m.wave = some w → w.pend.find? (fun p => p.seq == r) = some p →
         p.body = .atom o sc z vals →
         (∀ k, k ≠ m.wave → t.wave? k = s.wave? k) ∧ ∃ (w' : Wave), t.wave? m.wave = some w' ∧ { w' with pend := w.pend } = w ∧
           w'.pend.find? (fun p => p.seq == r) = some { p with body := .atom o sc z (vals ++ [(m.acc.thread, old)]) }) ∧
   ∀ (s : State) seq m mode ty va, s.stores.find? (fun m => m.seq == seq) = some m → mayPerform s m = true → m.fn = .rmw mode ty →
     s.placeBad m.acc = some va →
     ∃ (t : State), exec (.homeSlicePerform seq) s = .next t ∧ t.hostMem = s.hostMem ∧
       (∀ a, a < s.mgmt.elog ∨ s.mgmt.elog + 8192 ≤ a → byteAt t.mem a = byteAt s.mem a))

/-- One thread of an outstanding load returns: its registers take the bytes of the place as they stand, in device or host memory, in a
scratchpad, reduced over the members of a convoy (R268), or as its group sees a `DET` page (R201), with sizes 8 and 16 extended, and the
thread is complete; every other register, every byte of memory and every other object stays (R209). The model's choice (log 102): it
says so of a load for which nothing has been kept, and what earlier reads keep (`shadow`) may grow. Where the data is uncorrectable, the
register is not written and the thread's failure is noted (R220). The old values of an `ATOM` are written in the same way (R213). -/
def Obligations.LoadReturnsMemory : Prop :=
  (∀ (s : State) u seq (w : Wave) p o sc sz a accs d n, s.wave? u = some w → w.halted = false → w.pend.find? (fun p => p.seq == seq) = some p →
    p.body = .load o sc sz accs → (accs.filter fun b => (1#32 <<< a.thread).getLsbD b.thread) = [a] → a.thread < 32 →
    p.mask.getLsbD a.thread = true → mayReturn s w p a = true → p.free a.thread = true → p.dst = .vec d n →
    (s.placeBad a = none → (∀ x ∈ s.shadow, x.seq ≠ seq) →
     ∃ (t : State) (w' : Wave) (x : Nat), exec (.loadReturn u seq (1#32 <<< a.thread)) s = .next t ∧
      OnlyWave { s with shadow := t.shadow } t u ∧ t.wave? u = some w' ∧
      { w' with v := w.v, badV := w.badV, pend := w.pend } = w ∧
      (∀ pa, a.place = .phys pa → x = readLe s.mem pa a.size) ∧
      (∀ pa, a.place = .host pa → x = readLe s.hostMem pa a.size) ∧
      (∀ g off gr, a.place = .spd g off → s.group? g = some gr → x = readLe gr.mem off a.size) ∧
      (∀ c ty op off, a.place = .grp c ty op off → x = grpReduce ty op ((s.members c).map fun g => readLe g.mem off 4)) ∧
      (∀ g va pa, a.place = .det g va pa → ∀ k < a.size,
        x / 2 ^ (8 * k) % 256 = (s.detByte g { tid := w.idx * 32 + a.thread, ins := seq } (va + k) (pa + k)).toNat) ∧
      (∀ k < n, w'.vreg (d + k) a.thread = BitVec.ofNat 32 (loadValue sz x / 2 ^ (32 * k))) ∧
      (∀ t < 32, ∀ r, t ≠ a.thread ∨ r < d ∨ d + n ≤ r → w'.vreg r t = w.vreg r t) ∧
      ∃ p', w'.pend.find? (fun p => p.seq == seq) = some p' ∧ p'.mask = p.mask &&& ~~~(1#32 <<< a.thread)) ∧
    ∀ va, s.placeBad a = some va →
     ∃ (t : State) (w' : Wave) (p' : Pend), exec (.loadReturn u seq (1#32 <<< a.thread)) s = .next t ∧ t.wave? u = some w' ∧
      { w' with pend := w.pend } = w ∧ w'.pend.find? (fun p => p.seq == seq) = some p' ∧
      p'.mask = p.mask &&& ~~~(1#32 <<< a.thread) ∧ p'.fails = p.fails ++ [(a.thread, .ecc, va)]) ∧
  ∀ (s : State) u seq (w : Wave) p o sc z vals i old d n, s.wave? u = some w → w.halted = false → w.pend.find? (fun p => p.seq == seq) = some p →
    p.body = .atom o sc z vals → (vals.filter fun v => (1#32 <<< i).getLsbD v.1) = [(i, old)] → i < 32 → p.mask.getLsbD i = true → p.dst = .vec d n →
    ∃ (t : State) (w' : Wave) (p' : Pend), exec (.loadReturn u seq (1#32 <<< i)) s = .next t ∧ OnlyWave s t u ∧ t.wave? u = some w' ∧
      { w' with v := w.v, badV := w.badV, pend := w.pend } = w ∧
      (∀ k < n, w'.vreg (d + k) i = BitVec.ofNat 32 (old / 2 ^ (32 * k))) ∧
      (∀ t < 32, ∀ r, t ≠ i ∨ r < d ∨ d + n ≤ r → w'.vreg r t = w.vreg r t) ∧
      w'.pend.find? (fun p => p.seq == seq) = some p' ∧ p'.mask = p.mask &&& ~~~(1#32 <<< i)

/-- A full/empty load waits, with its destination outstanding for every enabled thread, until its threads are served (R188,
R211). A full/empty load is served thread by thread once its granules are full; after the last one the split goes on (R211). An
sc operation that has drained waits for its tick (R198). -/
def Obligations.MemoryWaitsBeginAndEnd : Prop :=
  (∀ (s : State) (e : Enc) (w : Wave) (sp : Split), Issues s .ldfe e w sp → Enabled .ldfe e w sp → sp.replay = none →
     ∀ g, s.group? w.group = some g →
     memPre (issued .ldfe e s w sp) (issueOf .ldfe e w sp) g
       { kind := .read, use := .fe, space := e.space, plain := false }
       ((lanesOf (issueOf .ldfe e w sp).en).map fun t =>
         accAt t ((issueOf .ldfe e w sp).addr e.bk e.b true t) (szBytes e.sz) 0 0) = none →
     ∃ (t : State) (w' : Wave), ∃ p q seq l, exec (.ldfe e) s = .next t ∧ t.wave? w.uid = some w' ∧ SameRegs w w' ∧ w'.split? sp.num = some p ∧
       p.pc = sp.pc ∧ p.st = .blocked (.ldfe e.d.toNat e.sz (e.pol == 1) e.form.words seq l) ∧
       w'.pend = w.pend ++ [q] ∧ q.seq = seq ∧ q.mask = (issueOf .ldfe e w sp).en ∧ q.dst = .vec e.d.toNat (szRegs e.sz) ∧
       t.mem = s.mem ∧ t.stores = s.stores) ∧
  ((∀ (s : State) u n (w : Wave) p d sz clear len seq accs a, s.wave? u = some w → w.halted = false → w.split? n = some p →
     p.st = .blocked (.ldfe d sz clear len seq accs) →
     accs.find? (ldfeMay s w clear seq accs) = some a → a.thread < 32 →
     s.scratchBad a.place a.size = false →
     ∃ (t : State) (w' : Wave), ∃ p', exec (.ldfeServe u n) s = .next t ∧ t.wave? u = some w' ∧ w'.split? n = some p' ∧ t.mem = s.mem ∧
       t.stores = s.stores ∧
       (∀ k < szRegs sz, w'.vreg (d + k) a.thread = BitVec.ofNat 32 (s.readPlace outside a.place a.size / 2 ^ (32 * k))) ∧
       ((∀ b ∈ accs, b.thread = a.thread) → p.stack = [] → p'.st = .ready ∧ p'.pc = p.pc + BitVec.ofNat 64 (4 * len)) ∧
       ((∃ b ∈ accs, b.thread ≠ a.thread) →
         p'.st = .blocked (.ldfe d sz clear len seq (accs.filter fun b => b.thread != a.thread)) ∧ p'.pc = p.pc)) ∧
   ∀ (s : State) u n (w : Wave) p num seqs sys len work, s.wave? u = some w → w.halted = false → w.split? n = some p →
     p.st = .blocked (.scDrain num seqs sys len work) → s.drained w seqs = true →
     ∃ (t : State) (w' : Wave), exec (.scDrainDone u n) s = .next t ∧ OnlyWave s t u ∧ t.wave? u = some w' ∧
       w'.split? n = some { p with st := .blocked (.scTick sys len num work) })

/-! ### Special values, presentation time, the special-function queue, reservoirs -/

/-- `MOVS` writes the special values of R179; of `fpstat` (R84) it first waits for the special-function requests before it. `TNOW`,
`DLGET`, `SETDL` and `TWAIT` do as R106 to R108 say, and a `TWAIT` whose target PT has reached ends. That the release of a `TWAIT` asked
for before its time changes nothing is the model's choice (log 84). -/
def Obligations.SpecialValuesAndTime : Prop :=
  (∀ (s : State) (e : Enc) (w : Wave) (sp : Split), Issues s .movs e w sp → NoJoin e sp →
    (e.opx = 10 → w.writesDone (issueOf .movs e w sp).sfqBefore = true) →
    ∃ (t : State) (w' : Wave), exec (.movs e) s = .next t ∧ Completed s t w w' sp (passed e sp) ∧ VecResult .movs e w w' sp (destRegs .movs e) ∧
      (e.nw = false → ∀ t < 32, (enabledOf .movs e w sp).getLsbD t = true →
        (e.opx = 0 → w'.vreg e.d.toNat t = BitVec.ofNat 32 (32 * w.idx + t)) ∧
        (e.opx = 1 → w'.vreg e.d.toNat t = BitVec.ofNat 32 w.lane) ∧
        (e.opx = 2 → w'.vreg e.d.toNat t = BitVec.ofNat 32 w.idx) ∧
        (∀ g, s.group? w.group = some g →
          (e.opx = 3 → w'.vreg e.d.toNat t = BitVec.ofNat 32 g.idx) ∧
          (∀ c, s.convoy? g.convoy = some c → e.opx = 4 → w'.vreg e.d.toNat t = BitVec.ofNat 32 c.idx) ∧
          (e.opx = 5 → w'.vreg e.d.toNat t = BitVec.ofNat 32 g.member)) ∧
        (∀ k, s.kernel? w.kernel = some k → e.opx = 6 →
          w'.vreg e.d.toNat t = BitVec.ofNat 10 k.q ++ BitVec.ofNat 22 k.index) ∧
        (e.opx = 7 → w'.vreg e.d.toNat t = BitVec.ofNat 32 sp.segw) ∧
        (e.opx = 8 → w'.vpair e.d.toNat t = s.pt) ∧ (e.opx = 9 → w'.vpair e.d.toNat t = w.dl) ∧
        (e.opx = 10 → w'.vreg e.d.toNat t = (sget 0 w.fp t).setWidth 32))) ∧
  (∀ (s : State) (e : Enc) (w : Wave) (sp : Split), Issues s .tnow e w sp → NoJoin e sp → Enabled .tnow e w sp →
    GivesScalar .tnow e (fun _ => s) w sp true s.pt.toNat (exec (.tnow e) s)) ∧
  (∀ (s : State) (e : Enc) (w : Wave) (sp : Split), Issues s .dlget e w sp → NoJoin e sp → Enabled .dlget e w sp →
    (e.opx = 0 → GivesScalar .dlget e (fun _ => s) w sp true w.dl.toNat (exec (.dlget e) s)) ∧
    (e.opx = 1 → GivesScalar .dlget e (fun _ => s) w sp false w.cls (exec (.dlget e) s))) ∧
  (∀ (s : State) (e : Enc) (w : Wave) (sp : Split), Issues s .setdl e w sp → NoJoin e sp → Enabled .setdl e w sp →
    ∃ (t : State) (w' : Wave), exec (.setdl e) s = .next t ∧ OnlyWave s t w.uid ∧ GoesOn e w sp t w' ∧
      { w' with splits := w.splits, latch := w.latch, dl := w.dl, cls := w.cls } = w ∧
      w'.dl = sp.spair e.a.toNat ∧ w'.cls = max e.opx.toNat w.launchCls) ∧
  (∀ (s : State) (e : Enc) (w : Wave) (sp : Split), Issues s .twait e w sp → NoJoin e sp → Enabled .twait e w sp →
    let target := sp.spair e.a.toNat
    (s.reached target = true → Advances .twait e (fun _ => s) w sp (exec (.twait e) s)) ∧
    (s.reached target = false → WaitsOn (fun _ => s) w sp (.twait target e.form.words) (exec (.twait e) s))) ∧
  ∀ (s : State) u n (w : Wave) p target len, s.wave? u = some w → (s.ctx w.ctx).st = .running → w.split? n = some p →
    p.st = .blocked (.twait target len) → p.stack = [] →
    (s.reached target = true → ∃ (t : State), exec (.twaitRelease u n) s = .next t ∧ Released s t u w p len) ∧
    (s.reached target = false → exec (.twaitRelease u n) s = .next s)

/-- `SFQ` enters a request for every enabled thread when the queue has room for them and waits otherwise (R169, R170); a step of
the queue writes one thread's result and flags; `WAITK` waits for the writes that its mode covers and completes them, or
reports a failure among them (R172, R229). -/
def Obligations.SpecialFunctionQueue : Prop :=
  (∀ (s : State) (e : Enc) (w : Wave) (sp : Split), Issues s .sfq e w sp → NoJoin e sp →
    let i := issueOf .sfq e w sp
    let s1 := issued .sfq e s w sp
    (s1.sfqUsed w.core w.lane + popMask i.en ≤ 256 →
      ∃ (t : State) (w' : Wave) (p : Pend), exec (.sfq e) s = .next t ∧ MemIssued e s t w w' sp ∧ w'.pend = w.pend ++ [p] ∧ t.stores = s.stores ∧
        p.mask = i.en ∧ p.sp = sp.num ∧ p.dst = .vec e.d.toNat 1 ∧ p.wait = .token (e.mod.toNat % 16) ∧
        p.body = .sfq e.opx.toNat ((lanesOf i.en).map fun t =>
          (t, BitVec.ofNat 32 (i.a false t), BitVec.ofNat 32 (i.b false t)))) ∧
    (256 < s1.sfqUsed w.core w.lane + popMask i.en → WaitsOn (fun _ => s) w sp .roomSfq (exec (.sfq e) s))) ∧
  (∀ (s : State) u seq thread (w : Wave) p d n fn args th a b, s.wave? u = some w → w.halted = false → thread < 32 →
    w.pend.find? (fun p => p.seq == seq) = some p → p.mask.getLsbD thread = true → p.dst = .vec d n →
    p.body = .sfq fn args → args.find? (fun a => a.1 == thread) = some (th, a, b) →
    let r := sfqResult fn a.toNat b.toNat
    ∃ (t : State) (w' : Wave) (p' : Pend), exec (.sfqRequestComplete u seq thread) s = .next t ∧ OnlyWave s t u ∧ t.wave? u = some w' ∧
      { w' with v := w.v, badV := w.badV, fp := w.fp, pend := w.pend } = w ∧ w'.vreg d thread = BitVec.ofNat 32 r.bits ∧
      sget 0 w'.fp thread = (sget 0 w.fp thread ||| r.fl) ∧
      (∀ t < 32, ∀ k, k ≠ d ∨ t ≠ thread → w'.vreg k t = w.vreg k t) ∧
      (∀ t, t ≠ thread → sget 0 w'.fp t = sget 0 w.fp t) ∧
      w'.pend.find? (fun p => p.seq == seq) = some p' ∧ p'.mask = p.mask &&& ~~~(1#32 <<< thread)) ∧
  ∀ (s : State) (e : Enc) (w : Wave) (sp : Split), Issues s .waitk e w sp → NoJoin e sp → Enabled .waitk e w sp →
    let l := (issueOf .waitk e w sp).waitkSet
    (w.writesDone l = false → WaitsOn (fun _ => s) w sp (.writes l) (exec (.waitk e) s)) ∧
    (w.writesDone l = true → gathFails w l = [] →
      ∃ (t : State) (w' : Wave), exec (.waitk e) s = .next t ∧ OnlyWave s t w.uid ∧ GoesOn e w sp t w' ∧
        w'.pend = w.pend.filter fun p => !l.contains p.seq) ∧
    (w.writesDone l = true → gathFails w l ≠ [] → ∃ (t1 : State), OnlyWave s t1 w.uid ∧
      exec (.waitk e) s = .next (finish (issueOf .waitk e w sp) (.trap (gathTrap (gathFails w l) (gathAgain w l)) t1)))

/-- `RSVI`, `RSVU`, `RSVM` and `RSVSET` write the four registers of reservoir `D` in the enabled threads: `RSVI` clears them,
`RSVSET` copies them, and `RSVU` counts its candidate (R375, R379-R383). -/
def Obligations.ReservoirInstructionsComplete : Prop :=
  ∀ op ∈ [Op.rsvi, .rsvu, .rsvm, .rsvset], ∀ (s : State) (e : Enc) (w : Wave) (sp : Split), Issues s op e w sp → NoJoin e sp →
    let base := w.regs - 4 * (e.d.toNat + 1)
    let en := enabledOf op e w sp
    ∃ (t : State) (w' : Wave), exec (Instr.ofOp e op) s = .next t ∧ Completed s t w w' sp (passed e sp) ∧ w'.p = w.p ∧ FlagsGrow w w' en ∧
      w'.latch = latchAfter op e w sp ∧
      (∀ t < 32, ∀ r, en.getLsbD t = false ∨ r < base ∨ base + 4 ≤ r → w'.vreg r t = w.vreg r t) ∧
      ∀ t < 32, en.getLsbD t = true →
        (op = .rsvi → ∀ k < 4, w'.vreg (base + k) t = 0) ∧
        (op = .rsvset → ∀ k < 4, w'.vreg (base + k) t = w.vreg (e.a.toNat + k) t) ∧
        (op = .rsvu → (w'.vreg (base + 1) t).toNat = min ((w.vreg (base + 1) t).toNat + 1) 0xFFFFFFFF)

/-! ### Copies and gathers -/

/-- `CPY` and `CPYQ` that none of the traps of R227 stops post an operation on the timeline that their block names, or wait for room there
(R222); the operation completes when its elements are moved or it has failed, and leaves its timeline (R221, R225); a write into a
register waits until its wave can take it (R224). `GATH` leaves an outstanding write of one element per enabled thread (R229), and a step
of a copy engine fetches the element of a thread from memory into its registers. `TLWAIT` completes when the operations up to its target
are complete and none of them failed, waits while some are not, and reports a failure once by its trap (R225, R230); `TLRD` reads the
counts of a timeline (R231). That the step of a held window write changes nothing when none is held is the model's choice (log 84). -/
def Obligations.CopiesGathersAndTimelinesComplete : Prop :=
  ((∀ op ∈ [Op.cpy, .cpyq], ∀ (s : State) (e : Enc) (w : Wave) (sp : Split), Issues s op e w sp → NoJoin e sp → Enabled op e w sp → w.tls.length = 8 →
     let i := issueOf op e w sp
     ∀ e' gr, i.subBlock copyCounts 0 = some e' → s.group? w.group = some gr →
       let g := copyGeo op e' (copySrcs i e')
       copyTrap (issued op e s w sp) i gr e' (copySrcs i e') g = none →
       ((w.tl g.tl).open_.length < 64 → ∃ (t : State) (w' : Wave) (o : EngOp), exec (Instr.ofOp e op) s = .next t ∧ EngPosted e s t w w' sp g.tl o ∧
         o.op = op ∧ o.e = e' ∧ o.srcs = copySrcs i e' ∧ (g.ben = true → o.bar = some g.bar)) ∧
       (64 ≤ (w.tl g.tl).open_.length → WaitsOn (fun _ => s) w sp (.roomTl g.tl) (exec (Instr.ofOp e op) s))) ∧
   (∀ (s : State) id o (w : Wave), s.op? id = some o → o.op = .cpy ∨ o.op = .cpyq → o.failed.isSome = true ∨ o.copySteps ≤ o.prog →
     o.geo.ben = false → (s.ctx o.ctx).st = .running → s.wave? o.wave = some w → o.tl < w.tls.length →
     ∃ (t : State) (w' : Wave), exec (.copyOperationComplete id) s = .next t ∧
       OnlyWave { s with ops := t.ops } t o.wave ∧
       t.ops = (s.ops.filter fun x => x.id != id) ∧ t.wave? o.wave = some w' ∧ { w' with tls := w.tls } = w ∧
       (∀ k, k ≠ o.tl → w'.tl k = w.tl k) ∧ (w'.tl o.tl).posted = (w.tl o.tl).posted ∧
       (w'.tl o.tl).open_ = ((w.tl o.tl).open_.filter fun n => n != o.num) ∧
       (w'.tl o.tl).fails = (w.tl o.tl).fails ++ match o.failed with | some (c, a) => [⟨o.failNo, o.num, c, a⟩] | none => []) ∧
   ∀ (s : State) id o (w : Wave), s.op? id = some o → o.op = .cpy ∨ o.op = .cpyq → s.opReady o = true → o.prog < o.copySteps →
     copyHolds s o = (true, some w) →
     (heldOpen o w = true → exec (.regwinHeldWrite id) s = .next (copyMove s o)) ∧
     (heldOpen o w = false → exec (.regwinHeldWrite id) s = .next s)) ∧
  ((∀ (s : State) (e : Enc) (w : Wave) (sp : Split), Issues s .gath e w sp → NoJoin e sp → Enabled .gath e w sp → ∀ g, s.group? w.group = some g →
     let i := issueOf .gath e w sp
     (gathIssueTrap (issued .gath e s w sp) i g = none →
       ∃ (t : State) (w' : Wave) (p : Pend), exec (.gath e) s = .next t ∧ MemIssued e s t w w' sp ∧ w'.pend = w.pend ++ [p] ∧ t.stores = s.stores ∧
         p.mask = i.en ∧ p.dst = .vec e.d.toNat (destRegs .gath e) ∧ p.wait = .token (e.mod.toNat % 16) ∧
         p.body = .gath (gathAccs (issued .gath e s w sp) i)) ∧
     ∀ ti, gathIssueTrap (issued .gath e s w sp) i g = some ti →
       exec (.gath e) s = .next (finish i (.trap ti (issued .gath e s w sp)))) ∧
   ∀ (s : State) u seq (w : Wave) p accs a g tl pa d n, s.wave? u = some w → w.halted = false → (s.ctx w.ctx).st = .running →
     w.pend.find? (fun p => p.seq == seq) = some p → p.body = .gath accs → p.dst = .vec d n →
     gathNext p accs = some a → a.thread < 32 → a.size = 4 → p.lostAt a.thread = false → s.group? w.group = some g →
     resolve s w.ctx g 0 .load true a.va 4 = some .virt → translate s .io none w.ctx a.va .read (a.data2 == 1) = .ok tl pa →
     tl.host = false → tl.det = false → inDevice pa 4 = true → s.badAt pa 4 = false →
     mayReturn s w p { a with place := .phys pa } = true → (∀ x ∈ s.shadow, x.seq ≠ seq) →
     ∃ (t : State) (w' : Wave) (p' : Pend), exec (.gathReturn u seq) s = .next t ∧
       OnlyWave { s with tlb := t.tlb, counts := t.counts, shadow := t.shadow } t u ∧
       t.wave? u = some w' ∧ { w' with v := w.v, badV := w.badV, pend := w.pend } = w ∧
       w'.vreg d a.thread = BitVec.ofNat 32 (readLe s.mem pa 4) ∧
       (∀ t < 32, ∀ r, r ≠ d ∨ t ≠ a.thread → w'.vreg r t = w.vreg r t) ∧
       w'.pend.find? (fun p => p.seq == seq) = some p' ∧ p'.mask = p.mask &&& ~~~(1#32 <<< a.thread)) ∧
  ((∀ (s : State) (e : Enc) (w : Wave) (sp : Split), Issues s .tlwait e w sp → NoJoin e sp → Enabled .tlwait e w sp →
     let i := issueOf .tlwait e w sp
     let n := (sp.spair e.a.toNat).toNat
     let k := i.sB false % 8
     ((w.tl k).completed < n → WaitsOn (fun _ => s) w sp (.timeline k n) (exec (.tlwait e) s)) ∧
     (n ≤ (w.tl k).completed → (∀ f ∈ (w.tl k).fails, n < f.num) →
       ∃ (t : State) (w' : Wave), exec (.tlwait e) s = .next t ∧ OnlyWave s t w.uid ∧ GoesOn e w sp t w' ∧ OtherSplits w w' sp.num ∧
         w'.latch = latchAfter .tlwait e w sp ∧ { w' with splits := w.splits, latch := w.latch, tls := w.tls } = w ∧ (∀ j, j ≠ k → w'.tl j = w.tl j) ∧
         w'.tl k = { w.tl k with regs := (w.tl k).regs.filter fun x => decide (n < x.1) }) ∧
     (n ≤ (w.tl k).completed → ∀ f, lowestFail ((w.tl k).fails.filter fun f => f.num ≤ n) = some f →
       ∃ (t1 : State) (w1 : Wave), OnlyWave s t1 w.uid ∧ t1.wave? w.uid = some w1 ∧ (∀ f' ∈ (w1.tl k).fails, f'.num ≠ f.num ∧ f' ∈ (w.tl k).fails) ∧
         exec (.tlwait e) s = .next (finish i (.trap
           { cause := f.cause, code := 0, mask := BitVec.ofNat 64 f.num, addr := f.addr, rpl := false, num := true } t1)))) ∧
   ∀ (s : State) (e : Enc) (w : Wave) (sp : Split), Issues s .tlrd e w sp → NoJoin e sp → Enabled .tlrd e w sp →
     let b := (issueOf .tlrd e w sp).sB false
     GivesScalar .tlrd e (fun _ => s) w sp true
       (if b / 8 % 2 = 1 then (w.tl (b % 8)).posted else (w.tl (b % 8)).completed) (exec (.tlrd e) s))

/-! ### Barriers -/

/-- The barrier instructions on an object: `BINIT` prepares it (R285); an arrival counts, and the last one completes the phase (R278,
R279, R286); `BWAIT` and `BARW` wait for the phase (R282); `BXPCT` changes a count (R287), `BDL` the deadline (R288), and `BTEST` reads
(R289). When PT reaches the deadline of a barrier of a running context, its phase completes late, with every record that names it (R280).
That the deadline step changes nothing where no deadline is due is the model's choice (log 84). -/
def Obligations.BarriersComplete : Prop :=
  ((∀ (s : State) (e : Enc) (w : Wave) (sp : Split), Issues s .binit e w sp → NoJoin e sp → Enabled .binit e w sp → ∀ g b,
     let i := issueOf .binit e w sp
     let n := i.sB false
     NamesBarrier s i g b → n ≤ 512 → (b.ready || b.err) = true →
     ∃ (t : State) (w' : Wave), exec (.binit e) s = .next t ∧ Completed { s with groups := t.groups } t w w' sp (passed e sp) ∧
       NoVectorEffect .binit e w w' sp ∧ BarSet s t g.uid i.barNum
         { b with exp := n, hc := n, scp := e.scope - 1, dl := never, inn := 0, out := 0, late := false, err := false }) ∧
   (∀ op ∈ [Op.barv, .barw], ∀ (s : State) (e : Enc) (w : Wave) (sp : Split), Issues s op e w sp → NoJoin e sp → Enabled op e w sp → ∀ g b,
     let i := issueOf op e w sp
     OnBarrier s i g b → i.waited = false → (w.takeRecord e.scope g.uid i.barNum).isSome = true → 0 < b.hc →
     ReleaseDone (issued op e s w sp) w.uid sp.mask →
     ((b.hc ≠ 1 ∨ b.inn ≠ 0 ∨ b.out ≠ 0) →
       ∃ (t : State) (w' : Wave) (p : Split), exec (Instr.ofOp e op) s = .next t ∧ t.wave? w.uid = some w' ∧ SameRegs w w' ∧ w'.split? sp.num = some p ∧
         BarSet s t g.uid i.barNum { b with hc := b.hc - 1 } ∧ t.mem = s.mem ∧ t.stores = s.stores ∧
         (∃ a ∈ w'.arr, a.names e.scope g.uid i.barNum = true ∧ a.complete = false) ∧
         (op = .barv → p = passed e sp) ∧
         (op = .barw → p.pc = sp.pc ∧ p.st = .blocked (.barrier e.scope g.uid i.barNum b.phases true))) ∧
     (b.hc = 1 → b.inn = 0 → b.out = 0 →
       ∃ (t : State) (w' : Wave), exec (Instr.ofOp e op) s = .next t ∧ GoesOn e w sp t w' ∧
         BarSet s t g.uid i.barNum (nextPhase { b with hc := 0 } false) ∧ t.mem = s.mem ∧ t.stores = s.stores ∧
         ∀ x ∈ t.waves, ∀ a ∈ x.arr, a.names e.scope g.uid i.barNum = true → a.complete = true)) ∧
   (∀ op ∈ [Op.bwait, .barw], ∀ (s : State) (e : Enc) (w : Wave) (sp : Split), Issues s op e w sp → NoJoin e sp → Enabled op e w sp →
     (issueOf op e w sp).waited = true → Advances op e (fun _ => s) w sp (exec (Instr.ofOp e op) s)) ∧
   (∀ (s : State) (e : Enc) (w : Wave) (sp : Split), Issues s .bwait e w sp → NoJoin e sp → Enabled .bwait e w sp → ∀ g b,
     let i := issueOf .bwait e w sp
     let r := w.arr.find? fun a => a.names e.scope g.uid i.barNum
     OnBarrier s i g b → i.waited = false →
     (∀ a, r = some a → a.complete = true → Advances .bwait e (fun _ => s) w sp (exec (.bwait e) s)) ∧
     (∀ a, r = some a → a.complete = false →
       WaitsOn (fun _ => s) w sp (.barrier e.scope g.uid i.barNum b.phases true) (exec (.bwait e) s)) ∧
     (r = none → WaitsOn (fun _ => s) w sp (.barrier e.scope g.uid i.barNum b.phases false) (exec (.bwait e) s))) ∧
   (∀ (s : State) (e : Enc) (w : Wave) (sp : Split), Issues s .bxpct e w sp → NoJoin e sp → Enabled .bxpct e w sp → ∀ g b,
     let i := issueOf .bxpct e w sp
     let d := (BitVec.ofNat 32 (i.sB false)).toInt / 4
     OnBarrier s i g b →
     ∀ b', (i.sB false % 4 = 0 ∧ -8192 ≤ b.inn + d ∧ b.inn + d ≤ 8191 ∧ b' = { b with inn := b.inn + d }) ∨
         (i.sB false % 4 = 1 ∧ -8192 ≤ b.out + d ∧ b.out + d ≤ 8191 ∧ b' = { b with out := b.out + d }) ∨
         (i.sB false % 4 = 2 ∧ 0 ≤ b.hc + d ∧ b.exp + d ≤ 512 ∧ b.hc ≤ b.exp ∧
           b' = { b with exp := (b.exp + d).toNat, hc := (b.hc + d).toNat }) →
       (b'.hc ≠ 0 ∨ b'.inn ≠ 0 ∨ b'.out ≠ 0) →
       ∃ (t : State) (w' : Wave), exec (.bxpct e) s = .next t ∧ Completed { s with groups := t.groups } t w w' sp (passed e sp) ∧
         NoVectorEffect .bxpct e w w' sp ∧ BarSet s t g.uid i.barNum b') ∧
   (∀ (s : State) (e : Enc) (w : Wave) (sp : Split), Issues s .bdl e w sp → NoJoin e sp → Enabled .bdl e w sp → ∀ g b,
     let i := issueOf .bdl e w sp
     let v := sp.spair e.b.toNat
     OnBarrier s i g b →
     (s.reached v = false → ∃ (t : State) (w' : Wave), exec (.bdl e) s = .next t ∧
       Completed { s with groups := t.groups } t w w' sp (passed e sp) ∧ NoVectorEffect .bdl e w w' sp ∧
       BarSet s t g.uid i.barNum { b with dl := v }) ∧
     (s.reached v = true → ∃ (t : State) (w' : Wave), exec (.bdl e) s = .next t ∧ GoesOn e w sp t w' ∧
       BarSet s t g.uid i.barNum (nextPhase b true) ∧ t.mem = s.mem)) ∧
   ∀ (s : State) (e : Enc) (w : Wave) (sp : Split), Issues s .btest e w sp → NoJoin e sp → Enabled .btest e w sp → ∀ g b x,
     let i := issueOf .btest e w sp
     OnBarrier s i g b →
     ((i.sB false = 0 ∧ x = ((w.arr.find? fun a => a.names e.scope g.uid i.barNum).map (·.complete)).getD true) ∨
       (i.sB false = 1 ∧ x = b.late) ∨ (i.sB false = 2 ∧ x = (b.gen != i.sA false / 2 ^ 10 % 2 ^ 8))) →
     ∃ (t : State) (w' : Wave), exec (.btest e) s = .next t ∧ Completed s t w w' sp (passed e sp) ∧
       PredResult .btest e w w' sp e.d.toNat sp.mask (if x then 0xFFFFFFFF#32 else 0)) ∧
  (∀ (s : State) g k gr b, s.group? g = some gr → gr.bars[k]? = some b → b.err = true ∨ s.reached b.dl = false →
     exec (.barrierDeadline g k) s = .next s) ∧
  (∀ (s : State) g k gr b, s.group? g = some gr → gr.bars[k]? = some b → b.err = false → s.reached b.dl = true →
     (s.ctx gr.ctx).st = .running →
     ∃ (t : State), exec (.barrierDeadline g k) s = .next t ∧ BarSet s t g k (nextPhase b true) ∧ t.mem = s.mem ∧ t.stores = s.stores ∧
       ∀ x ∈ t.waves, ∀ a ∈ x.arr, a.names (b.scp + 1) g k = true → a.complete = true)

/-! ### Translations and page services -/

/-- `XLATE` leaves one outstanding write of its pair (R251, R252); `PHINT` pins pages within the budget or withdraws requests and changes
nothing else (R253); `TWFLUSH` invalidates the translations of its range and waits for the invalidation (R254). An invalidation drops the
translations of its range at once, and is complete when the accesses that used them are performed: the host, the register or the waiting
split then hears of it (R246, R254, R440). The answers to faults, translations and page requests close what they answer, and the splits
that waited go on or fail (R243, R244, R245). These are the model's choices: a write of `ivgo` during an invalidation is ignored, and a
completion is cached with the rights that it has (log 62); an answer to nothing that is open changes nothing (log 84); and which fault
records are held back (log 98). -/
def Obligations.TranslationsAndInvalidationsComplete : Prop :=
  ((∀ (s : State) (e : Enc) (w : Wave) (sp : Split), Issues s .xlate e w sp → NoJoin e sp →
     (enabledOf .xlate e w sp = 0 → Advances .xlate e (fun _ => s) w sp (exec (.xlate e) s)) ∧
     (Enabled .xlate e w sp → ∃ (t : State) (w' : Wave) (p : Pend), exec (.xlate e) s = .next t ∧
       MemIssued e { s with atsPend := t.atsPend } t w w' sp ∧ w'.pend = w.pend ++ [p] ∧ t.stores = s.stores ∧ p.mask = 1 ∧
       p.dst = .sca e.d.toNat 2 ∧ p.wait = .ld ∧ p.sp = sp.num ∧
       ∃ off, p.body = .xlate (((sp.spair e.a.toNat).toNat + off) % 2 ^ 64) ∧
         (e.bk = .imm → off = (e.imm.signExtend 64).toNat) ∧
         (e.bk = .sca → off = ((sp.sreg e.b.toNat).signExtend 64).toNat))) ∧
   (∀ (s : State) (e : Enc) (w : Wave) (sp : Split), Issues s .phint e w sp → NoJoin e sp →
     let pinned (c : Ctx) : Nat := c.pins.foldl (fun n p => n + p.2) 0
     ∃ (t : State) (w' : Wave), exec (.phint e) s = .next t ∧ Completed { s with ctxs := t.ctxs } t w w' sp (passed e sp) ∧
       NoVectorEffect .phint e w w' sp ∧ (∀ k, k ≠ w.ctx → t.ctx k = s.ctx k) ∧
       { t.ctx w.ctx with pins := (s.ctx w.ctx).pins } = s.ctx w.ctx ∧
       (pinned (s.ctx w.ctx) ≤ (s.ctx w.ctx).pinbud * 2 ^ 20 → pinned (t.ctx w.ctx) ≤ (s.ctx w.ctx).pinbud * 2 ^ 20) ∧
       (e.opx ≠ 0 → ∀ p ∈ (t.ctx w.ctx).pins, p ∈ (s.ctx w.ctx).pins)) ∧
   ∀ (s : State) (e : Enc) (w : Wave) (sp : Split), Issues s .twflush e w sp → Enabled .twflush e w sp →
     let a := (sp.spair e.a.toNat).toNat
     let n := (sp.spair e.b.toNat).toNat
     ∃ (t : State) (w' : Wave) (p : Split) (v : Inval), exec (.twflush e) s = .next t ∧ t.wave? w.uid = some w' ∧ SameRegs w w' ∧ w'.split? sp.num = some p ∧
       p.pc = sp.pc ∧ p.st = .blocked (.inval v.id e.form.words) ∧ t.inval = s.inval ++ [v] ∧ v.ctx = w.ctx ∧
       v.forWhom = .split w.uid sp.num ∧ t.mem = s.mem ∧ t.stores = s.stores ∧
       (n = 0 → v.base = 0 ∧ v.len = 2 ^ 57) ∧ (n ≠ 0 → a + n ≤ 2 ^ 57 → v.base ≤ a ∧ a + n ≤ v.base + v.len) ∧
       ∀ x ∈ t.tlb ++ t.ats, x.ctx = w.ctx → ¬ (x.va < v.base + v.len ∧ v.base < x.va + x.size)) ∧
  ((∀ (s : State) slot va len, slot < 64 →
     ∃ (t : State) (v : Inval), exec (.atsInvalidateRequest slot va len) s = .next t ∧ t.inval = s.inval ++ [v] ∧ v.ctx = slot ∧ v.base = va ∧
       v.len = len ∧ v.forWhom = .host ∧ t.mem = s.mem ∧ t.stores = s.stores ∧
       ∀ x ∈ t.tlb ++ t.ats, x.ctx = slot → ¬ (x.va < va + len ∧ va < x.va + x.size)) ∧
   (∀ (s : State) slot, slot < 64 → s.ctxs.length = 64 →
     ((s.ctx slot).ivgo = 1 → exec (.invalidationStart slot) s = .next s) ∧
     ((s.ctx slot).ivgo ≠ 1 → ∃ (t : State) (v : Inval), exec (.invalidationStart slot) s = .next t ∧ (t.ctx slot).ivgo = 1 ∧
       t.inval = s.inval ++ [v] ∧ v.ctx = slot ∧ v.base = (s.ctx slot).ivbase.toNat ∧ v.len = (s.ctx slot).ivlen.toNat ∧
       v.forWhom = .page ∧ t.mem = s.mem)) ∧
   ∀ (s : State) id v, s.inval.find? (fun x => x.id == id) = some v →
     (s.stillOpen v.after = true → exec (.invalidationComplete id) s = .next s) ∧
     (s.stillOpen v.after = false →
       (v.forWhom = .host → ∃ (t : State), exec (.invalidationComplete id) s = .next t ∧ t.out = s.out ++ [.invalidated v.ctx v.base v.len] ∧
         { t with out := s.out, inval := s.inval } = s) ∧
       (v.forWhom = .page → v.ctx < s.ctxs.length → ∃ (t : State), exec (.invalidationComplete id) s = .next t ∧
         (t.ctx v.ctx).ivgo = 0 ∧ { t with ctxs := s.ctxs, inval := s.inval } = s) ∧
       ∀ u n w p len, v.forWhom = .split u n → s.wave? u = some w → w.split? n = some p → p.st = .blocked (.inval id len) →
         p.stack = [] → ∃ (t : State), exec (.invalidationComplete id) s = .next t ∧ Released { s with inval := t.inval } t u w p len ∧
           ∀ x ∈ t.inval, x.id ≠ id)) ∧
  ((∀ (i : Instr) ok s slot seq r, (i = .faultResponseRetry slot seq ∧ ok = true) ∨ (i = .faultResponseFail slot seq ∧ ok = false) →
     slot < 64 → s.ctxs.length = 64 → NoneWait s slot → (s.ctx slot).fseq.toNat = seq →
     (s.ctx slot).frOpen.find? (fun r => r.seq == seq && r.written) = some r →
     ∃ (t : State), exec i s = .next t ∧ (∀ x ∈ (t.ctx slot).frOpen, x.seq ≠ seq) ∧ (t.ctx slot).fseq = (s.ctx slot).fseq ∧
       t.mem = s.mem ∧ SplitsWake s t slot (fun k => k == .record seq) ok) ∧
   (∀ (s : State) slot seq, (s.ctx slot).fseq.toNat ≠ seq ∨ ((s.ctx slot).frOpen.find? fun r => r.seq == seq && r.written) = none →
     exec (.faultResponseRetry slot seq) s = .next s ∧ exec (.faultResponseFail slot seq) s = .next s) ∧
   (∀ (s : State) slot va ans r, (s.atsPend.find? fun x => x.ctx == slot && x.va == va / 4096 * 4096) = some r →
     (r.stale = true → exec (.atsTranslationCompletion slot va ans) s = .next { s with atsPend := s.atsPend.erase r }) ∧
     (r.stale = false → r.outdated (atsSpan ans (va / 4096 * 4096)) = true →
       ∃ (t : State), exec (.atsTranslationCompletion slot va ans) s = .next t ∧ { t with atsPend := s.atsPend } = s ∧
         t.atsPend.any (fun x => x.ctx == slot && x.va == va / 4096 * 4096 && !x.stale) = true)) ∧
   (∀ (s : State) slot va ans r, NoneWait s slot → (s.atsPend.find? fun x => x.ctx == slot && x.va == va / 4096 * 4096) = some r →
     r.stale = false → (∀ i ∈ r.since, i.1 + i.2 ≤ (atsSpan ans (va / 4096 * 4096)).1 ∨
       (atsSpan ans (va / 4096 * 4096)).1 + (atsSpan ans (va / 4096 * 4096)).2 ≤ i.1) →
     let page := va / 4096 * 4096
     ∃ (t : State) (x : Tlb), exec (.atsTranslationCompletion slot va ans) s = .next t ∧ t.ats = x :: s.ats ∧ x.ctx = slot ∧ x.host = true ∧
       x.size = 2 ^ max 12 ans.logSize ∧ x.va ≤ page ∧ page < x.va + x.size ∧ x.grant.getLsbD 0 = ans.read ∧
       x.grant.getLsbD 1 = ans.write ∧ x.grant.getLsbD 2 = ans.exec ∧ t.atsPend = s.atsPend.erase r ∧ t.mem = s.mem ∧
       SplitsWake s t slot (fun k => k == .ats page) true) ∧
   (∀ (i : Instr) ok s slot va, (i = .prgResponseSuccess slot va ∧ ok = true) ∨ (i = .prgResponseInvalidRequest slot va ∧ ok = false) →
     NoneWait s slot → s.priSent slot va = true →
     ∃ (t : State), exec i s = .next t ∧ (∀ r ∈ t.pri, ¬ (r.ctx = slot ∧ r.va = va / 4096 * 4096)) ∧ t.mem = s.mem ∧
       SplitsWake s t slot (fun k => k == .pri (va / 4096 * 4096)) ok) ∧
   (∀ (s : State) slot va, (∀ c, NoneWait s c) → s.priSent slot va = true →
     ∃ (t : State), exec (.prgResponseFailure slot va) s = .next t ∧ t.pri = [] ∧ t.priOff = true ∧ t.mem = s.mem ∧
       ∀ r ∈ s.pri, SplitsWake s t r.ctx (fun k => k == .pri (r.va / 4096 * 4096)) false) ∧
   (∀ (s : State) alloc, exec (.priReenable alloc) s = .next { s with priOff := false, priAlloc := alloc }) ∧
   (∀ (s : State) r, s.priOff = false → (s.pri.filter (·.sent)).length < s.priAlloc → s.pri.find? (fun r => !r.sent) = some r →
     ∃ (t : State), exec .priRequestRelease s = .next t ∧ { r with sent := true } ∈ t.pri ∧ { t with pri := s.pri } = s) ∧
   ∀ (s : State) slot r, slot < s.ctxs.length → (s.ctx slot).frOpen.find? (fun r => !r.written) = some r →
     (s.ctx slot).ringRoom r.seq = true →
     let a := (s.ctx slot).fring + 32 * ((r.seq - 1) % 2 ^ (s.ctx slot).frlog)
     ∃ (t : State), exec (.faultRecordDeferred slot) s = .next t ∧ (∀ k, k < a ∨ a + 32 ≤ k → byteAt t.mem k = byteAt s.mem k) ∧
       readLe t.mem a 8 = r.va % 2 ^ 64 ∧ readLe t.mem (a + 24) 8 = r.seq % 2 ^ 64 ∧ 2 * slot ∈ t.msix ∧
       (∀ x ∈ (t.ctx slot).frOpen, x.seq = r.seq → x.written = true))

/-- A placement epoch ends when PT reaches it (R248): the wishes of its pool's pages are those that this epoch calls for; a migration
starts for a page that its counts call for, to a free frame, and commits by copying the page and replacing its leaf, or is abandoned when
the leaf has changed (R249). -/
def Obligations.PlacementAndMigration : Prop :=
  (∀ (s : State) pool, pool < 16 → pool < s.epochs.length → (s.pool pool).2.2 ≠ 0 → s.reached (s.epochs.getD pool 0) = true →
    ∃ (t : State), exec (.placementEpoch pool) s = .next t ∧ { t with wishes := s.wishes, counts := s.counts, epochs := s.epochs } = s ∧
      t.epochs.getD pool 0 = ptAdd s.pt (BitVec.ofNat 64 (1000 * (s.pool pool).2.2)) ∧
      (∀ x ∈ s.wishes, ∀ k, s.poolOf x.1 x.2.1 = some k → k ≠ pool → x ∈ t.wishes) ∧
      (∀ c va up, (c, va, up) ∈ t.wishes → s.poolOf c va = some pool → ∃ x ∈ s.allCounts, x.ctx = c ∧ x.va = va ∧ s.callsFor pool x = some up) ∧
      ∀ x ∈ s.allCounts, ∀ up, s.poolOf x.ctx x.va = some pool → s.callsFor pool x = some up → (x.ctx, x.va, up) ∈ t.wishes) ∧
  (∀ (s : State) slot va frame lvl pa e, leafAt s va 4 (s.ctx slot).ptroot = some (lvl, pa, e) →
    let size := 2 ^ leafLog e
    let base := va / size * size
    let old := leafFrame e (leafLog e)
    s.wished slot base (!inDevice old 1) e = true → e.getLsbD 9 = false → e.getLsbD 10 = false → s.isMigrating slot va = false →
    (inDevice old 1 = true → s.badAt old size = false ∧ Config.framesShort s.freeGrant = true ∧ s.holdsTable old size = false) →
    frameTaken s.retired old size = false →
    s.frameFree (!inDevice old 1) frame size = true →
    ∃ (t : State) (m : Migration), exec (.migrationStart slot va frame) s = .next t ∧ t.migrating = s.migrating ++ [m] ∧ m.ctx = slot ∧ m.va = base ∧
      m.size = size ∧ m.old = e ∧ t.isMigrating slot va = true ∧ t.mem = s.mem ∧ t.waves = s.waves) ∧
  ∀ (s : State) slot va m, s.migrating.find? (fun m => m.ctx == slot && m.va == va) = some m → NoneWait s slot →
    s.stillOpen (s.oldAccesses slot m.va m.size) = false →
    let old := leafFrame m.old (leafLog m.old)
    let new := leafFrame m.new (leafLog m.new)
    (MemInv s → s.phys64 m.entry = m.old → m.size = 4096 → inDevice old 4096 = true → inDevice new 4096 = true →
      ∃ (t : State), exec (.migrationCommit slot va) s = .next t ∧ t.phys64 m.entry = m.new ∧
        (∀ k < 4096, new + k < m.entry ∨ m.entry + 8 ≤ new + k → byteAt t.mem (new + k) = byteAt s.mem (old + k)) ∧
        (∀ a, (a < new ∨ new + 4096 ≤ a) → (a < m.entry ∨ m.entry + 8 ≤ a) → byteAt t.mem a = byteAt s.mem a) ∧
        (∀ x ∈ t.tlb, x.ctx = slot → ¬ (x.va < m.va + 4096 ∧ m.va < x.va + x.size)) ∧
        SplitsWake s t slot (fun k => match k with | .migrating p => decide (m.va ≤ p) && decide (p < m.va + m.size) | _ => false) true) ∧
    (s.phys64 m.entry ≠ m.old → ∃ (t : State), exec (.migrationCommit slot va) s = .next t ∧ t.mem = s.mem ∧
      (∀ x ∈ t.migrating, x ∈ s.migrating ∧ x ≠ m))

/-! ### Groups and convoys -/

/-- `ACQ` completes when its group has its grant, takes what a convoy reserved at once, and otherwise queues its request and
waits (R272); a core grants the oldest request that its pools have room for (R259); `GREL` gives up what lies above its targets,
or waits for the accesses there (R273). A convoy is reserved where its first place is (R263, R264), commits with every group and
wave at one instant (R112, R262), its waves leave as they exit (R113, R261), and it retires when nothing of its groups is
outstanding (R263). -/
def Obligations.GrantsAndConvoysComplete : Prop :=
  ((∀ (s : State) (e : Enc) (w : Wave) (sp : Split), Issues s .acq e w sp → NoJoin e sp → Enabled .acq e w sp → ∀ g, s.group? w.group = some g →
     (g.granted = true → Advances .acq e (fun _ => s) w sp (exec (.acq e) s)) ∧
     (g.granted = false → g.reservedAll = true → ∃ (t : State) (w' : Wave) (g' : Group), exec (.acq e) s = .next t ∧ t.wave? w.uid = some w' ∧
       w'.split? sp.num = some (passed e sp) ∧ SameRegs w w' ∧ w'.regs = max w.regs w.target ∧
       t.group? w.group = some g' ∧ g'.granted = true ∧ g'.scratch = max g.scratch g.scratchTarget ∧ t.mem = s.mem) ∧
     (g.granted = false → g.reservedAll = false →
       WaitsOn (fun t => { s with acqQ := t.acqQ }) w sp .grant (exec (.acq e) s) ∧
       ∀ t, exec (.acq e) s = .next t → ∃ r ∈ t.acqQ, r.group = g.uid)) ∧
   (∀ (s : State) core r g, s.acqQ.find? (fun r => r.core == core && (s.ctx r.ctx).st == .running) = some r → s.group? r.group = some g →
     s.grantRoom g = true →
     ∃ (t : State) (g' : Group), exec (.acqGrant core) s = .next t ∧ t.group? g.uid = some g' ∧ g'.granted = true ∧ (∀ x ∈ t.acqQ, x.group ≠ g.uid) ∧
       ∀ u w, s.wave? u = some w → ∃ (w' : Wave), t.wave? u = some w' ∧ { w' with regs := w.regs } = w ∧
         w'.regs = if w.group = g.uid ∧ w.exited = false then max w.regs w.target else w.regs) ∧
   (∀ (s : State) (e : Enc) (w : Wave) (sp : Split), Issues s .grel e w sp → NoJoin e sp → Enabled .grel e w sp → ∀ g, s.group? w.group = some g →
     let i := issueOf .grel e w sp
     let r := max 8 (ceilTo (i.sA false) 8)
     let n := ceilTo (i.sB false) 16
     w.clearAbove r = true → s.writesAbove g.uid n = false →
     ∃ (t : State) (w' : Wave) (g' : Group), exec (.grel e) s = .next t ∧ t.wave? w.uid = some w' ∧ w'.split? sp.num = some (passed e sp) ∧
       w'.regs = min w.regs r ∧ (∀ k < r, ∀ t < 32, w'.vreg k t = w.vreg k t) ∧ w'.p = w.p ∧ w'.fp = w.fp ∧
       t.group? w.group = some g' ∧ g'.scratch = min g.scratch n ∧ (∀ k < n, byteAt g'.mem k = byteAt g.mem k) ∧ t.mem = s.mem) ∧
   ∀ (s : State) u n (w : Wave) p g r b len, s.wave? u = some w → w.split? n = some p → s.group? w.group = some g → ∀ was, p.st = .blocked (.grel r b len was) →
     w.halted = false → p.stack = [] → w.clearAbove r = true → s.writesAbove g.uid b = false →
     ∃ (t : State) (w' : Wave) (g' : Group), exec (.grelComplete u n) s = .next t ∧ t.wave? u = some w' ∧ w'.regs = min w.regs r ∧
       (∃ (p' : Split), w'.split? n = some p' ∧ p'.st = .ready ∧ p'.pc = p.pc + BitVec.ofNat 64 (4 * len)) ∧
       t.group? w.group = some g' ∧ g'.scratch = min g.scratch b) ∧
  ((∀ (s : State) part c k, s.convoys.find? (fun c => c.st == .reserving && (s.ctx c.ctx).part == part && (s.ctx c.ctx).st == .running) = some c →
     s.kernel? c.kernel = some k →
     ∃ (t : State), exec (.convoyReserve part) s = .next t ∧ t.mem = s.mem ∧ (∀ x ∈ t.convoys, x.uid = c.uid → x.st = .resident) ∧
       (∀ x ∈ t.groups, x.uid ∈ c.groups → x.st = .running ∧ x.commitPT = s.pt ∧ x.bars.length = k.bars) ∧
       (∀ x ∈ s.waves, x ∈ t.waves) ∧
       ∀ x ∈ t.waves, x ∉ s.waves → x.kernel = k.uid ∧ x.v = [] ∧ x.p = [] ∧ x.regs = k.pregs ∧ x.trap = none ∧
         ∃ (p : Split), x.splits = [p] ∧ p.num = 0 ∧ p.pc = k.code ∧ p.st = .ready ∧ p.segw = k.segw) ∧
   (∀ (s : State) part k plan, (s.convoys.find? fun c => c.st == .reserving && (s.ctx c.ctx).part == part && (s.ctx c.ctx).st == .running) = none →
     s.launchOrder part = [k] → k.passed = false →
     let k' := { s.beforeConvoy k part with passed := true }
     let s' := s.modKernel k.uid fun _ => k'
     k'.st = 2 → (s'.diesFor k' part).findSome? (fun d => s'.placeOnDie k' part d) = some plan →
     ∃ (t : State) (c : Convoy), exec (.convoyReserve part) s = .next t ∧ t.convoys = s.convoys ++ [c] ∧ c.st = .reserving ∧ c.kernel = k'.uid ∧
       c.groups.length = plan.length ∧ t.waves = s.waves ∧ t.mem = s.mem) ∧
   (∀ (s : State) u (w : Wave), s.wave? u = some w → w.exited = true → (∀ p ∈ w.pend, p.mask = 0) →
     ∃ (t : State), exec (.waveFree u) s = .next t ∧ t.wave? u = none ∧ (∀ k, k ≠ u → t.wave? k = s.wave? k) ∧ t.mem = s.mem ∧
       t.stores = s.stores ∧ t.convoys = s.convoys) ∧
   ∀ (s : State) u c k, s.convoy? u = some c → c.st = .resident → (s.ctx c.ctx).st ≠ .swapped → (∀ g ∈ s.members u, g.st = .done) →
     s.convoyBusy c = false → s.kernel? c.kernel = some k →
     ∃ (t : State) (k' : Kernel), exec (.convoyRetire u) s = .next t ∧ t.convoy? u = none ∧ (∀ g ∈ t.groups, g.uid ∉ c.groups) ∧
       t.kernel? c.kernel = some k' ∧ k'.retired = k.retired + 1 ∧ t.mem = s.mem ∧ t.waves = s.waves)

/-! ### Kernels and queues -/

/-- A command posted to a queue: the issuing split goes on, queues change, and splits that wait for a queue's state may go on. -/
def PostsCommand (op : Op) (e : Enc) (s t : State) (w w' : Wave) (sp : Split) : Prop :=
  OnlyQueues (issued op e s w sp) t ∧ GoesOn e w sp t w'

/-- `QPOST` applies a command to a queue of the issuing context (R310, R320); `QWAIT` completes in the state or at the count that it names
and waits otherwise (R321); `QSTAT` and `KSTAT` read (R301, R322). The host's commands and the binding of queues (R302, R310, R439): a
DOORBELL raises `WR`, a RESUME skips to its index, DISABLE stops the queue; binding takes a well-formed descriptor, unbinding writes it
back; an idle queue is evicted and a parked one is cached again (R318). These are the model's choices: a `QWAIT` whose condition was met
stays met until its split issues (log 42); a command on a queue that is not bound changes nothing (log 84); and what binding a bound
queue, binding past the 64 cached and unbinding a running one do (log 103). -/
def Obligations.QueueInstructionsAndCommandsComplete : Prop :=
  ((∀ (s : State) (e : Enc) (w : Wave) (sp : Split), Issues s .qpost e w sp → NoJoin e sp → Enabled .qpost e w sp → ∀ q,
     let i := issueOf .qpost e w sp
     let cmd := sp.spair e.b.toNat
     let index := cmd.toNat % 2 ^ 61
     i.queueOf? s (i.sA false) = some q → q.onChip = true → ReleaseDone (issued .qpost e s w sp) w.uid sp.mask →
     (cmd.toNat < 2 ^ 61 → index ≤ q.rd + 2 ^ q.logn → ∃ (t : State) (w' : Wave) (q' : Queue), exec (.qpost e) s = .next t ∧
       PostsCommand .qpost e s t w w' sp ∧
       t.queue? q.num = some q' ∧ q'.wr = max q.wr index ∧ q'.rd = q.rd ∧ q'.done = q.done ∧
       q'.st = if q.st = 0 ∧ q.rd < max q.wr index then 1 else q.st) ∧
     (cmd.toNat < 2 ^ 61 → q.rd + 2 ^ q.logn < index → q.st < 3 → ∃ (t : State) (w' : Wave) (q' : Queue), exec (.qpost e) s = .next t ∧
       PostsCommand .qpost e s t w w' sp ∧
       t.queue? q.num = some q' ∧ q'.st = 3 ∧ q'.ecause = 4 ∧ q'.eslot = index % 2 ^ q.logn ∧ q'.wr = q.wr) ∧
     (cmd.toNat = 2 * 2 ^ 61 → ∃ (t : State) (w' : Wave) (q' : Queue), exec (.qpost e) s = .next t ∧
       PostsCommand .qpost e s t w w' sp ∧
       t.queue? q.num = some q' ∧ q'.st = 4 ∧ q'.rd = q.rd ∧ q'.wr = q.wr)) ∧
   (∀ op ∈ [Op.qpost, .qwait, .qstat], ∀ (s : State) (e : Enc) (w : Wave) (sp : Split), Issues s op e w sp → Enabled op e w sp →
     let i := issueOf op e w sp
     i.queueOf? s (if op = .qpost then i.sA false else i.sB false) = none →
     exec (Instr.ofOp e op) s = .next (finish i (.trap (i.plainTrap .space) (issued op e s w sp)))) ∧
   (∀ (s : State) (e : Enc) (w : Wave) (sp : Split), Issues s .qwait e w sp → NoJoin e sp → Enabled .qwait e w sp → ∀ q,
     let i := issueOf .qwait e w sp
     i.queueOf? s (i.sB false) = some q →
     (e.opx = 0 → i.sA false % 8 ≤ 4 →
       (q.st = i.sA false % 8 ∨ sp.st = .blocked .over → Advances .qwait e (fun _ => s) w sp (exec (.qwait e) s)) ∧
       (q.st ≠ i.sA false % 8 → sp.st ≠ .blocked .over → WaitsOn (fun _ => s) w sp (.queueState q.num (i.sA false % 8)) (exec (.qwait e) s))) ∧
     (e.opx = 1 → ((sp.spair e.a.toNat).toNat ≤ q.done → Advances .qwait e (fun _ => s) w sp (exec (.qwait e) s)) ∧
       (q.done < (sp.spair e.a.toNat).toNat →
         WaitsOn (fun _ => s) w sp (.queueDone q.num (sp.spair e.a.toNat).toNat) (exec (.qwait e) s)))) ∧
   (∀ (s : State) (e : Enc) (w : Wave) (sp : Split), Issues s .qstat e w sp → NoJoin e sp → Enabled .qstat e w sp → ∀ q,
     let i := issueOf .qstat e w sp
     i.queueOf? s (i.sB false) = some q →
     GivesScalar .qstat e (fun _ => s) w sp (decide (e.opx = 1 ∨ e.opx = 2 ∨ e.opx = 3))
       (if e.opx = 0 then q.st + (if q.onChip then 0 else 8) else if e.opx = 1 then q.rd else if e.opx = 2 then q.wr
        else if e.opx = 3 then q.done else q.ecause * 2 ^ 24 + q.eslot % 2 ^ 16) (exec (.qstat e) s)) ∧
   ∀ (s : State) (e : Enc) (w : Wave) (sp : Split), Issues s .kstat e w sp → NoJoin e sp → Enabled .kstat e w sp →
     let i := issueOf .kstat e w sp
     let r := (sp.spair e.b.toNat).toNat
     let live := s.kernels.find? fun k => k.ctx == w.ctx && decide (k.st < 5) && k.recA.toNat == r
     (∀ k, live = some k → GivesScalar .kstat e (fun _ => s) w sp false
       (if e.opx = 0 then k.st else if e.opx = 1 then k.gdone else if e.opx = 2 then k.shed.length * k.conv
        else if i.sA false < k.shedWords then (k.shedWord (i.sA false)).toNat else 0) (exec (.kstat e) s)) ∧
     (live = none → r < 2 ^ 57 → r % 64 = 0 → ReleaseDone (issued .kstat e s w sp) w.uid sp.mask →
       ∀ tl pa, translate s .io none w.ctx r .read (s.waveSup w) = .ok tl pa → tl.host = false → inDevice pa 16 = true →
         s.badAt pa 16 = false →
       let x := readLe s.mem pa 16
       let base (t : State) : State := { s with tlb := t.tlb, counts := t.counts }
       (x % 256 ≠ 5 → e.opx ≠ 3 → GivesScalar .kstat e base w sp false (if e.opx = 0 then 7 else 0) (exec (.kstat e) s)) ∧
       (x % 256 = 5 → e.opx = 0 → GivesScalar .kstat e base w sp false 5 (exec (.kstat e) s)) ∧
       (x % 256 = 5 → e.opx = 1 → GivesScalar .kstat e base w sp false (x / 2 ^ 64 % 2 ^ 32) (exec (.kstat e) s)) ∧
       (x % 256 = 5 → e.opx = 2 → GivesScalar .kstat e base w sp false (x / 2 ^ 96) (exec (.kstat e) s)) ∧
       (e.opx = 3 → ∀ tl' pa', let va := r + 32 + 4 * i.sA false
         va + 4 ≤ 2 ^ 57 → translate (s.fill tl) .io none w.ctx va .read (s.waveSup w) = .ok tl' pa' → tl'.host = false →
         inDevice pa' 4 = true → s.badAt pa' 4 = false →
         GivesScalar .kstat e base w sp false (if x % 256 = 5 then readLe s.mem pa' 4 else 0) (exec (.kstat e) s)))) ∧
  ((∀ (s : State) q x, s.queue? q = some x → x.onChip = true →
     (∀ index < 2 ^ 61, index ≤ x.rd + 2 ^ x.logn → ∃ (t : State) (x' : Queue), exec (.queueDoorbell q index) s = .next t ∧
       OnlyQueues s t ∧ (∀ k, k ≠ q → t.queue? k = s.queue? k) ∧ t.queue? q = some x' ∧
       x'.wr = max x.wr index ∧ x'.rd = x.rd ∧ x'.st = if x.st = 0 ∧ x.wr < index then 1 else x.st) ∧
     (∀ index < 2 ^ 61, x.st = 3 ∨ x.st = 4 → x.rd ≤ index → index ≤ x.wr → ∃ (t : State) (x' : Queue), exec (.queueResume q index) s = .next t ∧
       t.queue? q = some x' ∧ x'.rd = index ∧ x'.st < 3 ∧ x'.parkedOn = none ∧ t.mem = s.mem ∧ WavesKeep s t) ∧
     ∃ (t : State) (x' : Queue), exec (.queueDisable q) s = .next t ∧ OnlyQueues s t ∧ t.queue? q = some x' ∧ x'.st = 4) ∧
   (∀ (s : State) q index, s.queue? q = none → exec (.queueDoorbell q index) s = .next s ∧ exec (.queueResume q index) s = .next s ∧
     exec (.queueDisable q) s = .next s) ∧
   (∀ (s : State) (v : DWord), v.getLsbD 31 = false → s.queue? (v.toNat % 2 ^ 10) = none → inDevice s.mgmt.qdesc 64 = true → s.badAt s.mgmt.qdesc 64 = false →
     let d := readLe s.mem s.mgmt.qdesc 64
     (descriptorBad d = false → (s.ctx (pktField d 44 4 / 2 ^ 8 % 2 ^ 6)).st ≠ .empty →
       ∃ (t : State) (x : Queue), exec (.queueBind v) s = .next t ∧ OnlyQueues s t ∧ t.queues = s.queues ++ [x] ∧ x.num = v.toNat % 2 ^ 10 ∧
         x.ring = pktField d 0 8 ∧ x.rd = pktField d 16 8 ∧ x.wr = pktField d 24 8 ∧ x.done = pktField d 32 8 ∧
         x.desc = s.mgmt.qdesc ∧ x.onChip = decide (s.cached.length < 64)) ∧
     (descriptorBad d = true → exec (.queueBind v) s = .next s)) ∧
   (∀ (s : State) (v : DWord) x, v.getLsbD 31 = true → s.queue? (v.toNat % 2 ^ 10) = some x → ∃ (t : State), exec (.queueUnbind v) s = .next t ∧
     t.queue? (v.toNat % 2 ^ 10) = none ∧ (∀ k, k ≠ v.toNat % 2 ^ 10 → t.queue? k = s.queue? k) ∧ readLe t.mem x.desc 64 = x.descriptor % 2 ^ 512 ∧
     ∀ a, a < x.desc ∨ x.desc + 64 ≤ a → byteAt t.mem a = byteAt s.mem a) ∧
   (∀ (s : State) q x, s.queue? q = some x → s.evictable x = true → 64 ≤ s.cached.length →
     (∀ y ∈ s.cached, s.evictable y = true → x.used ≤ y.used) →
     ∃ (t : State) (x' : Queue), exec (.queueEvict q) s = .next t ∧ t.queue? q = some x' ∧ x' = { x with onChip := false, parkedOn := none } ∧
       readLe t.mem x.desc 64 = x.descriptor % 2 ^ 512) ∧
   (∀ (s : State) q x, s.queue? q = some x → x.onChip = false → s.cached.length < 64 →
     ∃ (t : State) (x' : Queue), exec (.queueReload q) s = .next t ∧ t.queue? q = some x' ∧ x'.onChip = true ∧ x.wr ≤ x'.wr ∧
       (∀ y ∈ t.parkBuf, y.1 ≠ q) ∧ (∀ y ∈ t.bellMap, y.1 ≠ q) ∧ t.mem = s.mem) ∧
   ∀ (s : State) q x since p s', s.queue? q = some x → x.idleSince = some since → x.idle10 = false → x.st = 1 →
     since.toNat + 10000 ≤ s.pt.toNat → s.cpRead x.ctx (slotOf x.ring x.logn x.rd) 64 = .ok (p, s') →
     headerOk x (pktField p 0 4) = false →
     ∃ (t : State), exec (.headHeaderTimeout q) s = .next t ∧ { t with queues := s.queues } = s ∧ t.queue? q = some { x with idle10 := true })

/-- The command processor takes an accepted head packet in ring order (R308, R309), puts a queue whose head is malformed in ERROR
(R311, R312), and runs what it took (R306): `LAUNCH` makes a kernel, `COPY` a copy, `SIGNAL` writes its word, and a `WAIT`
completes when its condition holds (R309). -/
def Obligations.PacketsComplete : Prop :=
  (∀ (s : State) n q p s', s.queue? n = some q → s.mayDispatch q = true → q.parkedOn = none →
    s.cpRead q.ctx (slotOf q.ring q.logn q.rd) 64 = .ok (p, s') →
    let h := pktField p 0 4
    (headerOk q h = true → h / 2 ^ 20 % 16 = 0 → s.itable.length ≤ 512 →
      (s'.packetCause q p 0 = 0 → h / 2 ^ 26 ≠ 0 → ∃ (t : State) (q' : Queue) (pk : RPkt), exec (.packetDispatch n) s = .next t ∧ t.queue? n = some q' ∧
        q'.rd = q.rd + 1 ∧ q'.wr = q.wr ∧ q'.running = q.running ++ [pk] ∧ pk.index = q.rd ∧ pk.ty = h / 2 ^ 26 ∧ pk.body = p ∧
        pk.started = false ∧ t.mem = s.mem ∧ WavesKeep s t) ∧
      (s'.packetCause q p 0 ≠ 0 → ∃ (t : State) (q' : Queue), exec (.packetDispatch n) s = .next t ∧ t.queue? n = some q' ∧ q'.st = 3 ∧
        q'.ecause = s'.packetCause q p 0 ∧ q'.rd = q.rd ∧ q'.running = q.running ∧ t.mem = s.mem)) ∧
    (headerOk q h = false → q.idleSince = none → ∃ (t : State), exec (.packetDispatch n) s = .next t ∧
      t.queue? n = some { q with idleSince := some s'.pt } ∧ t.mem = s.mem)) ∧
  (∀ (s : State) n index q p, s.waitingPacket n index 1 = some (q, p) → ∃ (t : State) (k : Kernel), exec (.packetLaunch n index) s = .next t ∧
    t.kernels = s.kernels ++ [k] ∧ k.st = 0 ∧ k.ctx = q.ctx ∧ k.q = n ∧ k.index = index ∧
    k.code.toNat = pktField p.body 16 8 ∧ k.gthr = pktField p.body 4 4 % 2 ^ 11 + 1 ∧ k.nx = pktField p.body 24 4 ∧
    k.regs = 8 * (pktField p.body 8 4 / 2 ^ 27 % 2 ^ 5) ∧ t.waves = s.waves ∧ t.mem = s.mem ∧
    ∀ x, t.packet? n index = some x → x.started = true) ∧
  (∀ (s : State) n index q p, s.waitingPacket n index 2 = some (q, p) → s.heldPacket q p = false →
    ∃ (t : State) (c : PktCopy), exec (.packetCopy n index) s = .next t ∧ t.pktCopies = s.pktCopies ++ [c] ∧ c.src = pktField p.body 8 8 ∧
      c.dst = pktField p.body 16 8 ∧ c.len = pktField p.body 24 8 ∧ c.prog = 0 ∧ c.failed = false ∧ t.mem = s.mem) ∧
  (∀ (s : State) id c q, s.pktCopies.find? (fun c => c.id == id) = some c → s.queue? c.q = some q →
    (c.failed = false → c.len ≤ c.prog → ∃ (t : State), exec (.copyPacketComplete id) s = .next t ∧
      t.queue? c.q = some (q.complete c.index) ∧ (∀ x ∈ t.pktCopies, x.id ≠ id) ∧ t.mem = s.mem) ∧
    (c.failed = true → ∃ (t : State), exec (.copyPacketComplete id) s = .next t ∧
      t.queue? c.q = some ((q.error 6 c.index).complete c.index) ∧ t.mem = s.mem)) ∧
  (∀ (s : State) n index q p tl pa, s.waitingPacket n index 3 = some (q, p) → s.heldPacket q p = false → p.parked ≠ some .failed →
    let add := pktField p.body 4 4 % 4 = 1
    s.agentReach q.ctx (s.ctx q.ctx).ksup (if pktField p.body 4 4 % 4 = 1 then .rmw else .write) (pktField p.body 8 8) 8 =
      .ok (.phys pa, tl) →
    ∃ (t : State) (q' : Queue), exec (.packetSignal n index) s = .next t ∧
      readLe t.mem pa 8 = ((if add then readLe s.mem pa 8 else 0) + pktField p.body 16 8) % 2 ^ 64 ∧
      (∀ a, a < pa ∨ pa + 8 ≤ a → byteAt t.mem a = byteAt s.mem a) ∧ t.hostMem = s.hostMem ∧
      t.queue? n = some q' ∧ q' = q.complete index ∧
      (pktField p.body 4 4 / 4 % 2 = 1 → 2 * q.ctx + 1 ∈ t.msix)) ∧
  (∀ (s : State) n index q p, s.waitingPacket n index 4 = some (q, p) → s.heldPacket q p = false →
    pktField p.body 4 4 % 4 = 3 →
    (s.reached (BitVec.ofNat 64 (pktField p.body 16 8)) = true → ∃ (t : State), exec (.packetWait n index) s = .next t ∧
      t.queue? n = some (q.complete index) ∧ t.mem = s.mem) ∧
    (s.reached (BitVec.ofNat 64 (pktField p.body 16 8)) = false → q.st = 1 → ∃ (t : State) (q' : Queue), exec (.packetWait n index) s = .next t ∧
      t.queue? n = some q' ∧ q'.st = 2 ∧ q'.rd = q.rd ∧ t.mem = s.mem)) ∧
  ∀ (s : State) n k q p, s.queue? n = some q → q.waitAt = some k → s.packet? n k = some p → p.started = true → q.onChip = true →
    mayGoOn s q.ctx p.parked = true → p.parked ≠ some .failed → s.heldPacket q p = false → pktField p.body 4 4 % 4 = 3 →
    s.reached (BitVec.ofNat 64 (pktField p.body 16 8)) = true →
    ∃ (t : State), exec (.waitConditionMet n) s = .next t ∧ t.queue? n = some (q.complete k) ∧ t.mem = s.mem

/-- A PENDING kernel whose hazards are clear becomes READY with its parameters: zeros, or the block that the command processor reads
(R295, R296). A FINISHING kernel whose `DET` effects are all applied writes its record and is COMPLETE: it leaves, and its packet
completes; a record that cannot be written leaves the packet failed with cause 7; and a write that must wait leaves the kernel FINISHING
(R296, R300). A DRAINING kernel with nothing left takes these steps from the time it drained. That only a kernel that sheds leaves its
mean to its queue is the model's choice (log 104). -/
def Obligations.KernelsBeginAndFinish : Prop :=
  (∀ (s : State) u k q p, s.kernel? u = some k → k.st = 0 → s.queue? k.q = some q → s.packet? k.q k.index = some p →
    s.heldPacket q p = false → mayGoOn s k.ctx k.parkedOn = true → k.parkedOn ≠ some .failed →
    ∀ x s', (k.param = 0 ∧ x = 0 ∧ s' = s) ∨ (k.param ≠ 0 ∧ s.cpRead k.ctx k.param.toNat 64 = .ok (x, s')) →
    ∃ (t : State) (k' : Kernel), exec (.parameterRead u) s = .next t ∧ t.kernel? u = some k' ∧ k'.st = 1 ∧ k'.params = wordsOf 16 x ∧
      k'.parkedOn = none ∧ t.mem = s.mem ∧ t.waves = s.waves) ∧
  ∀ (s : State) u k, s.kernel? u = some k → mayGoOn s k.ctx k.parkedOn = true → k.parkedOn ≠ some .failed →
    k.st = 4 ∨ (k.st = 3 ∧ s.drainedKernel k = true) →
    let k1 := if k.st = 3 then { k with st := 4, donePT := s.pt, det := sortBy Prod.fst k.det } else k
    ∀ s1, applyGroups k1 k1.det s = (s1, [], none) →
    let s2 := s1.modKernel u fun x => { x with st := 4, donePT := k1.donePT, det := [], parkedOn := none }
    ∀ k2 q, s2.kernel? u = some k2 → s2.queue? k2.q = some q →
    let q1 := if k2.gdone = 0 ∨ k2.sheds = false then q else
      { q with mean := max 1 (min (k2.durSum / k2.gdone) 0xFFFFFFFF), tag := k2.code.toNat / 4 }
    (∀ va, cpProbe s2 k2.ctx k2.recA.toNat (k2.body.length + 1) = (.ok (), va) → ∃ (t : State), exec (.kernelFinish u) s = .next t ∧
      t.kernel? u = none ∧ t.queue? k2.q = some (q1.complete k2.index)) ∧
    (∀ c va, cpProbe s2 k2.ctx k2.recA.toNat (k2.body.length + 1) = (.fail c, va) → ∃ (t : State), exec (.kernelFinish u) s = .next t ∧
      t.kernel? u = none ∧ t.queue? k2.q = some ((q1.error 7 k2.index).complete k2.index) ∧ t.mem = s2.mem ∧ t.hostMem = s2.hostMem) ∧
    ∀ x va p s3, cpProbe s2 k2.ctx k2.recA.toNat (k2.body.length + 1) = (.wait x, va) →
      s2.cpPark k2.ctx va .write x = .ok (p, s3) →
      exec (.kernelFinish u) s = .next (s3.modKernel u fun x => { x with parkedOn := some p })

/-! ### Matrix engines -/

/-- The roll call of the issuing wave's team lacks only this wave, whose content agrees (R343). -/
def LastArrival (s : State) (i : Issue) (tile : Nat) (e : Enc) (srcs : List DWord) (g : Group) (t n : Nat) (rc : RollCall) : Prop :=
  s.group? i.w.group = some g ∧ s.teamOf i.w = some (t, n) ∧ tile < 2 * n ∧
  g.calls.find? (fun c => c.team == t) = some rc ∧ rc.op = i.op ∧ rc.e = e ∧ rc.srcs = srcs ∧
  (∀ a ∈ rc.arrived, a.1 ≠ i.w.uid) ∧ rc.arrived.length + 1 = n ∧ s.tableRoom (clusterOf g.core) = true

/-- `MPOST`, `ACLR`, `ACLD` and `ACST` that no check stops: the last member of the team to arrive makes the task, and goes on; an earlier
one waits at the roll call (R343, R344, R352, R359). `SEEDSCAN`, `SEEDGEN` and `BEAM` that no check stops post a task on the timeline that
their block names, when the timeline and the cluster's table have room (R344, R369, R393). That the sixteen records of a cluster's table
are shared by team tasks, `SEEDSCAN`, `SEEDGEN` and `BEAM` (R343, R395), so that these wait while it is full, is the model's choice (log
46). -/
def Obligations.TeamAndTaskPostsComplete : Prop :=
  (∀ op ∈ [Op.mpost, .aclr, .acld, .acst], ∀ (s : State) (e : Enc) (w : Wave) (sp : Split), Issues s op e w sp → NoJoin e sp → Enabled op e w sp →
     let i := issueOf op e w sp
     let s1 := issued op e s w sp
     let tile := if op = .acst then e.a.toNat else e.d.toNat
     ∀ e' srcs g t n,
     ((op = .mpost ∧ i.subBlock mpostCounts (2 ^ 14 - 1) = some e' ∧
         mpostTrap s1 g e' (mGeo e' [BitVec.ofNat 64 (i.sA false), 0]) = none ∧ srcs = i.mpostSrcs e') ∨
       (op = .aclr ∧ e' = e ∧ srcs = []) ∨
       ((op = .acld ∨ op = .acst) ∧ e' = e ∧ i.accTrap g = none ∧ srcs = [BitVec.ofNat 64 (i.sB false)])) →
     (∀ rc, LastArrival s1 i tile e' srcs g t n rc →
       ∃ (s' : State) (w' : Wave) (task : Task), exec (Instr.ofOp e op) s = .next s' ∧ GoesOn e w sp s' w' ∧ s'.tasks = s.tasks ++ [task] ∧ task.op = op ∧
         task.e = e' ∧ task.prog = 0 ∧ task.st = .queued ∧ task.team = some t ∧ task.cl = clusterOf g.core ∧ s'.mem = s.mem) ∧
     (s1.group? w.group = some g → s1.teamOf i.w = some (t, n) → tile < 2 * n →
       (∀ c ∈ g.calls, c.team ≠ t) →
       WaitsOn (fun s' => { s with groups := s'.groups }) w sp .rollCall (exec (Instr.ofOp e op) s))) ∧
  (∀ op ∈ [Op.seedscan, .seedgen, .beam], ∀ (s : State) (e : Enc) (w : Wave) (sp : Split), Issues s op e w sp → NoJoin e sp → Enabled op e w sp → w.tls.length = 8 →
     let i := issueOf op e w sp
     ∀ e' g tl, s.group? w.group = some g →
     ((op = .seedscan ∧ i.subBlock scanCounts (2 ^ 8 - 1) = some e' ∧ scanTrap s g e' (scanGeo e' i.seedSrcs) = none ∧
         tl = bitsAt e'.p3 6 2) ∨
       (op = .seedgen ∧ i.subBlock genCounts (2 ^ 13 - 1) = some e' ∧ genTrap s g e' (genGeo e' i.seedSrcs) = none ∧
         tl = bitsAt e'.p3 5 2) ∨
       (op = .beam ∧ i.subBlock [] (2 ^ 32 - 1) = some e' ∧ beamTrap g e' (sp.spair e.a.toNat).toNat = none ∧
         tl = bitsAt e'.p2 0 2)) →
     ((w.tl tl).open_.length < 64 → s.tableRoom (clusterOf w.core) = true →
       ∃ (t : State) (w' : Wave) (task : Task), exec (Instr.ofOp e op) s = .next t ∧ GoesOn e w sp t w' ∧ t.tasks = s.tasks ++ [task] ∧ task.op = op ∧
         task.e = e' ∧ task.tl = tl ∧ task.team = none ∧ task.members = [(w.uid, (w.tl tl).posted + 1)] ∧ task.st = .queued ∧
         (w'.tl tl).posted = (w.tl tl).posted + 1 ∧ t.mem = s.mem ∧ t.groups = s.groups) ∧
     (64 ≤ (w.tl tl).open_.length → WaitsOn (fun _ => s) w sp (.roomTl tl) (exec (Instr.ofOp e op) s)) ∧
     ((w.tl tl).open_.length < 64 → s.tableRoom (clusterOf w.core) = false →
       WaitsOn (fun _ => s) w sp (.roomTable (clusterOf w.core)) (exec (Instr.ofOp e op) s)))

/-- `MSTAT` reads a task's state, the wave's accumulated flags, or its step (R361, R362); `MCNCL` removes a task that has not begun a
step, marks one that has, and otherwise does nothing (R363). -/
def Obligations.TaskInstructionsComplete : Prop :=
  (∀ (s : State) (e : Enc) (w : Wave) (sp : Split), Issues s .mstat e w sp → NoJoin e sp → Enabled .mstat e w sp →
    let u := (sp.spair e.b.toNat).toNat
    let k := s.teamTask? w.uid u
    let st := match k with
      | some t => (match t.st with | .queued => 1 | .running => 2 | .parked => 3 | .suspended p => if p then 3 else 1)
      | none => if 1 ≤ u ∧ u ≤ (w.tl 4).posted then 4 else 0
    GivesScalar .mstat e (fun _ => s) w sp false
      (if e.opx = 0 then (w.efl &&& 0x7F#8).toNat * 2 ^ 8 + st else match k with | some t => t.prog | none => 0xFFFFFFFF)
      (exec (.mstat e) s)) ∧
  ∀ (s : State) (e : Enc) (w : Wave) (sp : Split), Issues s .mcncl e w sp → NoJoin e sp → Enabled .mcncl e w sp →
    let k := s.teamTask? w.uid (sp.spair e.b.toNat).toNat
    (k = none → Advances .mcncl e (fun _ => s) w sp (exec (.mcncl e) s)) ∧
    (∀ t, k = some t → t.begun = true → Advances .mcncl e (fun s' => { s with tasks := s'.tasks }) w sp (exec (.mcncl e) s) ∧
      ∀ s', exec (.mcncl e) s = .next s' → ∀ x ∈ s'.tasks, x.id = t.id → x.cancel = true) ∧
    (∀ t, k = some t → t.begun = false → ∃ (s' : State) (w' : Wave), exec (.mcncl e) s = .next s' ∧ GoesOn e w sp s' w' ∧
      s'.tasks = (s.tasks.filter fun x => x.id != t.id) ∧ s'.mem = s.mem)

/-- The matrix engine of a cluster: a full roll call is served when a record is free (R343); the first task of a team binds its tiles,
every element zero (R346); a pass begins a step, parks a task whose operands are not ready, or fails one (R345, R347, R355);
the step that has begun completes (R353); a class that waits for 64 passes is owed one (R347). A beam whose rays have all
been traced writes their records, and no other byte of its group's scratchpad (R394). -/
def Obligations.MatrixEngineSteps : Prop :=
  (∀ (s : State) cl k g rc l (w : Wave), sortBy (fun x : Nat × Group × RollCall => x.1) ((s.fullCalls cl).filter fun x => (s.ctx x.2.1.ctx).st == .running) =
      (k, g, rc) :: l → s.tableUsed cl < 16 → (∃ a ∈ rc.arrived, s.wave? a.1 = some w) →
    ∃ (t : State) (task : Task), exec (.rollCallFullServe cl) s = .next t ∧ t.tasks = s.tasks ++ [task] ∧ task.op = rc.op ∧ task.e = rc.e ∧
      task.team = some rc.team ∧ task.st = .queued ∧ t.mem = s.mem) ∧
  (∀ (s : State) cl task, s.bindNext cl = some task → ∃ (t : State) (b : TileBind), exec (.tileBind cl) s = .next t ∧ { t with tiles := s.tiles } = s ∧ b ∈ t.tiles ∧
    b.cl = cl ∧ b.group = task.group ∧ b.count = 2 * task.members.length ∧ b.tiles = []) ∧
  (∀ (s : State) cl task, s.engineFree cl = true → s.grantPass cl = some task → s.task? task.id = some task →
    (availAll s (taskNeeds s task) = .ok → ∃ (t : State) (x : Task), exec (.matrixPass cl) s = .next t ∧ t.task? task.id = some x ∧ x.st = .running ∧
      x.begun = true ∧ x.prog = task.prog ∧ t.groups = s.groups ∧ t.mem = s.mem) ∧
    (availAll s (taskNeeds s task) = .wait → ∃ (t : State) (x : Task), exec (.matrixPass cl) s = .next t ∧ t.task? task.id = some x ∧ x.st = .parked ∧
      x.begun = false ∧ { t with tasks := s.tasks, tiles := s.tiles } = s) ∧
    ∀ c a, availAll s (taskNeeds s task) = .fail c a → ∃ (t : State), exec (.matrixPass cl) s = .next t ∧ t.task? task.id = none ∧ t.mem = s.mem) ∧
  (∀ (s : State) cl task, s.tasks.find? (fun t => t.cl == cl && t.begun) = some task → s.task? task.id = some task →
    (∀ c a, availAll s (taskNeeds s task) ≠ .fail c a) →
    (task.cancel = false → task.prog + 1 < taskSteps task → ∃ (t : State) (x : Task), exec (.matrixStepComplete cl) s = .next t ∧
      t.task? task.id = some x ∧ x.prog = task.prog + 1 ∧ x.begun = false ∧ t.mem = s.mem) ∧
    (task.cancel = true ∨ taskSteps task ≤ task.prog + 1 → ∃ (t : State), exec (.matrixStepComplete cl) s = .next t ∧
      t.task? task.id = none ∧ t.mem = s.mem)) ∧
  (∀ (s : State) cl c, 64 ≤ s.passCount cl c → s.mowed.contains (cl, c) = false →
    exec (.matrixClassOwed cl c) s = .next { s with mowed := s.mowed ++ [(cl, c)] }) ∧
  (∀ (s : State) cl id task, s.task? id = some task → task.cl = cl → task.st = .parked → task.passes = true →
    (s.ctx task.ctx).st = .running → availAll s (taskNeeds s task) ≠ .wait →
    ∃ (t : State) (x : Task), exec (.matrixOperandAvailable cl id) s = .next t ∧ t.task? id = some x ∧ x = { task with st := .queued } ∧
      { t with tasks := s.tasks } = s) ∧
  ∀ (s : State) id task g, s.task? id = some task → s.group? task.group = some g → task.op = .beam →
    task.st = .queued ∨ (task.st = .parked ∧ task.parked = some .ready) → availAll s (beamNeeds g task) = .ok →
    s.taskReleased task = true → (s.ctx task.ctx).st = .running →
    let desc := beamDesc (task.coef.getD (spdBytes g (bitsAt task.e.p0 0 18) 64))
    let hoff := bitsAt task.e.p1 0 18
    desc.getD 14 0 = 0 → desc.getD 15 0 = 0 → ∀ tlbs recs, beamRays s task desc = (tlbs, recs, none) →
    ∃ (t : State) (g' : Group), exec (.beamComplete id) s = .next t ∧ t.task? id = none ∧ t.group? task.group = some g' ∧ t.mem = s.mem ∧
      readLe g'.mem hoff 2048 = packElems 256 recs % 2 ^ (8 * 2048) ∧ ∀ a, a < hoff ∨ hoff + 2048 ≤ a → byteAt g'.mem a = byteAt g.mem a

/-- A step of `MPOST` writes only the elements that its block names of the team's tiles (R353); one of `ACLR` clears one tile; one of
`ACLD` loads it from the group's scratchpad (R360). -/
def Obligations.MatrixStepResults : Prop :=
  (∀ (s : State) t gr tiles key, (∀ m n, m < (mGeo t.e t.srcs).m → n < (mGeo t.e t.srcs).n → key ≠ tileKey (mGeo t.e t.srcs).tile m n) →
    sget 0 (mpostStep s t gr tiles).1 key = sget 0 tiles key) ∧
  (∀ (s : State) t gr b, t.op = .aclr → s.group? t.group = some gr → s.bind? t = some b →
    ∃ (b' : TileBind), (teamStep s t).1.bind? t = some b' ∧
      ∀ key, sget 0 b'.tiles key = if key / 4096 = t.e.d.toNat then 0 else sget 0 b.tiles key) ∧
  ∀ t gr tiles m n, m < 64 → n < 64 →
    let d := accDesc (t.srcs.getD 0 0).toNat
    sget 0 (acldLoad t gr tiles) (tileKey t.e.d.toNat m n) = BitVec.ofNat 32 (readLe gr.mem (d.2 + d.1 * m + 4 * n) 4)

/-! ### Rays and pixels -/

/-- `TRACE`, `PXL` and `HITLD` that no check at issue stops leave outstanding writes of their registers; `PXS` leaves the writes of its
samples as stores (R391, R396, R407, R408). A ray or a pixel of a thread returns: the registers of that thread take its result, a pixel's
predicate says whether it was there, and the thread is complete (R392, R407). The trap address of a `TRACE` whose root is misaligned or
out of range is the model's choice (log 26). -/
def Obligations.RaysAndPixelsComplete : Prop :=
  ((∀ (s : State) (e : Enc) (w : Wave) (sp : Split), Issues s .trace e w sp → NoJoin e sp → Enabled .trace e w sp →
     let root := (sp.spair e.b.toNat).toNat
     root % 128 = 0 → root < 2 ^ 57 →
     ∃ (t : State) (w' : Wave) (p : Pend), ∃ sup rays, exec (.trace e) s = .next t ∧ MemIssued e s t w w' sp ∧ w'.pend = w.pend ++ [p] ∧ t.stores = s.stores ∧
       p.mask = enabledOf .trace e w sp ∧ p.dst = .vec e.d.toNat 6 ∧ p.wait = .token (e.mod.toNat % 16) ∧
       p.body = .trace (e.opx == 1) root sup rays ∧
       rays = (lanesOf (enabledOf .trace e w sp)).map fun t =>
         (t, (List.range 8).map fun k => (w.vreg (e.a.toNat + k) t).toNat)) ∧
   (∀ (s : State) (e : Enc) (w : Wave) (sp : Split), Issues s .trace e w sp → Enabled .trace e w sp →
     let root := (sp.spair e.b.toNat).toNat
     ∀ c, (c = .align ∧ root % 128 ≠ 0) ∨ (c = .space ∧ root % 128 = 0 ∧ 2 ^ 57 ≤ root) →
     exec (.trace e) s = .next (finish (issueOf .trace e w sp)
       (.trap (maskTrap c (enabledOf .trace e w sp) root false) (issued .trace e s w sp)))) ∧
   (∀ (s : State) (e : Enc) (w : Wave) (sp : Split), Issues s .pxl e w sp → NoJoin e sp → Enabled .pxl e w sp →
     (issueOf .pxl e w sp).pixelTrap s false [1, 2, 3] = none →
     ∃ (t : State) (w' : Wave) (p : Pend), exec (.pxl e) s = .next t ∧ MemIssued e s t w w' sp ∧ w'.pend = w.pend ++ [p] ∧ t.stores = s.stores ∧
       p.mask = enabledOf .pxl e w sp ∧ p.dst = .vec e.d.toNat 2 ∧ p.wait = .ld) ∧
   (∀ (s : State) (e : Enc) (w : Wave) (sp : Split), Issues s .hitld e w sp → NoJoin e sp → Enabled .hitld e w sp → ∀ oks,
     let i := issueOf .hitld e w sp
     AllReach (issued .hitld e s w sp) i hitldAsk (hitldAccs i) oks →
     ∃ (t : State) (w' : Wave) (p : Pend) (q : Pend), exec (.hitld e) s = .next t ∧ MemIssued e s t w w' sp ∧ w'.pend = w.pend ++ [p, q] ∧ t.stores = s.stores ∧
       p.mask = accMask (oks.map Prod.fst) ∧ q.mask = p.mask ∧ p.dst = .vec e.d.toNat 4 ∧ q.dst = .vec (e.d.toNat + 4) 2 ∧
       p.wait = .ld ∧ q.wait = .ld) ∧
   ∀ (s : State) (e : Enc) (w : Wave) (sp : Split), Issues s .pxs e w sp → NoJoin e sp → Enabled .pxs e w sp → ∀ oks,
     let i := issueOf .pxs e w sp
     let s1 := issued .pxs e s w sp
     i.pixelTrap s1 true [1, 3] = none → AllReach s1 i pxsAsk (pxsAccs i s1) oks →
     (∀ x ∈ oks, ∀ g va pa, x.1.place ≠ .det g va pa) →
     ∃ (t : State) (w' : Wave) (ops : List MemOp), exec (.pxs e) s = .next t ∧ MemIssued e s t w w' sp ∧ w'.pend = w.pend ∧ t.stores = s.stores ++ ops ∧
       ops.map MemOp.acc = oks.map Prod.fst ∧ ∀ m ∈ ops, m.fn = .masked ∧ m.wave = w.uid) ∧
  ((∀ (s : State) u seq thread (w : Wave) p any root sup rays r d n, s.wave? u = some w → w.halted = false → (s.ctx w.ctx).st = .running →
     w.pend.find? (fun p => p.seq == seq) = some p → p.body = .trace any root sup rays → rays.find? (fun r => r.1 == thread) = some r →
     thread < 32 → p.free thread = true → p.lostAt thread = false → p.dst = .vec d n →
     let x := traceRay (threadReader s w p (sup == 1) thread) any root r.2
     x.stop = none →
     ∃ (t : State) (w' : Wave) (p' : Pend), exec (.rayComplete u seq thread) s = .next t ∧ OnlyWave { s with tlb := t.tlb, counts := t.counts } t u ∧
       t.wave? u = some w' ∧ { w' with v := w.v, badV := w.badV, pend := w.pend } = w ∧
       (∀ k < n, w'.vreg (d + k) thread = BitVec.ofNat 32 (packElems 32 (hitWords x.best) / 2 ^ (32 * k))) ∧
       (∀ t < 32, ∀ k, t ≠ thread ∨ k < d ∨ d + n ≤ k → w'.vreg k t = w.vreg k t) ∧
       w'.pend.find? (fun p => p.seq == seq) = some p' ∧ p'.mask = p.mask &&& ~~~(1#32 <<< thread)) ∧
   ∀ (s : State) u seq thread (w : Wave) p c sup pix x d n cs ok ts, s.wave? u = some w → w.halted = false → (s.ctx w.ctx).st = .running →
     w.pend.find? (fun p => p.seq == seq) = some p → p.body = .pxl c sup pix → pix.find? (fun x => x.thread == thread) = some x →
     thread < 32 → p.free thread = true → p.lostAt thread = false → p.dst = .vec d n →
     pixelValue s w.ctx (fun va => threadRead s (.core w.core) w p (sup == 1) thread va 1) x = .ok (some (cs, ok, ts)) →
     ∃ (t : State) (w' : Wave) (p' : Pend), exec (.pxlReturn u seq thread) s = .next t ∧ OnlyWave { s with tlb := t.tlb, counts := t.counts } t u ∧
       t.wave? u = some w' ∧ { w' with v := w.v, badV := w.badV, p := w.p, pend := w.pend } = w ∧
       (∀ k < n, w'.vreg (d + k) thread = BitVec.ofNat 32 (pixelWords (fun k => cs.getD k 0) / 2 ^ (32 * k))) ∧
       (∀ t < 32, ∀ k, t ≠ thread ∨ k < d ∨ d + n ≤ k → w'.vreg k t = w.vreg k t) ∧
       (c ≠ 7 → (w'.pred c).getLsbD thread = ok) ∧ (∀ k, k ≠ c → w'.pred k = w.pred k) ∧
       (∀ t < 32, t ≠ thread → (w'.pred c).getLsbD t = (w.pred c).getLsbD t) ∧
       w'.pend.find? (fun p => p.seq == seq) = some p' ∧ p'.mask = p.mask &&& ~~~(1#32 <<< thread))

/-! ### Frames and flows -/

/-- `FRMACQ` makes a descriptor current and gives its state (R409), `FRMST` reads the current frame's descriptor (R411), and
`FPRES` posts a present on tl6, which the frame engine applies (R410): a frame that is FILLING before its deadline is COMPLETE, any
other is, or becomes, LATE and counts one more in `LATEP`; nothing else of the frame changes, and the operation completes. A late mark
of R432 that is due makes the frame LATE too. That a present of a frame which the engine holds no more only completes is the model's
choice (log 54), and so is what a present waits for while its context halts (`presentDone`, log 102). -/
def Obligations.FrameInstructionsComplete : Prop :=
  (∀ (s : State) (e : Enc) (w : Wave) (sp : Split), Issues s .frmacq e w sp → NoJoin e sp → Enabled .frmacq e w sp → ∀ flow d s',
    let i := issueOf .frmacq e w sp
    let n := e.a.toNat % 16
    let va := (sp.spair e.b.toNat).toNat
    s.binding w n = some flow → va % 256 = 0 → va < 2 ^ 57 → i.readOnce (issued .frmacq e s w sp) va 64 = .ok d s' →
    frameBad d = false → fdFlow d = flow → mismatch (s.flow flow) d = false →
    GivesScalar .frmacq e (fun t => { s with tlb := t.tlb, counts := t.counts, frames := t.frames, ctxs := t.ctxs }) w sp false
      ((if 128 ≤ flow then 8 else 0) + fdState d) (exec (.frmacq e) s) ∧
    ∀ t, exec (.frmacq e) s = .next t → w.ctx < s.ctxs.length → t.current w n = some (va, d)) ∧
  (∀ (s : State) (e : Enc) (w : Wave) (sp : Split), Issues s .frmst e w sp → NoJoin e sp → Enabled .frmst e w sp → ∀ flow cur d s',
    let i := issueOf .frmst e w sp
    let n := e.a.toNat % 16
    s.binding w n = some flow → s.current w n = some cur → i.readOnce (issued .frmst e s w sp) cur.1 128 = .ok d s' →
    GivesScalar .frmst e (fun t => { s with tlb := t.tlb, counts := t.counts }) w sp (e.opx == 2)
      (if e.opx = 0 then (if 128 ≤ flow then 8 else 0) + fdState d else if e.opx = 1 then fld d 60 0 32
       else if fdState d = 1 then 0 else fld d 64 0 64) (exec (.frmst e) s)) ∧
  (∀ (s : State) (e : Enc) (w : Wave) (sp : Split), Issues s .fpres e w sp → NoJoin e sp → Enabled .fpres e w sp → w.tls.length = 8 → ∀ flow cur,
    let n := e.a.toNat % 16
    s.binding w n = some flow → s.current w n = some cur → 128 ≤ flow →
    s.frameState w.ctx cur = 1 ∨ s.frameState w.ctx cur = 3 →
    ∃ (t : State) (w' : Wave) (o : EngOp), exec (.fpres e) s = .next t ∧ EngPosted e s t w w' sp 6 o ∧ o.op = .fpres ∧ o.srcs = [BitVec.ofNat 64 cur.1]) ∧
  ∀ (s : State) id o (w : Wave), s.op? id = some o → o.op = .fpres → (s.ctx o.ctx).st = .running ∨ (s.ctx o.ctx).st = .halting →
    s.presentDone o = true → ∀ f?, s.frameAt o.ctx (o.srcs.getD 0 0).toNat = f? → (∀ f ∈ f?, s.frame? f.id = some f) →
    let p := match f? with | some f => s.present f.id | none => s
    p.wave? o.wave = some w → 6 < w.tls.length →
    ∃ (t : State) (w' : Wave), exec (.fpresApply id) s = .next t ∧ OnlyWave { p with ops := t.ops } t o.wave ∧ t.wave? o.wave = some w' ∧
      (∀ x ∈ t.ops, x.id ≠ id) ∧ (w'.tl 6).open_ = ((w.tl 6).open_.filter fun n => n != o.num) ∧ { w' with tls := w.tls } = w ∧
      ∀ f ∈ f?, ∃ f', t.frame? f.id = some f' ∧ { f' with st := f.st, latep := f.latep, dirty := f.dirty } = f ∧
        let onTime := f.st = 1 ∧ s.deadlinePassed f = false ∧ s.markDue f.id = false
        (onTime → f'.st = 2 ∧ f'.latep = f.latep) ∧
        (¬onTime → f'.st = (if f.st = 1 then 3 else f.st) ∧ f'.latep = min (f.latep + 1) (2 ^ 32 - 1))

/-- The frame engine (R401-R405): arming makes a frame FILLING, or SUBSTITUTED past its deadline; presenting completes its packet; a
deadline makes a FILLING frame LATE; a presentation begins transmission; a packet is sent and the next line follows; packets are received
only by an enabled receive flow whose configuration they match. A write of a flow's first word takes the configuration when it can be
taken, joining its multicast groups, and stops the flow otherwise (R442). Which packets a receive flow takes where the configuration holds
0 is the model's choice (log 90), and so is that a write which the function does not answer is ignored (log 73). -/
def Obligations.FramesAndFlowsStep : Prop :=
  ((∀ (s : State) q index qu p d s', s.waitingPacket q index 5 = some (qu, p) → pktField p.body 4 4 % 2 = 0 → s.heldPacket qu p = false →
     p.parked ≠ some .failed → pktField p.body 8 8 % 256 = 0 → s.cpRead qu.ctx (pktField p.body 8 8) 256 = .ok (d, s') →
     let va := pktField p.body 8 8
     (frameBad (d % 2 ^ 512) || frameTailBad d || !(s.flow (fdFlow d)).en) = false → (s.flow (fdFlow d)).ctx = qu.ctx →
     s.frameAt qu.ctx va = none → fdState d = 0 →
     ∃ (t : State) (f : Frame), exec (.frameArm q index) s = .next t ∧ t.queue? q = some (qu.complete index) ∧ t.frameAt qu.ctx va = some f ∧
       f.flow = fdFlow d ∧ f.tx = decide (128 ≤ fdFlow d) ∧
       f.st = (if 128 ≤ fdFlow d ∧ s.reached (BitVec.ofNat 64 (fdDl d)) = true then 5 else 1)) ∧
   (∀ (s : State) q index qu p, s.waitingPacket q index 5 = some (qu, p) → pktField p.body 4 4 % 2 = 1 → s.heldPacket qu p = false →
     ∃ (t : State), exec (.framePresent q index) s = .next t ∧ t.queue? q = some (qu.complete index)) ∧
   (∀ (s : State) id (f : Frame), s.frame? id = some f → f.tx = true → f.st = 1 ∨ f.st = 3 → ∃ (f' : Frame), (s.present id).frame? id = some f' ∧
     f'.st = if f.st = 1 ∧ s.deadlinePassed f = false ∧ s.markDue id = false then 2 else 3) ∧
   (∀ (s : State) id f, s.frame? id = some f → f.st = 1 → s.reached (BitVec.ofNat 64 (fdDl f.d)) = true →
     ∃ (t : State) (f' : Frame), exec (.frameDeadline id) s = .next t ∧ t.frame? id = some f' ∧ f'.st = 3 ∧ f'.map = f.map) ∧
   (∀ (s : State) id f, s.frame? id = some f → f.tx = true → f.st = 2 ∨ f.st = 3 → s.reached (BitVec.ofNat 64 (fdPt f.d)) = true →
     ∃ (t : State) (f' : Frame), exec (.framePresentation id) s = .next t ∧ t.frame? id = some f' ∧ f'.st = (if f.st = 2 then 4 else 5) ∧
       f'.spt = s.pt ∧ f'.txLine = (if f.cut then none else some 0)) ∧
   (∀ (s : State) id f line, s.frame? id = some f → f.txLine = some line → f.gone = false →
     ∃ (t : State) (f' : Frame), exec (.rtpPacketTransmit id) s = .next t ∧ t.frame? id = some f' ∧ f'.txSeq = f.txSeq + 1 ∧ f'.st = f.st ∧
       f'.map = f.map ∧ (∀ l, f'.txLine = some l → line ≤ l ∧ l < storedLines f.d) ∧ t.waves = s.waves) ∧
   ∀ (s : State) flow pkt, let f := s.flow flow
     let ours := flow < 128 ∧ f.en = true ∧ (pkt.path = 0 ∨ (pkt.path = 1 ∧ f.twoPaths = true)) ∧ s.portUp (f.portOf pkt.path) = true ∧
       f.dst pkt.path = pkt.dst ∧ (f.src pkt.path = 0 ∨ f.src pkt.path = pkt.src) ∧ f.dport pkt.path = pkt.dport ∧
       f.sport pkt.path = pkt.sport ∧ (f.ssrc = 0 ∨ f.ssrc = pkt.ssrc) ∧ pkt.payt = f.payt
     (ours → ∃ (t : State), exec (.rtpPacketReceive flow pkt) s = .next t ∧ t.waves = s.waves ∧ t.queues = s.queues ∧
       t = (s.modFlow flow fun f => { f with inbox := f.inbox ++ [pkt] }).runFlow flow) ∧
     (¬ ours → exec (.rtpPacketReceive flow pkt) s = .next s)) ∧
  ((∀ (s : State) flow v, flow < 256 → s.answers = true → v.getLsbD 31 = true →
     let c := setFld (s.flow flow).cfg 0 4 v.toNat
     (flowOk s.breakout flow c = true → ∃ (t : State), exec (.flowEnable flow v) s = .next t ∧ (t.flow flow).cfg = c ∧
       { t with flows := s.flows, out := s.out } = s ∧ (∀ k, k ≠ flow → t.flow k = s.flow k) ∧
       (128 ≤ flow → t.out = s.out) ∧
       ∀ k ∈ (t.flow flow).paths, flow < 128 → ((t.flow flow).dst k).toNat / 2 ^ 28 = 14 →
         OutMsg.igmp ((t.flow flow).portOf k) ((t.flow flow).dst k) ((t.flow flow).src k) true ∈ t.out) ∧
     (flowOk s.breakout flow c = false → ∃ (t : State), exec (.flowEnable flow v) s = .next t ∧ (t.flow flow).en = false ∧
       ∀ f ∈ t.frames, f.flow = flow → f.txLine = none)) ∧
   (∀ (s : State) flow v, flow < 256 → s.answers = true → v.getLsbD 31 = false →
     ∃ (t : State), exec (.flowDisable flow v) s = .next t ∧ (t.flow flow).en = false ∧ (t.flow flow).inbox = [] ∧
       (∀ f ∈ t.frames, f.flow = flow → f.txLine = none) ∧ t.mem = s.mem) ∧
   ∀ (s : State) flow v, flow < 256 → s.answers = false →
     (v.getLsbD 31 = true → exec (.flowEnable flow v) s = .next s) ∧ (v.getLsbD 31 = false → exec (.flowDisable flow v) s = .next s))

/-! ### Links -/

/-- The per-thread remote instructions and `LRED` that no check stops, with room on their links, take a number on tl5 and leave every
register and byte of memory; `RRD` and `RATM` leave an outstanding write (R421-R425). `LSTAT` reads a link (R428). -/
def Obligations.RemoteInstructionsComplete : Prop :=
  (∀ op ∈ [Op.rwr, .rrd, .rwrf, .ratm], ∀ (s : State) (e : Enc) (w : Wave) (sp : Split), Issues s op e w sp → NoJoin e sp → Enabled op e w sp → w.tls.length = 8 →
    let i := issueOf op e w sp
    let s1 := issued op e s w sp
    let n := if i.wideTy then 8 else 4
    i.remoteTrap s1 n = none →
    (∀ l ∈ i.remoteLinks, s1.linkRoom l ((lanesOf i.en).filter fun t => fabricLink (i.a true t) == l).length = true) →
    (op = .rwrf ∨ (op = .ratm ∧ e.order = 3) → ReleaseDone s1 w.uid sp.mask) →
    ∃ (t : State) (w' : Wave), exec (Instr.ofOp e op) s = .next t ∧ GoesOn e w sp t w' ∧ (w'.tl 5).posted = (w.tl 5).posted + 1 ∧ t.mem = s.mem ∧
      t.stores = s.stores ∧ (∀ k, k ≠ w.uid → t.wave? k = s.wave? k) ∧
      (op = .rwr ∨ op = .rwrf → w'.pend = w.pend) ∧
      (op = .rrd ∨ op = .ratm → w'.pend.length = w.pend.length + 1 ∧ ∃ p ∈ w'.pend.getLast?, p.all = i.en ∧
        p.dst = .vec e.d.toNat (n / 4) ∧ p.wait = .ld)) ∧
  (∀ (s : State) (e : Enc) (w : Wave) (sp : Split), Issues s .lred e w sp → NoJoin e sp → Enabled .lred e w sp → w.tls.length = 8 →
    let a := (sp.spair e.a.toNat).toNat
    lredTrap s w.ctx a (sp.spair e.b.toNat).toNat ((issueOf .lred e w sp).sC false) = none → s.linkRoom (fabricLink a) 1 = true →
    ∃ (t : State) (w' : Wave), exec (.lred e) s = .next t ∧ GoesOn e w sp t w' ∧ (w'.tl 5).posted = (w.tl 5).posted + 1 ∧ t.mem = s.mem ∧
      t.stores = s.stores ∧ w'.pend = w.pend) ∧
  ∀ (s : State) (e : Enc) (w : Wave) (sp : Split), Issues s .lstat e w sp → NoJoin e sp → Enabled .lstat e w sp →
    let k := s.link ((issueOf .lstat e w sp).sB false % 16)
    (k.octx = w.ctx → GivesScalar .lstat e (fun _ => s) w sp (e.opx == 2)
      (if e.opx = 0 then k.st else if e.opx = 1 then min k.retx 0xFFFFFFFF else if e.opx = 2 then k.done
       else k.plink * 2 ^ 16 + k.pnode) (exec (.lstat e) s)) ∧
    (k.octx ≠ w.ctx → exec (.lstat e) s = .next (finish (issueOf .lstat e w sp)
      (.trap ((issueOf .lstat e w sp).plainTrap .space) (issued .lstat e s w sp))))

/-- Link states (R413, R443): ENABLE asks the peer, whose matching answer brings the link UP; DRAIN ends when every operation is
acknowledged; RESET leaves FAILED; a lossy link is DEGRADED and recovers after 1 ms; the links of a port that falls fail. These are the
model's choices: a handshake that does not name us changes nothing (log 84), and what a port needs to come up, its bring-up step (log 72)
and the breakout (log 89). -/
def Obligations.LinkStatesChange : Prop :=
  (∀ (s : State) l, l < 16 → s.links.length = 16 → s.answers = true →
    ((s.link l).st = 0 → (s.link l).cfgOk = true → s.portUp (s.link l).port = true →
      ∃ (t : State), exec (.linkEnable l) s = .next t ∧ (t.link l).st = 1 ∧ t.out = s.out ++ [.handshake l]) ∧
    ((s.link l).st = 2 ∨ (s.link l).st = 3 → ((s.link l).ops.all (·.acked)) = true →
      ∃ (t : State), exec (.linkDrain l) s = .next t ∧ (t.link l).st = 0 ∧ t.mem = s.mem) ∧
    ((s.link l).st = 2 ∨ (s.link l).st = 3 → ((s.link l).ops.all (·.acked)) = false →
      ∃ (t : State), exec (.linkDrain l) s = .next t ∧ (t.link l).st = 4 ∧ t.mem = s.mem) ∧
    ((s.link l).st = 5 → ∃ (t : State), exec (.linkReset l) s = .next t ∧ (t.link l).st = 0 ∧ (t.link l).window = [] ∧ t.mem = s.mem) ∧
    ((s.link l).st ≠ 0 → exec (.linkEnable l) s = .next s) ∧ ((s.link l).st ≠ 5 → exec (.linkReset l) s = .next s)) ∧
  (∀ (s : State) l ans, s.links.length = 16 → (s.link l).st = 1 → l < 16 →
    (ans.namesUs = true ∧ ans.node = (s.link l).pnode ∧ ans.link = (s.link l).plink →
      ∃ (t : State), exec (.linkHandshake l ans) s = .next t ∧ (t.link l).st = 2 ∧ (t.link l).psize = ans.asize ∧ (t.link l).window = []) ∧
    (ans.namesUs = false → exec (.linkHandshake l ans) s = .next s)) ∧
  (∀ (s : State) l, l < 16 → s.links.length = 16 →
    ((s.link l).st = 2 → (s.lossy (s.link l) || s.fallback (s.link l)) = true →
      ∃ (t : State), exec (.linkDegrade l) s = .next t ∧ (t.link l).st = 3 ∧ { t with links := s.links } = s) ∧
    ((s.link l).st = 3 → (s.link l).since.toNat + 1000000 ≤ s.pt.toNat → (s.lossy (s.link l) || s.fallback (s.link l)) = false →
      ∃ (t : State), exec (.linkRecover l) s = .next t ∧ (t.link l).st = 2 ∧ { t with links := s.links } = s)) ∧
  (∀ (s : State) p, s.links.length = 16 → s.portUp p = true → ∃ (t : State), exec (.portDown p) s = .next t ∧ t.portUp p = false ∧
    ∀ l < 16, (s.link l).port = p → (s.link l).isUp = true → (t.link l).st = 5) ∧
  ∀ (s : State) p, p < s.breakout → p < s.ports.length → s.portUp p = false → s.power = .d0 → (s.portStep p).count < 2 →
    ∃ (t : State), exec (.portUp p) s = .next t ∧ t.portUp p = true ∧ { t with ports := s.ports } = s

/-- Operations between devices (R415-R418, R420): an acknowledged, answered or refused operation leaves its link; a missing
acknowledgement sends it again, and fails the link after 16 times; a receiver not ready costs nothing; the target performs a
write once, and answers a repeat from its window without performing it again. -/
def Obligations.LinkOperationsComplete : Prop :=
  (∀ (s : State) l seq o, l < 16 → s.links.length = 16 → (s.link l).op? seq = some o → s.waveRuns o.wave = true →
    (o.pend = none → ∃ (t : State), exec (.nraAck l seq) s = .next t ∧ ∀ x ∈ (t.link l).ops, x.id ≠ o.id) ∧
    (∀ data, o.pend.isSome = true → data.length = o.op.parts.length →
      ∃ (t : State), exec (.nraReadResponse l seq data) s = .next t ∧ ∀ x ∈ (t.link l).ops, x.id ≠ o.id) ∧
    (∃ (t : State), exec (.nraFinalNack l seq) s = .next t ∧ ∀ x ∈ (t.link l).ops, x.id ≠ o.id)) ∧
  (∀ (s : State) l seq o, (s.link l).op? seq = some o →
    exec (.nraReceiverNotReady l seq) s = .next { s with out := s.out ++ [.nra l o.op] }) ∧
  (∀ (s : State) l seq o, l < 16 → s.links.length = 16 → (s.link l).op? seq = some o →
    (o.tries < 16 → ∃ (t : State), exec (.nraRetransmit l seq) s = .next t ∧ t.out = s.out ++ [.nra l o.op] ∧
      (t.link l).retx = min ((s.link l).retx + 1) 0xFFFFFFFF ∧ (t.link l).st = (s.link l).st ∧ t.waves = s.waves) ∧
    (16 ≤ o.tries → (s.link l).isUp = true → ∃ (t : State), exec (.nraRetransmit l seq) s = .next t ∧ (t.link l).st = 5)) ∧
  (∀ (s : State) l op x, (s.link l).isUp = true → op.seq < 2 ^ 48 →
    (s.link l).window.find? (fun x => x.1 == op.seq) = some x →
    exec (.nraOperationReceive l op) s = .next { s with out := s.out ++ [.answer l op.seq x.2] }) ∧
  ∀ (s : State) l op part pa tl, l < 16 → s.links.length = 16 →
    let k := s.link l
    k.isUp = true → op.seq < 2 ^ 48 → k.window.find? (fun x => x.1 == op.seq) = none →
    (∀ h, k.hi = some h → k.above op.seq = true ∨ seqDist h op.seq < 4096) →
    (s.ctx k.tctx).st = .running → k.lparks = [] → op.kind = .write → op.size = 4 → op.parts = [part] → part.off + 4 ≤ k.asize →
    s.agentReach k.tctx (s.ctx k.tctx).ksup .write (k.abase + part.off) 4 = .ok (.phys pa, tl) →
    ∃ (t : State), exec (.nraOperationReceive l op) s = .next t ∧ readLe t.mem pa 4 = part.data.toNat % 2 ^ 32 ∧
      (∀ a, a < pa ∨ pa + 4 ≤ a → byteAt t.mem a = byteAt s.mem a) ∧ t.out = s.out ++ [.answer l op.seq (.done [])] ∧
      (t.link l).window.find? (fun x => x.1 == op.seq) = some (op.seq, .done []) ∧ t.waves = s.waves

/-! ### Rendezvous -/

/-- An arrival by `RDVA`, or by packet, that its checks accept is complete at once; before the guard it activates its rendezvous at the
instant that it names (R430, R431, R436). `RDVW` reads a word of a record (R437). The points of an instant (R431): at the guard an instant
without arrival is ABSENT, one whose frame is presented READY, another LATE; half-way a READY instant is GO or HELD; at its time the
departure is reported; its record is written last, once its page is served. A message of a member counts while its link is UP (R432).
These are the model's choices: a departure offset beyond 30 ns changes nothing (logs 59, 84), and the record waits for its page (log 59). -/
def Obligations.RendezvousComplete : Prop :=
  ((∀ (s : State) (e : Enc) (w : Wave) (sp : Split), Issues s .rdva e w sp → NoJoin e sp → Enabled .rdva e w sp → w.tls.length = 8 → ∀ o d s1 s2 n,
     let i := issueOf .rdva e w sp
     let va := (sp.spair e.a.toNat).toNat
     let fr := (sp.spair e.b.toNat).toNat
     va % 512 = 0 → fr % 256 = 0 → i.readOnce (issued .rdva e s w sp) va 512 = .ok o s1 → i.readOnce s1 fr 64 = .ok d s2 →
     arrivalOf s2 w.ctx va fr o d = .ok n →
     ∃ (t : State) (w' : Wave), exec (.rdva e) s = .next t ∧ GoesOn e w sp t w' ∧ (w'.tl 6).posted = (w.tl 6).posted + 1 ∧
       (∀ k, k ≠ w.uid → t.wave? k = s.wave? k) ∧ w'.pend = w.pend ∧
       (s.rdvAt w.ctx va = none → s.reached (roGuardAt o n) = false →
         ∃ (r : Rdv), t.rdvs = s.rdvs ++ [r] ∧ r.ctx = w.ctx ∧ r.va = va ∧ r.obj = o ∧ r.next = n ∧
           r.insts = [freshInst n .arrived ((s.frameAt w.ctx fr).map (·.id))] ∧ t.mem = s.mem ∧ t.frames = s.frames)) ∧
   (∀ (s : State) q index qu p o d s1 s2, s.waitingPacket q index 6 = some (qu, p) → s.heldPacket qu p = false → p.parked ≠ some .failed →
     let va := pktField p.body 8 8
     let fr := pktField p.body 16 8
     va % 512 = 0 → fr % 256 = 0 → s.cpRead qu.ctx va 512 = .ok (o, s1) → s1.cpRead qu.ctx fr 64 = .ok (d, s2) →
     (∀ n, arrivalOf s2 qu.ctx va fr o d = .ok n →
       ∃ (t : State), exec (.packetRdv q index) s = .next t ∧ t.queue? q = some (qu.complete index) ∧ t.waves = s.waves) ∧
     ((∀ n, arrivalOf s2 qu.ctx va fr o d ≠ .ok n) → exec (.packetRdv q index) s = .next (s2.packetFail q index 2))) ∧
   ∀ (s : State) (e : Enc) (w : Wave) (sp : Split), Issues s .rdvw e w sp → NoJoin e sp → Enabled .rdvw e w sp → ∀ o r s1 s2,
     let i := issueOf .rdvw e w sp
     let va := (sp.spair e.a.toNat).toNat
     let n := (sp.spair e.b.toNat).toNat
     let k := if e.form = .base then 0 else i.sC false % 256
     va % 512 = 0 → i.readOnce (issued .rdvw e s w sp) va 512 = .ok o s1 → rdvBad o = false →
     i.readOnce s1 (roRec o + 1024 * (n % 2 ^ roRlog o)) 1024 = .ok r s2 →
     GivesScalar .rdvw e (fun t => { s with tlb := t.tlb, counts := t.counts }) w sp false
       (if fld r 0 31 1 = 1 ∧ fld r 8 0 64 = n then fld r (4 * k) 0 32 else 0) (exec (.rdvw e) s)) ∧
  ((∀ (s : State) id r, s.rdv? id = some r → r.detach = false → s.reached (roGuardAt r.obj r.next) = true →
     (r.inst? r.next = none → ∃ (t : State) (r' : Rdv), exec (.rdvGuard id) s = .next t ∧ t.rdv? id = some r' ∧ r'.next = r.next + 1 ∧
       ∃ x ∈ r'.insts, x.n = r.next ∧ x.st = .absent) ∧
     ∀ x fid f, r.inst? r.next = some x → x.st = .arrived → x.frame = some fid → s.frame? fid = some f →
       ∃ (t : State) (r' : Rdv) (x' : RdvInst), exec (.rdvGuard id) s = .next t ∧ t.rdv? id = some r' ∧ r'.next = r.next + 1 ∧ r'.inst? r.next = some x' ∧
         x'.frame = x.frame ∧ (f.st = 2 → x'.st = .ready ∧ t.frames = s.frames) ∧
         (f.st ≠ 2 → x'.st = .late ∧ ∃ (f' : Frame), t.frame? fid = some f' ∧ f'.st = if f.tx = true ∧ f.st = 1 then 3 else f.st)) ∧
   (∀ (s : State) id r x, s.rdv? id = some r →
     r.insts.find? (fun x => !x.half && decide (x.n < r.next) && s.reached (roHalfAt r.obj x.n)) = some x →
     ∃ (t : State) (r' : Rdv) (x' : RdvInst), exec (.rdvHalfGuard id) s = .next t ∧ t.rdv? id = some r' ∧ x' ∈ r'.insts ∧ x'.n = x.n ∧ x'.half = true ∧
       (x.st ≠ .ready → x'.st = x.st) ∧
       (x.st = .ready → roCoherent r.obj = false ∨ (∀ m < roMembers r.obj, m = roSelf r.obj ∨ m ∈ x.readies) → x'.st = .go) ∧
       (x.st = .ready → roCoherent r.obj = true → (∃ m < roMembers r.obj, m ≠ roSelf r.obj ∧ m ∉ x.readies) → x'.st = .held)) ∧
   (∀ (s : State) id r x doff, s.rdv? id = some r →
     r.insts.find? (fun x => x.half && x.st != .sent && s.reached (rdvTime r.obj x.n)) = some x →
     (-30 ≤ doff ∧ doff ≤ 30 → ∃ (t : State), exec (.rdvInstant id doff) s = .next t ∧ t.waves = s.waves ∧
       ∀ r', t.rdv? id = some r' → ∀ x' ∈ r'.insts, x'.n = x.n → x'.st = .sent ∧
         x'.kind = (match x.st with | .go => 0 | .held => 2 | .absent => 3 | _ => 1)) ∧
     (30 < doff ∨ doff < -30 → exec (.rdvInstant id doff) s = .next s)) ∧
   (∀ (s : State) id r x, s.rdv? id = some r →
     r.insts.find? (fun x => x.st == .sent && (x.parked == some .ready || (x.parked.isNone && s.reached (roEndAt r.obj x.n)))) = some x →
     let va := roRec r.obj + 1024 * (x.n % 2 ^ roRlog r.obj)
     let ended (t : State) : Prop := ∀ r', t.rdv? id = some r' → ∀ x' ∈ r'.insts, x'.n ≠ x.n
     ∃ (t : State), exec (.rdvRecordDeadline id) s = .next t ∧
       (∀ pa tl, s.agentReach r.ctx (s.ctx r.ctx).ksup .write va 1024 = .ok (.phys pa, tl) → ended t ∧
         readLe t.mem pa 1024 = rdvRecord r.obj x % 2 ^ (8 * 1024) ∧
         ∀ a, a < pa ∨ pa + 1024 ≤ a → byteAt t.mem a = byteAt s.mem a) ∧
       (∀ c, s.agentReach r.ctx (s.ctx r.ctx).ksup .write va 1024 = .fail c → ended t ∧ t.mem = s.mem) ∧
       ∀ xl k s', s.agentReach r.ctx (s.ctx r.ctx).ksup .write va 1024 = .wait xl →
         parkFor s r.ctx va .write (engineAgent 2) xl = .ok (k, s') →
         t = s'.modInst r.id x.n fun x => { x with parked := some k }) ∧
   (∀ (s : State) id inst member r, s.rdv? id = some r → s.hears r.obj member = true → s.reached (roHalfAt r.obj inst) = false →
     (r.inst? inst).isSome = true ∨ (r.next ≤ inst ∧ r.detach = false) →
     ∃ (t : State) (r' : Rdv) (x : RdvInst), exec (.rdvReadyMessage id inst member) s = .next t ∧ t.rdv? id = some r' ∧ x ∈ r'.insts ∧ x.n = inst ∧
       member ∈ x.readies) ∧
   (∀ (s : State) id inst member r, s.rdv? id = some r → s.reached (roHalfAt r.obj inst) = true ∨ s.hears r.obj member = false →
     exec (.rdvReadyMessage id inst member) s = .next s) ∧
   (∀ (s : State) id inst member rep r, s.rdv? id = some r →
     (s.hears r.obj member = true → (∀ x ∈ r.insts, x.n = inst → x.parked = none) → ∃ (t : State), exec (.rdvReport id inst member rep) s = .next t ∧ t.waves = s.waves ∧
       ∀ r', t.rdv? id = some r' → ∀ x ∈ r'.insts, x.n = inst → (member, rep) ∈ x.reports) ∧
     (s.hears r.obj member = false → exec (.rdvReport id inst member rep) s = .next s)) ∧
   ∀ (s : State) slot va, slot < 64 → s.ctxs.length = 64 →
     ∃ (t : State), exec (.rdvDetach slot va) s = .next t ∧ (t.ctx slot).rdvdet = BitVec.ofNat 64 va ∧ t.mem = s.mem ∧
       ∀ r, s.rdvAt slot va = some r → ∀ r', t.rdv? r.id = some r' → r'.detach = true ∧
         (r'.insts.filter fun x => x.parked.isNone).length ≤ 1 ∧
         ∀ x ∈ r'.insts, x.n < r'.next)

/-! ### Contexts -/

/-- A command of a context has reported its status, and the notice vector of the context is pending (R326, R441). -/
def Reported (t : State) (slot status : Nat) : Prop :=
  (t.ctx slot).status = status ∧ (t.ctx slot).cmd = 0 ∧ 2 * slot + 1 ∈ t.msix

/-- The commands of a context from the states that accept them (R323, R325, R440): the next state, and 0 DONE, 1 BUSY or 2 FORMAT; a
command written while another is in progress waits. A `TERMINATE` that leaves no context running lets a staged PT take effect (R99). These
are the model's choices: the conditions of a SWITCH are checked at the command, and one that fails reports BUSY (log 67); every report
raises MSI-X vector 2s + 1, those of refused commands too (log 64). -/
def Obligations.ContextCommandsComplete : Prop :=
  ∀ (s : State) slot, slot < 64 → s.ctxs.length = 64 → s.answers = true →
    let c := s.ctx slot
    (c.cmd = 0 →
      (let f := fun off len => readLe s.mem (c.cdesc.toNat + off) len
       let bad := c.cdesc.toNat % 128 ≠ 0 ∨ s.readable c.cdesc.toNat 128 = false ∨ descBad s.mgmt.partn f = true
       ∃ (t : State), exec (.contextLoad slot) s = .next t ∧ t.mem = s.mem ∧
         (c.st ≠ .empty → Reported t slot 1 ∧ (t.ctx slot).st = c.st) ∧
         (c.st = .empty → bad → Reported t slot 2 ∧ (t.ctx slot).st = .empty) ∧
         (c.st = .empty → ¬bad → Reported t slot 0 ∧ (t.ctx slot).st = .loaded ∧ (t.ctx slot).ptroot = f 0 8 ∧
           (t.ctx slot).handler = BitVec.ofNat 64 (f 16 8) ∧ (t.ctx slot).part = f 12 4 / 2 ^ 8 % 8)) ∧
      (∃ (t : State), exec (.contextRun slot) s = .next t ∧ t.mem = s.mem ∧ t.waves = s.waves ∧
        (c.st ≠ .loaded → Reported t slot 1 ∧ (t.ctx slot).st = c.st) ∧
        (c.st = .loaded → c.part < s.mgmt.partn → s.partFree slot = false → Reported t slot 1 ∧ (t.ctx slot).st = .loaded) ∧
        (c.st = .loaded → s.mgmt.partn ≤ c.part → Reported t slot 2 ∧ (t.ctx slot).st = .loaded) ∧
        (c.st = .loaded → c.part < s.mgmt.partn → s.partFree slot = true → s.stabBad c = true →
          Reported t slot 2 ∧ (t.ctx slot).st = .loaded) ∧
        (c.st = .loaded → c.part < s.mgmt.partn → s.partFree slot = true → s.stabBad c = false →
          Reported t slot 0 ∧ (t.ctx slot).st = .running ∧ (t.ctx slot).binds = s.readBinds c)) ∧
      (∃ (t : State), exec (.contextPreempt slot) s = .next t ∧ t.mem = s.mem ∧ t.waves = s.waves ∧
        (c.st = .running → (t.ctx slot).st = .halting ∧ (t.ctx slot).cmd = 2) ∧
        (c.st ≠ .running → Reported t slot 1 ∧ (t.ctx slot).st = c.st)) ∧
      (∃ (t : State), exec (.contextSwapout slot) s = .next t ∧ t.waves = s.waves ∧
        (c.st = .halted ∨ c.st = .faulted → s.saveFits slot = true → (t.ctx slot).st = c.st ∧ (t.ctx slot).cmd = 3) ∧
        (c.st = .halted ∨ c.st = .faulted → s.saveFits slot = false → Reported t slot 2 ∧ (t.ctx slot).st = c.st)) ∧
      (∃ (t : State), exec (.contextResume slot) s = .next t ∧
        (c.st = .halted ∨ c.st = .faulted → s.stabBad c = false → Reported t slot 0 ∧ (t.ctx slot).st = .running ∧
          ∀ u w, t.wave? u = some w → w.ctx = slot → w.halted = false ∧ w.stuck = false) ∧
        (c.st = .swapped → c.part < s.mgmt.partn → c.blocks = some (partBlocks s.mgmt.partn c.part) → s.partFree slot = true →
          s.stabBad c = false → (t.ctx slot).st = .swapped ∧ (t.ctx slot).cmd = 4)) ∧
      (∀ b, ∃ (t : State), exec (.contextSwitch slot b) s = .next t ∧ t.waves = s.waves ∧
        (c.st = .running → s.switchable slot (b % 64) = true → s.saveFits slot = true → s.stabBad (s.ctx (b % 64)) = false →
          (t.ctx slot).st = .halting ∧ (t.ctx slot).why = .switch (b % 64) ∧ (t.ctx slot).cmd = 5) ∧
        (c.st ≠ .running ∨ s.switchable slot (b % 64) = false → Reported t slot 1 ∧ (t.ctx slot).st = c.st)) ∧
      (∃ (t : State), exec (.contextTerminate slot) s = .next t ∧
        (c.st = .empty → Reported t slot 1 ∧ t.mem = s.mem) ∧
        (c.st ≠ .empty → t = (s.terminate slot).applyStaged.report slot 0) ∧
        (c.st ≠ .empty → s.tb.staged = never → t.mem = s.mem ∧ Reported t slot 0 ∧ (t.ctx slot).st = .terminated ∧ (∀ w ∈ t.waves, w.ctx ≠ slot) ∧
          (∀ g ∈ t.groups, g.ctx ≠ slot) ∧ (∀ k ∈ t.kernels, k.ctx ≠ slot) ∧ ∀ e ∈ t.itable, e.ctx ≠ slot)) ∧
      (∃ (t : State), exec (.contextUnload slot) s = .next t ∧ t.mem = s.mem ∧
        (c.st = .terminated ∨ c.st = .loaded → Reported t slot 0 ∧ (t.ctx slot).st = .empty ∧ ∀ f ∈ t.frames, f.ctx ≠ slot) ∧
        (c.st ≠ .terminated → c.st ≠ .loaded → Reported t slot 1 ∧ (t.ctx slot).st = c.st))) ∧
    (c.cmd ≠ 0 → c.waitCmd = none → ∃ (t : State), exec (.contextPreempt slot) s = .next t ∧ t.waves = s.waves ∧
      (t.ctx slot).waitCmd = some (ccmdWord 2 0) ∧ (t.ctx slot).cmd = c.cmd ∧ (t.ctx slot).st = c.st)

/-- The halt and the exchange (R325, R327, R329-R331, R334): when no engine holds it, a HALTING context's waves halt and its state becomes
HALTED or FAULTED; a PT staged behind the present one takes effect with the last context that halts (R99); an exchange swaps a context
out, writing no byte outside its save area, or in; firmware moves an image that is in the way. These are the model's choices: the extent
of the save area and the comparison in place of check codes (log 66), and a step asked for before the halt can end changes nothing (log
84). -/
def Obligations.HaltsAndExchangesComplete : Prop :=
  (∀ (s : State) slot, slot < 64 → s.ctxs.length = 64 → (s.ctx slot).st = .halting →
    (s.haltWaits slot = true → exec (.partitionHalted slot) s = .next s) ∧
    (s.haltWaits slot = false → s.tb.staged ≠ never → s.tb.staged.toNat < s.pt.toNat →
      (∀ k < 64, k ≠ slot → (s.ctx k).st ≠ .running ∧ (s.ctx k).st ≠ .halting) →
      ∃ (t : State), exec (.partitionHalted slot) s = .next t ∧ t.pt = s.tb.staged ∧ t.tb.st = 0 ∧ t.tb.staged = never) ∧
    (s.haltWaits slot = false → s.tb.staged = never ∨ (∃ k < 64, k ≠ slot ∧ ((s.ctx k).st = .running ∨ (s.ctx k).st = .halting)) →
      ∃ (t : State), exec (.partitionHalted slot) s = .next t ∧ (∀ w ∈ t.waves, w.ctx = slot → w.halted = true) ∧
      ((s.ctx slot).why = .fault → (t.ctx slot).st = .faulted ∧ 2 * slot + 1 ∈ t.msix) ∧
      ((s.ctx slot).why ≠ .fault → (t.ctx slot).st = .halted) ∧
      ((s.ctx slot).why ≠ .fault → (s.ctx slot).cmd = 2 → (s.ctx slot).why = .preempt → Reported t slot 0))) ∧
  (∀ (s : State) slot, slot < 64 → s.ctxs.length = 64 →
    let c := s.ctx slot
    (c.cmd = 3 → c.st = .halted ∨ c.st = .faulted → s.rmwOpen slot = false → s.hampersTaken slot none = false →
      ∃ (t : State), exec (.hamperExchangeComplete slot) s = .next t ∧ (t.ctx slot).st = .swapped ∧ (t.ctx slot).image = .hampers ∧
        (t.ctx slot).blocks = some (partBlocks s.mgmt.partn c.part) ∧ Reported t slot 0 ∧ t.waves = s.waves ∧
        ∀ a, a < c.save ∨ c.save + s.saveNeed slot ≤ a → byteAt t.mem a = byteAt s.mem a) ∧
    (∀ b, c.cmd = 5 → c.st = .halted → c.why = .switch b → b < 64 → b ≠ slot → s.rmwOpen slot = false →
      s.hampersTaken slot (some b) = false → (s.ctx b).st = .swapped → (s.swapOut slot).saveIntact (s.ctx b) = true → s.power = .d0 →
      ∃ (t : State), exec (.hamperExchangeComplete slot) s = .next t ∧ (t.ctx slot).st = .swapped ∧ (t.ctx b).st = .running ∧
        Reported t slot 0 ∧ ∀ u w, t.wave? u = some w → w.ctx = b → w.halted = false) ∧
    (c.cmd = 4 → c.st = .swapped → s.power = .d0 →
      (s.saveIntact c = true → ∃ (t : State), exec (.hamperExchangeComplete slot) s = .next t ∧ (t.ctx slot).st = .running ∧
        Reported t slot 0 ∧ ∀ u w, t.wave? u = some w → w.ctx = slot → w.halted = false) ∧
      (s.saveIntact c = false → ∃ (t : State), exec (.hamperExchangeComplete slot) s = .next t ∧ (t.ctx slot).st = .terminated ∧
        t.mgmt.elogn = (s.mgmt.elogn + 1) % 2 ^ 32 ∧ 128 ∈ t.msix ∧ ∀ w ∈ t.waves, w.ctx ≠ slot))) ∧
  ∀ (s : State) slot k r, slot < 64 → s.ctxs.length = 64 → (s.ctx slot).st = .swapped → (s.ctx slot).image = .hampers →
    (s.ctx slot).blocks = some r → k < 64 → k ≠ slot → (s.ctx k).cmd = 3 →
    r.1 < (partBlocks s.mgmt.partn (s.ctx k).part).2 → (partBlocks s.mgmt.partn (s.ctx k).part).1 < r.2 →
    ∃ (t : State), exec (.hamperImageDisplace slot) s = .next t ∧ (t.ctx slot).image = .gddr ∧ (t.ctx slot).st = .swapped ∧
      { t with ctxs := s.ctxs } = s

/-! ### Time, issue and platform -/

/-- The timebase (R96-R101): its states on measurements, losses and edges, the backward step once no context runs, and the ticks. A tick
performs an sc operation that has drained: it takes its place in S, a store writes its bytes, a load's registers take the bytes of memory,
and the split goes on (R198, R199). A class that has waited for 64 issue choices is owed one (R126); a split with 256 consecutive issues
is marked (R127). These are the model's choices: starvation is counted in issue choices instead of cycles (log 49); when PTP runs (log
72); best-master selection as an argument (log 81); the count that carries over (log 94); and an event whose condition does not hold
changes nothing (log 84). -/
def Obligations.TimebaseAndIssueSteps : Prop :=
  ((∀ s : State, ∃ (t : State), exec .deviceHeartbeatTick s = .next t ∧ t.hbTicks = s.hbTicks + 1 ∧ t.pt = s.pt ∧ t.tb = s.tb ∧
     ((∀ w ∈ s.waves, ∀ p ∈ w.splits, ∀ b l n k, p.st ≠ .blocked (.scTick b l n k)) → t = { s with hbTicks := s.hbTicks + 1 })) ∧
   (∀ s : State, (s.ptTicks + 1 ≤ s.pt.toNat / 1000 → ∃ (t : State), exec .ptTick s = .next t ∧ t.ptTicks = s.ptTicks + 1 ∧ t.pt = s.pt) ∧
     (s.pt.toNat / 1000 < s.ptTicks + 1 → exec .ptTick s = .next s)) ∧
   (∀ (s : State) sys (w : Wave) n p len num work, scWaiting s sys = [(w, n, len, work, num)] → s.wave? w.uid = some w →
     w.split? n = some p → p.stack = [] → (sys = true → s.ptTicks + 1 ≤ s.pt.toNat / 1000) →
     let s1 := ticked s sys (w.core * 64 + w.lane) num
     let tick := if sys then Instr.ptTick else Instr.deviceHeartbeatTick
     let gone : Split := { p with st := .ready, replay := none, held := none, begun := false,
                                  pc := p.pc + BitVec.ofNat 64 (4 * len) }
     (work = .fence → ∃ (t : State), exec tick s = .next t ∧ Released s1 t w.uid w p len) ∧
     (∀ scope a pa, work = .ops 4 scope .store none [a] → a.place = .phys pa → (∀ m ∈ s.stores, m.seq < s.nextUid) →
       ∃ (t : State) (w' : Wave), exec tick s = .next t ∧ t.sOrder = s1.sOrder ∧ t.stores = s.stores ∧ t.hostMem = s.hostMem ∧
         t.wave? w.uid = some w' ∧ { w' with splits := w.splits } = w ∧ w'.split? n = some gone ∧
         (∀ x, x < pa ∨ pa + a.size ≤ x → byteAt t.mem x = byteAt s.mem x) ∧
         ∀ k < a.size, byteAt t.mem (pa + k) = BitVec.ofNat 8 (a.data / 2 ^ (8 * k))) ∧
     (∀ d sz a pa q r m, work = .load d sz [a] → a.place = .phys pa → a.thread < 32 → w.pend.find? (fun q => q.seq == num) = some q →
       q.dst = .vec r m →
       ∃ (t : State) (w' : Wave), exec tick s = .next t ∧ t.sOrder = s1.sOrder ∧ { t with waves := s.waves } = { s1 with waves := s.waves } ∧
         t.wave? w.uid = some w' ∧ w'.split? n = some gone ∧
         (∀ k < m, w'.vreg (r + k) a.thread = BitVec.ofNat 32 (loadValue sz (readLe s.mem pa a.size) / 2 ^ (32 * k))) ∧
         ∀ t' < 32, ∀ k, t' ≠ a.thread ∨ k < r ∨ r + m ≤ k → w'.vreg k t' = w.vreg k t')) ∧
   (∀ s : State, s.tb.staged ≠ never → (∀ c ∈ s.ctxs, c.st ≠ .running ∧ c.st ≠ .halting) →
     s.tb.staged.toNat < s.pt.toNat → ∃ (t : State), exec .backwardStep s = .next t ∧ t.pt = s.tb.staged ∧ t.tb.st = 0 ∧ t.tb.src = 0xFF ∧
       t.tb.staged = never ∧ t.tb.steps = (s.tb.steps + 1) % 2 ^ 16 ∧ t.mem = s.mem ∧ t.waves = s.waves) ∧
   (∀ s : State, s.tb.staged = never ∨ (∃ c ∈ s.ctxs, c.st = .running ∨ c.st = .halting) →
     exec .backwardStep s = .next s) ∧
   (∀ (s : State) port, port < 16 → s.mgmt.ptpen.getLsbD port = true → s.portUp port = true → s.ptpRuns = true →
     ∃ (t : State), exec (.ptpAnnounce port true) s = .next t ∧ t.tb.src = port ∧ t.tb.st = (if s.tb.st = 0 then 1 else s.tb.st) ∧
       { t with tb := s.tb } = s) ∧
   (∀ (s : State) port, exec (.ptpAnnounce port false) s = .next s) ∧
   (∀ (s : State) off, s.tb.src < 16 → s.tb.st ≠ 0 → -20 ≤ off ∧ off ≤ 20 → ∃ (t : State), exec (.syncMeasurement off) s = .next t ∧
     { t with tb := s.tb } = s ∧ t.tb.offset = off ∧
     (s.tb.st = 1 → s.tb.good = 7 → t.tb.st = 2) ∧ (s.tb.st = 1 → s.tb.good < 7 → t.tb.st = 1 ∧ t.tb.good = s.tb.good + 1) ∧
     (s.tb.st = 2 ∨ s.tb.st = 3 → t.tb.st = 2)) ∧
   (∀ (s : State) off, s.tb.src < 16 → s.tb.st = 2 → 1000 < off → off ≤ 1000000 → ∃ (t : State), exec (.syncMeasurement off) s = .next t ∧
     { t with tb := s.tb } = s ∧ t.tb.st = 1) ∧
   (∀ s : State, ∃ (t : State), exec .announceTimeout s = .next t ∧ { t with tb := s.tb } = s ∧
     t.tb.st = (match s.tb.st with | 1 => 0 | 2 => 3 | n => n)) ∧
   (∀ s : State, s.mgmt.ptpen.getLsbD 16 = true → 16 ≤ s.tb.src → s.tb.st = 0 → s.ptpRuns = true →
     ∃ (t : State), exec .onePpsEdge s = .next t ∧
     { t with tb := s.tb } = s ∧ t.tb.st = 1 ∧ t.tb.src = 0xFE) ∧
   (∀ s : State, s.mgmt.ptpen.getLsbD 16 = false ∨ s.ptpRuns = false → exec .onePpsEdge s = .next s) ∧
   (∀ (s : State) v, v = never ∨ (∃ c ∈ s.ctxs, c.st = .running ∨ c.st = .halting) →
     exec (.ptsetWrite v) s = .next { s with tb := { s.tb with staged := v } }) ∧
   (∀ (s : State) v, v ≠ never → (∀ c ∈ s.ctxs, c.st ≠ .running ∧ c.st ≠ .halting) → v.toNat < s.pt.toNat →
     ∃ (t : State), exec (.ptsetWrite v) s = .next t ∧ t.pt = v ∧ t.tb.st = 0 ∧ t.tb.staged = never ∧ t.mem = s.mem ∧ t.waves = s.waves) ∧
   (∀ s : State, ∃ (t : State), exec (.ptpenWrite 0) s = .next t ∧ t.mgmt.ptpen = 0 ∧ t.tb.st = 0 ∧ t.tb.src = 0xFF) ∧
   (∀ (s : State) v, v &&& 0x1FFFF#64 ≠ 0 → ∃ (t : State), exec (.ptpenWrite v) s = .next t ∧
     t.mgmt.ptpen = v.setWidth 32 &&& 0xFF07FFFF#32 ∧ t.tb = s.tb)) ∧
  ((∀ (s : State) core sector cls,
     (64 ≤ s.starved core sector cls → s.owed.contains (core, sector, cls) = false →
       exec (.sectorOwedIssue core sector cls) s = .next { s with owed := s.owed ++ [(core, sector, cls)] }) ∧
     (s.starved core sector cls < 64 →
       exec (.sectorOwedIssue core sector cls) s = .next s)) ∧
   ∀ (s : State) u n (w : Wave) p, s.wave? u = some w → w.split? n = some p → 256 ≤ p.issues →
     ∃ (t : State) (w' : Wave), exec (.rotationLimit u n) s = .next t ∧ OnlyWave s t u ∧ t.wave? u = some w' ∧ { w' with splits := w.splits } = w ∧
       w'.split? n = some { p with marked := if rivals s w n = [] then none else some (rivals s w n), issues := 0 })

/-- Accesses of the host (R438-R440, R444-R447, R449): `partn`, `pwrcap`, `stglen`, `bclr`, `attn`, `rwdata`, the aperture, and plain
registers; a write outside the range of `partn` or `pwrcap`, one that R185 refuses, one beyond device memory, and one whose size or
alignment is not accepted change nothing. The arithmetic clock stays within its range. These are the model's choices: a number too wide
for its field is taken modulo its size, as of `node` and `pwrcap` (log 71); which registers answer when (log 73); an adjustment out of
range changes nothing (log 84); the certificate and the signature are opaque (log 75), and the digests are those of FIPS 180-4 (log 105). -/
def Obligations.HostAccessesComplete : Prop :=
  (∀ (s : State) v, (∀ c ∈ s.ctxs, c.occupies = false) → v = 1 ∨ v = 2 ∨ v = 4 ∨ v = 8 →
    exec (.partnWrite v) s = .next { s with mgmt := { s.mgmt with partn := v.toNat } }) ∧
  (∀ (s : State) v, (∃ c ∈ s.ctxs, c.st = .running ∨ c.st = .halting ∨ c.st = .halted ∨ c.st = .faulted) →
    exec (.partnWrite v) s = .next s) ∧
  (∀ (s : State) v, v ≠ 1 → v ≠ 2 → v ≠ 4 → v ≠ 8 → exec (.partnWrite v) s = .next s) ∧
  (∀ (s : State) v, let n := v.toNat % 2 ^ 16
    (600 ≤ n → n ≤ 1150 → exec (.pwrcapWrite v) s = .next { s with mgmt := { s.mgmt with pwrcap := n } }) ∧
    (n < 600 ∨ 1150 < n → exec (.pwrcapWrite v) s = .next s)) ∧
  (∀ (s : State) mhz, (1300 ≤ mhz → mhz ≤ 2600 → exec (.clockAdjust mhz) s = .next { s with arithMHz := mhz }) ∧
    (mhz < 1300 ∨ 2600 < mhz → exec (.clockAdjust mhz) s = .next s)) ∧
  (∀ (s : State) v, s.boot.phase = 1 ∨ s.boot.phase = 3 → v.toNat ≤ 2 ^ 25 →
    exec (.stglenWrite v) s = .next { s with boot := { s.boot with staged := some v.toNat } }) ∧
  (∀ (s : State) v, (s.boot.phase ≠ 1 ∧ s.boot.phase ≠ 3) ∨ 2 ^ 25 < v.toNat → exec (.stglenWrite v) s = .next s) ∧
  (∀ s : State, ∃ (t : State), exec (.bclrWrite 1) s = .next t ∧ { t with boot := s.boot } = s ∧
    (∀ x ∈ t.boot.steps, x.count = 0 ∧ x.level = 0) ∧ t.boot.ring = s.boot.ring) ∧
  (∀ s : State, s.mgmt.attn = false → ∃ (t : State), exec (.attnWrite 1) s = .next t ∧ { t with mgmt := s.mgmt } = s ∧
    t.mgmt.attn = true ∧ ∀ k < 64, byteAt t.mgmt.report k = byteAt s.mgmt.nonce k) ∧
  (∀ (s : State) x, s.mgmt.attn = true → ∃ (t : State), exec (.attestationReportReady x) s = .next t ∧
    { t with mgmt := s.mgmt } = s ∧ t.mgmt.attn = false ∧
    (∀ k < 64, byteAt t.mgmt.report (64 + k) = (sha512 s.boot.imageLen s.boot.image).getD k 0) ∧
    (∀ k < 64, byteAt t.mgmt.report (128 + k) = (sha512 4096 s.boot.ring).getD k 0) ∧
    readLe t.mgmt.report 192 4 = Config.minVersion.toNat ∧ readLe t.mgmt.report 196 4 = s.mgmt.partn % 2 ^ 32 ∧
    (∀ k < 132, byteAt t.mgmt.report (200 + k) =
      (Config.signature ((List.range 200).map (byteAt t.mgmt.report)) x).extractLsb' (8 * (131 - k)) 8) ∧
    ∀ k < 64, byteAt t.mgmt.report k = byteAt s.mgmt.report k) ∧
  (∀ (s : State) slot size, s.answers = true →
    (∀ p, s.rwPlace slot size .load = some p → s.ownsPlace slot p = true →
      exec (.rwdataRead slot size) s = .next (s.answerRead (BitVec.ofNat 64 (s.readPlace outside p size)))) ∧
    (∀ p, s.rwPlace slot size .load = some p → s.ownsPlace slot p = false →
      exec (.rwdataRead slot size) s = .next (s.answerRead 0)) ∧
    (s.rwPlace slot size .load = none → exec (.rwdataRead slot size) s = .next (s.answerRead (allOnes size))) ∧
    (∀ v p, s.rwPlace slot size .store = some p →
      exec (.rwdataWrite slot size v) s = .next (({ s with nextUid := s.nextUid + 1 } : State).store s.nextUid p v.toNat size)) ∧
    (s.rwPlace slot size .store = none → ∀ v, exec (.rwdataWrite slot size v) s = .next s)) ∧
  (∀ (s : State) off size, s.answers = true → hostSized off size = true → off < 2 ^ 24 →
    let pa := s.mgmt.apbase + off
    (inDevice pa size = true → s.badAt pa size = false →
      exec (.apertureRead off size) s = .next (s.answerRead (BitVec.ofNat 64 (readLe s.mem pa size))) ∧
      ∀ v, ∃ (t : State), exec (.apertureWrite off size v) s = .next t ∧ readLe t.mem pa size = v.toNat % 2 ^ (8 * size) ∧
        (∀ a, a < pa ∨ pa + size ≤ a → byteAt t.mem a = byteAt s.mem a) ∧ t.waves = s.waves) ∧
    (inDevice pa size = true → s.badAt pa size = true → ∃ (t : State), exec (.apertureRead off size) s = .next t ∧
      t.out = s.out ++ [.read (allOnes size)] ∧ t.mgmt.elogn = (s.mgmt.elogn + 1) % 2 ^ 32 ∧ 128 ∈ t.msix) ∧
    (inDevice pa size = false → exec (.apertureRead off size) s = .next (s.answerRead (allOnes size)) ∧
      ∀ v, exec (.apertureWrite off size v) s = .next s)) ∧
  (∀ (s : State) off size v, hostSized off size = false → exec (.registerWrite off size v) s = .next s) ∧
  (∀ (s : State) v, s.power = .d0 →
    exec (.registerWrite 0x18 8 v) s = .next { s with mgmt := { s.mgmt with node := v.toNat % 2 ^ 16 } }) ∧
  (∀ (s : State) v, s.power = .d0 → v.toNat % 4096 = 0 →
    exec (.registerWrite 0xD0 8 v) s = .next { s with mgmt := { s.mgmt with elog := v.toNat } }) ∧
  ∀ (s : State) v, s.answers = true → exec (.registerWrite 0x100008 8 v) s = .next (s.modCtx 0 fun c => { c with cdesc := v })

/-- Power and images (R445, R446, R448): a power-up leaves the state after reset but for the boot record and flash, host memory, and the
model's own agenda, numbers and output (logs 1, 2); a loss of power keeps flash; D3hot pre-empts every RUNNING context and takes the ports
down, with the timebase's source; the write to flash of a verified image begins, and it runs in phase 1. These are the model's choices:
what a power-up and a loss of power keep (log 76); the flash write as a step of its own (log 74); what makes an image valid (log 75); and
a return to D0 from another state changes nothing (log 84). -/
def Obligations.PowerAndImagesComplete : Prop :=
  (∀ (s : State) os, ∃ (t : State), exec (.powerUp os) s = .next t ∧ t.boot.flash = s.boot.flash ∧
    t = { State.reset with agenda := s.agenda, freeCtr := s.freeCtr, nextUid := s.nextUid, hostMem := s.hostMem, out := s.out,
                           boot := t.boot, msix := [129] }) ∧
  (∀ s : State, ∃ (t : State), exec .powerLoss s = .next t ∧ t.power = .off ∧ t.mem = [] ∧ t.hostMem = s.hostMem ∧ t.waves = [] ∧
    t.boot.flash = s.boot.flash ∧ t.boot.steps = s.boot.steps ∧ t.boot.ring = s.boot.ring) ∧
  (∀ s : State, s.power = .d0 → ∃ (t : State), exec .d3hotEntry s = .next t ∧ t.power = .d3hot ∧
    (∀ c, (t.ctx c).st = if (s.ctx c).st = .running then .halting else (s.ctx c).st) ∧ (∀ p < 16, t.portUp p = false) ∧
    t.tb.st = (match s.tb.st with | 1 => 0 | 2 => 3 | n => n)) ∧
  (∀ s : State, s.power = .d3hot → exec .d0Return s = .next { s with power := .d0 }) ∧
  (∀ s : State, s.power ≠ .d3hot → exec .d0Return s = .next s) ∧
  ∀ (s : State) n, s.boot.staged = some n →
    let ok := imageOk n (stagedImage s n)
    exec (.imageVerificationDone !ok) s = .next s ∧
    ∃ (t : State), exec (.imageVerificationDone ok) s = .next t ∧ t.boot.staged = none ∧
      t.boot.flash = s.boot.flash ∧ { t with boot := s.boot, msix := s.msix } = s ∧
      (ok = false → t = { s with boot := { s.boot with staged := none } }) ∧
      (ok = true → t.boot.writing = some (n, stagedImage s n) ∧ (s.boot.phase = 1 → t.boot.image = stagedImage s n ∧ 129 ∈ t.msix))

/-! ### The whole machine -/

/-- What reset leaves (R96, R98, R325, R413, R439, R446): every context EMPTY, every link DOWN, no wave, no queue, the timebase in
FREERUN with PT 0, `partn` 1, and memory with nothing listed. `partn`, PT and the register contents are the model's where the
spec gives none (logs 4-10). -/
def Obligations.ResetValues : Prop :=
  (∀ c < 64, (State.reset.ctx c).st = .empty) ∧ (∀ l < 16, (State.reset.link l).st = 0) ∧ State.reset.waves = [] ∧
  State.reset.queues = [] ∧ State.reset.pt = 0 ∧ State.reset.tb.st = 0 ∧ State.reset.tb.src = 0xFF ∧
  State.reset.tb.staged = never ∧ State.reset.mgmt.partn = 1 ∧ State.reset.mem = [] ∧ State.reset.hostMem = [] ∧
  MemInv State.reset

/-- Every step, of every agent and from every state, keeps the canonical form of both memories. -/
def Obligations.MemoryStaysCanonical : Prop :=
  ∀ (s : State) t, MemInv s → step s = .next t → MemInv t

/-! ### Worked encodings -/

/-- The words decode to an instruction of an opcode with these operand numbers and kinds. -/
def DecodesTo (ws : List Word) (op : Op) (d a b c : Nat) (ak bk ck : Kind) : Prop :=
  ∃ e, decodeWords ws = .ok (Instr.ofOp e op) ∧ e.d.toNat = d ∧ e.a.toNat = a ∧ e.b.toNat = b ∧ e.c.toNat = c ∧ e.ak = ak ∧
    e.bk = bk ∧ e.ck = ck

/-- The worked encodings of the spec: `IADD v5, v1, v2`; `IADD.s64 v6, v2, 0x1_0000_0000`; `(!p2) FFMA.rz v8|b1, v3, s7, v9`; `CVT.f16.f32
v4, v1, v2`; `SSEL s56, s57, s56, p1`; `(p1) ST.glb v2, v6, s48`; `SLD.s64 s42, s16, 8`; `RSVM q1, q0, v4, v6`; and the unassigned 0x39.
The word of `SLD.s64 s42, s16, 8` is 0x0040_AA32, which the parts of its row make, where the row prints 0x0040_A832: the model's choice
(log 82). -/
def Obligations.WorkedEncodingsDecode : Prop :=
  DecodesTo [0x04041404] .iadd 5 1 2 0 .vec .vec .vec ∧
  DecodesTo [0x04081805, 0, 1] .iadd 6 2 0 0 .vec .imm .vec ∧
  DecodesTo [0x0E0C208E, 0x206A0908, 0] .ffma 8 3 7 9 .vec .sca .vec ∧
  DecodesTo [0x040410CA, 0x18070000, 1] .cvt 4 1 2 0 .vec .vec .vec ∧
  DecodesTo [0x70E4E17A, 0x00070109, 0] .ssel 56 57 56 1 .sca .sca .vec ∧
  DecodesTo [0x0C080206, 0x00013040, 0] .st 0 2 6 48 .vec .vec .sca ∧
  DecodesTo [0x0040AA32, 0x00070019, 0x00020002] .sld 42 16 0 0 .sca .imm .vec ∧
  DecodesTo [0x0800070A, 0x00070600, 0] .rsvm 1 0 4 6 .vec .vec .vec ∧
  decodeWords [0x000000E6, 0, 0] = .ok (.unassignedOpcode 0x39 2)
end

