-- ==== Sys2Proof/Laws/Exec.lean ====
section
/-! SUPPORT. `exec` on each constructor: one equation per arm, each true by `rfl`, so that no proof unfolds the whole dispatch. -/

namespace Sys2Proof.Machine

theorem exec_nop (e : Enc) (s : State) : exec (.nop e) s = execNop e s := rfl
theorem exec_iadd (e : Enc) (s : State) : exec (.iadd e) s = execIadd e s := rfl
theorem exec_isub (e : Enc) (s : State) : exec (.isub e) s = execIsub e s := rfl
theorem exec_imul (e : Enc) (s : State) : exec (.imul e) s = execImul e s := rfl
theorem exec_imulh (e : Enc) (s : State) : exec (.imulh e) s = execImulh e s := rfl
theorem exec_imad (e : Enc) (s : State) : exec (.imad e) s = execImad e s := rfl
theorem exec_imin (e : Enc) (s : State) : exec (.imin e) s = execImin e s := rfl
theorem exec_imax (e : Enc) (s : State) : exec (.imax e) s = execImax e s := rfl
theorem exec_iabs (e : Enc) (s : State) : exec (.iabs e) s = execIabs e s := rfl
theorem exec_ineg (e : Enc) (s : State) : exec (.ineg e) s = execIneg e s := rfl
theorem exec_and (e : Enc) (s : State) : exec (.and e) s = execAnd e s := rfl
theorem exec_or (e : Enc) (s : State) : exec (.or e) s = execOr e s := rfl
theorem exec_xor (e : Enc) (s : State) : exec (.xor e) s = execXor e s := rfl
theorem exec_not (e : Enc) (s : State) : exec (.not e) s = execNot e s := rfl
theorem exec_andn (e : Enc) (s : State) : exec (.andn e) s = execAndn e s := rfl
theorem exec_shl (e : Enc) (s : State) : exec (.shl e) s = execShl e s := rfl
theorem exec_shr (e : Enc) (s : State) : exec (.shr e) s = execShr e s := rfl
theorem exec_sar (e : Enc) (s : State) : exec (.sar e) s = execSar e s := rfl
theorem exec_bfe (e : Enc) (s : State) : exec (.bfe e) s = execBfe e s := rfl
theorem exec_bfi (e : Enc) (s : State) : exec (.bfi e) s = execBfi e s := rfl
theorem exec_popc (e : Enc) (s : State) : exec (.popc e) s = execPopc e s := rfl
theorem exec_clz (e : Enc) (s : State) : exec (.clz e) s = execClz e s := rfl
theorem exec_ctz (e : Enc) (s : State) : exec (.ctz e) s = execCtz e s := rfl
theorem exec_brev (e : Enc) (s : State) : exec (.brev e) s = execBrev e s := rfl
theorem exec_bperm (e : Enc) (s : State) : exec (.bperm e) s = execBperm e s := rfl
theorem exec_icmp (e : Enc) (s : State) : exec (.icmp e) s = execIcmp e s := rfl
theorem exec_sel (e : Enc) (s : State) : exec (.sel e) s = execSel e s := rfl
theorem exec_mov (e : Enc) (s : State) : exec (.mov e) s = execMov e s := rfl
theorem exec_dp4 (e : Enc) (s : State) : exec (.dp4 e) s = execDp4 e s := rfl
theorem exec_xset (e : Enc) (s : State) : exec (.xset e) s = execXset e s := rfl
theorem exec_ldx (e : Enc) (s : State) : exec (.ldx e) s = execLdx e s := rfl
theorem exec_stx (e : Enc) (s : State) : exec (.stx e) s = execStx e s := rfl
theorem exec_fadd (e : Enc) (s : State) : exec (.fadd e) s = execFadd e s := rfl
theorem exec_fsub (e : Enc) (s : State) : exec (.fsub e) s = execFsub e s := rfl
theorem exec_fmul (e : Enc) (s : State) : exec (.fmul e) s = execFmul e s := rfl
theorem exec_ffma (e : Enc) (s : State) : exec (.ffma e) s = execFfma e s := rfl
theorem exec_fmin (e : Enc) (s : State) : exec (.fmin e) s = execFmin e s := rfl
theorem exec_fmax (e : Enc) (s : State) : exec (.fmax e) s = execFmax e s := rfl
theorem exec_fcmp (e : Enc) (s : State) : exec (.fcmp e) s = execFcmp e s := rfl
theorem exec_fclass (e : Enc) (s : State) : exec (.fclass e) s = execFclass e s := rfl
theorem exec_frnd (e : Enc) (s : State) : exec (.frnd e) s = execFrnd e s := rfl
theorem exec_fscl (e : Enc) (s : State) : exec (.fscl e) s = execFscl e s := rfl
theorem exec_fexp (e : Enc) (s : State) : exec (.fexp e) s = execFexp e s := rfl
theorem exec_faddp (e : Enc) (s : State) : exec (.faddp e) s = execFaddp e s := rfl
theorem exec_fsubp (e : Enc) (s : State) : exec (.fsubp e) s = execFsubp e s := rfl
theorem exec_fmulp (e : Enc) (s : State) : exec (.fmulp e) s = execFmulp e s := rfl
theorem exec_ffmap (e : Enc) (s : State) : exec (.ffmap e) s = execFfmap e s := rfl
theorem exec_fminp (e : Enc) (s : State) : exec (.fminp e) s = execFminp e s := rfl
theorem exec_fmaxp (e : Enc) (s : State) : exec (.fmaxp e) s = execFmaxp e s := rfl
theorem exec_fcmpp (e : Enc) (s : State) : exec (.fcmpp e) s = execFcmpp e s := rfl
theorem exec_cvt (e : Enc) (s : State) : exec (.cvt e) s = execCvt e s := rfl
theorem exec_pkmx (e : Enc) (s : State) : exec (.pkmx e) s = execPkmx e s := rfl
theorem exec_upmx (e : Enc) (s : State) : exec (.upmx e) s = execUpmx e s := rfl
theorem exec_pkq4 (e : Enc) (s : State) : exec (.pkq4 e) s = execPkq4 e s := rfl
theorem exec_upq4 (e : Enc) (s : State) : exec (.upq4 e) s = execUpq4 e s := rfl
theorem exec_sfq (e : Enc) (s : State) : exec (.sfq e) s = execSfq e s := rfl
theorem exec_waitk (e : Enc) (s : State) : exec (.waitk e) s = execWaitk e s := rfl
theorem exec_shfl (e : Enc) (s : State) : exec (.shfl e) s = execShfl e s := rfl
theorem exec_vote (e : Enc) (s : State) : exec (.vote e) s = execVote e s := rfl
theorem exec_ballot (e : Enc) (s : State) : exec (.ballot e) s = execBallot e s := rfl
theorem exec_redw (e : Enc) (s : State) : exec (.redw e) s = execRedw e s := rfl
theorem exec_scanw (e : Enc) (s : State) : exec (.scanw e) s = execScanw e s := rfl
theorem exec_matchT (e : Enc) (s : State) : exec (.matchT e) s = execMatchT e s := rfl
theorem exec_movs (e : Enc) (s : State) : exec (.movs e) s = execMovs e s := rfl
theorem exec_sadd (e : Enc) (s : State) : exec (.sadd e) s = execSadd e s := rfl
theorem exec_ssub (e : Enc) (s : State) : exec (.ssub e) s = execSsub e s := rfl
theorem exec_smul (e : Enc) (s : State) : exec (.smul e) s = execSmul e s := rfl
theorem exec_smulh (e : Enc) (s : State) : exec (.smulh e) s = execSmulh e s := rfl
theorem exec_sand (e : Enc) (s : State) : exec (.sand e) s = execSand e s := rfl
theorem exec_sor (e : Enc) (s : State) : exec (.sor e) s = execSor e s := rfl
theorem exec_sxor (e : Enc) (s : State) : exec (.sxor e) s = execSxor e s := rfl
theorem exec_snot (e : Enc) (s : State) : exec (.snot e) s = execSnot e s := rfl
theorem exec_sshl (e : Enc) (s : State) : exec (.sshl e) s = execSshl e s := rfl
theorem exec_sshr (e : Enc) (s : State) : exec (.sshr e) s = execSshr e s := rfl
theorem exec_ssar (e : Enc) (s : State) : exec (.ssar e) s = execSsar e s := rfl
theorem exec_smin (e : Enc) (s : State) : exec (.smin e) s = execSmin e s := rfl
theorem exec_smax (e : Enc) (s : State) : exec (.smax e) s = execSmax e s := rfl
theorem exec_scmp (e : Enc) (s : State) : exec (.scmp e) s = execScmp e s := rfl
theorem exec_ssel (e : Enc) (s : State) : exec (.ssel e) s = execSsel e s := rfl
theorem exec_smov (e : Enc) (s : State) : exec (.smov e) s = execSmov e s := rfl
theorem exec_sbfe (e : Enc) (s : State) : exec (.sbfe e) s = execSbfe e s := rfl
theorem exec_spopc (e : Enc) (s : State) : exec (.spopc e) s = execSpopc e s := rfl
theorem exec_sclz (e : Enc) (s : State) : exec (.sclz e) s = execSclz e s := rfl
theorem exec_srdl (e : Enc) (s : State) : exec (.srdl e) s = execSrdl e s := rfl
theorem exec_pand (e : Enc) (s : State) : exec (.pand e) s = execPand e s := rfl
theorem exec_por (e : Enc) (s : State) : exec (.por e) s = execPor e s := rfl
theorem exec_pxor (e : Enc) (s : State) : exec (.pxor e) s = execPxor e s := rfl
theorem exec_pnot (e : Enc) (s : State) : exec (.pnot e) s = execPnot e s := rfl
theorem exec_pmov (e : Enc) (s : State) : exec (.pmov e) s = execPmov e s := rfl
theorem exec_segw (e : Enc) (s : State) : exec (.segw e) s = execSegw e s := rfl
theorem exec_actm (e : Enc) (s : State) : exec (.actm e) s = execActm e s := rfl
theorem exec_bra (e : Enc) (s : State) : exec (.bra e) s = execBra e s := rfl
theorem exec_brc (e : Enc) (s : State) : exec (.brc e) s = execBrc e s := rfl
theorem exec_brx (e : Enc) (s : State) : exec (.brx e) s = execBrx e s := rfl
theorem exec_join (e : Enc) (s : State) : exec (.join e) s = execJoin e s := rfl
theorem exec_call (e : Enc) (s : State) : exec (.call e) s = execCall e s := rfl
theorem exec_callx (e : Enc) (s : State) : exec (.callx e) s = execCallx e s := rfl
theorem exec_ret (e : Enc) (s : State) : exec (.ret e) s = execRet e s := rfl
theorem exec_exit (e : Enc) (s : State) : exec (.exit e) s = execExit e s := rfl
theorem exec_yield (e : Enc) (s : State) : exec (.yield e) s = execYield e s := rfl
theorem exec_loop (e : Enc) (s : State) : exec (.loop e) s = execLoop e s := rfl
theorem exec_trap (e : Enc) (s : State) : exec (.trap e) s = execTrap e s := rfl
theorem exec_eret (e : Enc) (s : State) : exec (.eret e) s = execEret e s := rfl
theorem exec_bkpt (e : Enc) (s : State) : exec (.bkpt e) s = execBkpt e s := rfl
theorem exec_csrrd (e : Enc) (s : State) : exec (.csrrd e) s = execCsrrd e s := rfl
theorem exec_csrwr (e : Enc) (s : State) : exec (.csrwr e) s = execCsrwr e s := rfl
theorem exec_halt (e : Enc) (s : State) : exec (.halt e) s = execHalt e s := rfl
theorem exec_ld (e : Enc) (s : State) : exec (.ld e) s = execLd e s := rfl
theorem exec_st (e : Enc) (s : State) : exec (.st e) s = execSt e s := rfl
theorem exec_ldfe (e : Enc) (s : State) : exec (.ldfe e) s = execLdfe e s := rfl
theorem exec_stfe (e : Enc) (s : State) : exec (.stfe e) s = execStfe e s := rfl
theorem exec_stn4 (e : Enc) (s : State) : exec (.stn4 e) s = execStn4 e s := rfl
theorem exec_atom (e : Enc) (s : State) : exec (.atom e) s = execAtom e s := rfl
theorem exec_red (e : Enc) (s : State) : exec (.red e) s = execRed e s := rfl
theorem exec_pref (e : Enc) (s : State) : exec (.pref e) s = execPref e s := rfl
theorem exec_cinv (e : Enc) (s : State) : exec (.cinv e) s = execCinv e s := rfl
theorem exec_cwb (e : Enc) (s : State) : exec (.cwb e) s = execCwb e s := rfl
theorem exec_fence (e : Enc) (s : State) : exec (.fence e) s = execFence e s := rfl
theorem exec_fencesc (e : Enc) (s : State) : exec (.fencesc e) s = execFencesc e s := rfl
theorem exec_sld (e : Enc) (s : State) : exec (.sld e) s = execSld e s := rfl
theorem exec_sst (e : Enc) (s : State) : exec (.sst e) s = execSst e s := rfl
theorem exec_cpy (e : Enc) (s : State) : exec (.cpy e) s = execCpy e s := rfl
theorem exec_cpyq (e : Enc) (s : State) : exec (.cpyq e) s = execCpyq e s := rfl
theorem exec_gath (e : Enc) (s : State) : exec (.gath e) s = execGath e s := rfl
theorem exec_tlwait (e : Enc) (s : State) : exec (.tlwait e) s = execTlwait e s := rfl
theorem exec_tlrd (e : Enc) (s : State) : exec (.tlrd e) s = execTlrd e s := rfl
theorem exec_xlate (e : Enc) (s : State) : exec (.xlate e) s = execXlate e s := rfl
theorem exec_phint (e : Enc) (s : State) : exec (.phint e) s = execPhint e s := rfl
theorem exec_twflush (e : Enc) (s : State) : exec (.twflush e) s = execTwflush e s := rfl
theorem exec_acq (e : Enc) (s : State) : exec (.acq e) s = execAcq e s := rfl
theorem exec_grel (e : Enc) (s : State) : exec (.grel e) s = execGrel e s := rfl
theorem exec_binit (e : Enc) (s : State) : exec (.binit e) s = execBinit e s := rfl
theorem exec_barv (e : Enc) (s : State) : exec (.barv e) s = execBarv e s := rfl
theorem exec_bwait (e : Enc) (s : State) : exec (.bwait e) s = execBwait e s := rfl
theorem exec_barw (e : Enc) (s : State) : exec (.barw e) s = execBarw e s := rfl
theorem exec_bxpct (e : Enc) (s : State) : exec (.bxpct e) s = execBxpct e s := rfl
theorem exec_btest (e : Enc) (s : State) : exec (.btest e) s = execBtest e s := rfl
theorem exec_bdl (e : Enc) (s : State) : exec (.bdl e) s = execBdl e s := rfl
theorem exec_tnow (e : Enc) (s : State) : exec (.tnow e) s = execTnow e s := rfl
theorem exec_twait (e : Enc) (s : State) : exec (.twait e) s = execTwait e s := rfl
theorem exec_setdl (e : Enc) (s : State) : exec (.setdl e) s = execSetdl e s := rfl
theorem exec_dlget (e : Enc) (s : State) : exec (.dlget e) s = execDlget e s := rfl
theorem exec_mpost (e : Enc) (s : State) : exec (.mpost e) s = execMpost e s := rfl
theorem exec_aclr (e : Enc) (s : State) : exec (.aclr e) s = execAclr e s := rfl
theorem exec_acld (e : Enc) (s : State) : exec (.acld e) s = execAcld e s := rfl
theorem exec_acst (e : Enc) (s : State) : exec (.acst e) s = execAcst e s := rfl
theorem exec_mstat (e : Enc) (s : State) : exec (.mstat e) s = execMstat e s := rfl
theorem exec_mcncl (e : Enc) (s : State) : exec (.mcncl e) s = execMcncl e s := rfl
theorem exec_seedscan (e : Enc) (s : State) : exec (.seedscan e) s = execSeedscan e s := rfl
theorem exec_seedgen (e : Enc) (s : State) : exec (.seedgen e) s = execSeedgen e s := rfl
theorem exec_rsvi (e : Enc) (s : State) : exec (.rsvi e) s = execRsvi e s := rfl
theorem exec_rsvu (e : Enc) (s : State) : exec (.rsvu e) s = execRsvu e s := rfl
theorem exec_rsvm (e : Enc) (s : State) : exec (.rsvm e) s = execRsvm e s := rfl
theorem exec_rsvf (e : Enc) (s : State) : exec (.rsvf e) s = execRsvf e s := rfl
theorem exec_rsvget (e : Enc) (s : State) : exec (.rsvget e) s = execRsvget e s := rfl
theorem exec_rsvset (e : Enc) (s : State) : exec (.rsvset e) s = execRsvset e s := rfl
theorem exec_trace (e : Enc) (s : State) : exec (.trace e) s = execTrace e s := rfl
theorem exec_beam (e : Enc) (s : State) : exec (.beam e) s = execBeam e s := rfl
theorem exec_hitld (e : Enc) (s : State) : exec (.hitld e) s = execHitld e s := rfl
theorem exec_pxl (e : Enc) (s : State) : exec (.pxl e) s = execPxl e s := rfl
theorem exec_pxs (e : Enc) (s : State) : exec (.pxs e) s = execPxs e s := rfl
theorem exec_frmacq (e : Enc) (s : State) : exec (.frmacq e) s = execFrmacq e s := rfl
theorem exec_fpres (e : Enc) (s : State) : exec (.fpres e) s = execFpres e s := rfl
theorem exec_frmst (e : Enc) (s : State) : exec (.frmst e) s = execFrmst e s := rfl
theorem exec_qpost (e : Enc) (s : State) : exec (.qpost e) s = execQpost e s := rfl
theorem exec_qwait (e : Enc) (s : State) : exec (.qwait e) s = execQwait e s := rfl
theorem exec_qstat (e : Enc) (s : State) : exec (.qstat e) s = execQstat e s := rfl
theorem exec_kstat (e : Enc) (s : State) : exec (.kstat e) s = execKstat e s := rfl
theorem exec_rwr (e : Enc) (s : State) : exec (.rwr e) s = execRwr e s := rfl
theorem exec_rrd (e : Enc) (s : State) : exec (.rrd e) s = execRrd e s := rfl
theorem exec_rwrf (e : Enc) (s : State) : exec (.rwrf e) s = execRwrf e s := rfl
theorem exec_ratm (e : Enc) (s : State) : exec (.ratm e) s = execRatm e s := rfl
theorem exec_lred (e : Enc) (s : State) : exec (.lred e) s = execLred e s := rfl
theorem exec_rdva (e : Enc) (s : State) : exec (.rdva e) s = execRdva e s := rfl
theorem exec_rdvw (e : Enc) (s : State) : exec (.rdvw e) s = execRdvw e s := rfl
theorem exec_lstat (e : Enc) (s : State) : exec (.lstat e) s = execLstat e s := rfl
theorem exec_unassignedOpcode (op : BitVec 8) (len : BitVec 2) (s : State) : exec (.unassignedOpcode op len) s = execUnassignedOpcode op len s := rfl
theorem exec_homeSlicePerform (seq : Nat) (s : State) : exec (.homeSlicePerform seq) s = execHomeSlicePerform seq s := rfl
theorem exec_loadReturn (w seq : Nat) (threads : Word) (s : State) : exec (.loadReturn w seq threads) s = execLoadReturn w seq threads s := rfl
theorem exec_sfqRequestComplete (w seq thread : Nat) (s : State) : exec (.sfqRequestComplete w seq thread) s = execSfqRequestComplete w seq thread s := rfl
theorem exec_ldfeServe (w sp : Nat) (s : State) : exec (.ldfeServe w sp) s = execLdfeServe w sp s := rfl
theorem exec_scDrainDone (w sp : Nat) (s : State) : exec (.scDrainDone w sp) s = execScDrainDone w sp s := rfl
theorem exec_deviceHeartbeatTick (s : State) : exec (.deviceHeartbeatTick) s = execDeviceHeartbeatTick s := rfl
theorem exec_ptTick (s : State) : exec (.ptTick) s = execPtTick s := rfl
theorem exec_twaitRelease (w sp : Nat) (s : State) : exec (.twaitRelease w sp) s = execTwaitRelease w sp s := rfl
theorem exec_gathReturn (w seq : Nat) (s : State) : exec (.gathReturn w seq) s = execGathReturn w seq s := rfl
theorem exec_copyOperationComplete (op : Nat) (s : State) : exec (.copyOperationComplete op) s = execCopyOperationComplete op s := rfl
theorem exec_regwinHeldWrite (op : Nat) (s : State) : exec (.regwinHeldWrite op) s = execRegwinHeldWrite op s := rfl
theorem exec_barrierDeadline (g b : Nat) (s : State) : exec (.barrierDeadline g b) s = execBarrierDeadline g b s := rfl
theorem exec_faultRecordDeferred (slot : Nat) (s : State) : exec (.faultRecordDeferred slot) s = execFaultRecordDeferred slot s := rfl
theorem exec_priRequestRelease (s : State) : exec (.priRequestRelease) s = execPriRequestRelease s := rfl
theorem exec_invalidationComplete (id : Nat) (s : State) : exec (.invalidationComplete id) s = execInvalidationComplete id s := rfl
theorem exec_convoyReserve (part : Nat) (s : State) : exec (.convoyReserve part) s = execConvoyReserve part s := rfl
theorem exec_acqGrant (core : Nat) (s : State) : exec (.acqGrant core) s = execAcqGrant core s := rfl
theorem exec_grelComplete (w sp : Nat) (s : State) : exec (.grelComplete w sp) s = execGrelComplete w sp s := rfl
theorem exec_convoyRetire (c : Nat) (s : State) : exec (.convoyRetire c) s = execConvoyRetire c s := rfl
theorem exec_parameterRead (k : Nat) (s : State) : exec (.parameterRead k) s = execParameterRead k s := rfl
theorem exec_kernelFinish (k : Nat) (s : State) : exec (.kernelFinish k) s = execKernelFinish k s := rfl
theorem exec_packetDispatch (q : Nat) (s : State) : exec (.packetDispatch q) s = execPacketDispatch q s := rfl
theorem exec_packetLaunch (q index : Nat) (s : State) : exec (.packetLaunch q index) s = execPacketLaunch q index s := rfl
theorem exec_packetCopy (q index : Nat) (s : State) : exec (.packetCopy q index) s = execPacketCopy q index s := rfl
theorem exec_copyPacketComplete (op : Nat) (s : State) : exec (.copyPacketComplete op) s = execCopyPacketComplete op s := rfl
theorem exec_packetSignal (q index : Nat) (s : State) : exec (.packetSignal q index) s = execPacketSignal q index s := rfl
theorem exec_packetWait (q index : Nat) (s : State) : exec (.packetWait q index) s = execPacketWait q index s := rfl
theorem exec_waitConditionMet (q : Nat) (s : State) : exec (.waitConditionMet q) s = execWaitConditionMet q s := rfl
theorem exec_frameArm (q index : Nat) (s : State) : exec (.frameArm q index) s = execFrameArm q index s := rfl
theorem exec_framePresent (q index : Nat) (s : State) : exec (.framePresent q index) s = execFramePresent q index s := rfl
theorem exec_packetRdv (q index : Nat) (s : State) : exec (.packetRdv q index) s = execPacketRdv q index s := rfl
theorem exec_headHeaderTimeout (q : Nat) (s : State) : exec (.headHeaderTimeout q) s = execHeadHeaderTimeout q s := rfl
theorem exec_queueEvict (q : Nat) (s : State) : exec (.queueEvict q) s = execQueueEvict q s := rfl
theorem exec_queueReload (q : Nat) (s : State) : exec (.queueReload q) s = execQueueReload q s := rfl
theorem exec_partitionHalted (slot : Nat) (s : State) : exec (.partitionHalted slot) s = execPartitionHalted slot s := rfl
theorem exec_hamperExchangeComplete (slot : Nat) (s : State) : exec (.hamperExchangeComplete slot) s = execHamperExchangeComplete slot s := rfl
theorem exec_hamperImageDisplace (slot : Nat) (s : State) : exec (.hamperImageDisplace slot) s = execHamperImageDisplace slot s := rfl
theorem exec_rollCallFullServe (cl : Nat) (s : State) : exec (.rollCallFullServe cl) s = execRollCallFullServe cl s := rfl
theorem exec_tileBind (cl : Nat) (s : State) : exec (.tileBind cl) s = execTileBind cl s := rfl
theorem exec_matrixPass (cl : Nat) (s : State) : exec (.matrixPass cl) s = execMatrixPass cl s := rfl
theorem exec_matrixStepComplete (cl : Nat) (s : State) : exec (.matrixStepComplete cl) s = execMatrixStepComplete cl s := rfl
theorem exec_matrixClassOwed (cl cls : Nat) (s : State) : exec (.matrixClassOwed cl cls) s = execMatrixClassOwed cl cls s := rfl
theorem exec_matrixOperandAvailable (cl task : Nat) (s : State) : exec (.matrixOperandAvailable cl task) s = execMatrixOperandAvailable cl task s := rfl
theorem exec_rayComplete (w seq thread : Nat) (s : State) : exec (.rayComplete w seq thread) s = execRayComplete w seq thread s := rfl
theorem exec_beamComplete (op : Nat) (s : State) : exec (.beamComplete op) s = execBeamComplete op s := rfl
theorem exec_frameDeadline (f : Nat) (s : State) : exec (.frameDeadline f) s = execFrameDeadline f s := rfl
theorem exec_framePresentation (f : Nat) (s : State) : exec (.framePresentation f) s = execFramePresentation f s := rfl
theorem exec_rtpPacketTransmit (f : Nat) (s : State) : exec (.rtpPacketTransmit f) s = execRtpPacketTransmit f s := rfl
theorem exec_pxlReturn (w seq thread : Nat) (s : State) : exec (.pxlReturn w seq thread) s = execPxlReturn w seq thread s := rfl
theorem exec_fpresApply (id : Nat) (s : State) : exec (.fpresApply id) s = execFpresApply id s := rfl
theorem exec_rdvGuard (r : Nat) (s : State) : exec (.rdvGuard r) s = execRdvGuard r s := rfl
theorem exec_rdvHalfGuard (r : Nat) (s : State) : exec (.rdvHalfGuard r) s = execRdvHalfGuard r s := rfl
theorem exec_rdvInstant (r : Nat) (doff : Int) (s : State) : exec (.rdvInstant r doff) s = execRdvInstant r doff s := rfl
theorem exec_rdvRecordDeadline (r : Nat) (s : State) : exec (.rdvRecordDeadline r) s = execRdvRecordDeadline r s := rfl
theorem exec_backwardStep (s : State) : exec (.backwardStep) s = execBackwardStep s := rfl
theorem exec_sectorOwedIssue (core sector cls : Nat) (s : State) : exec (.sectorOwedIssue core sector cls) s = execSectorOwedIssue core sector cls s := rfl
theorem exec_rotationLimit (w sp : Nat) (s : State) : exec (.rotationLimit w sp) s = execRotationLimit w sp s := rfl
theorem exec_waveFree (w : Nat) (s : State) : exec (.waveFree w) s = execWaveFree w s := rfl
theorem exec_contextPreempt (slot : Nat) (s : State) : exec (.contextPreempt slot) s = execContextPreempt slot s := rfl
theorem exec_queueDoorbell (q index : Nat) (s : State) : exec (.queueDoorbell q index) s = execQueueDoorbell q index s := rfl
theorem exec_migrationCommit (slot va : Nat) (s : State) : exec (.migrationCommit slot va) s = execMigrationCommit slot va s := rfl
theorem exec_ptpAnnounce (port : Nat) (selected : Bool) (s : State) : exec (.ptpAnnounce port selected) s = execPtpAnnounce port selected s := rfl
theorem exec_onePpsEdge (s : State) : exec (.onePpsEdge) s = execOnePpsEdge s := rfl
theorem exec_syncMeasurement (offset : Int) (s : State) : exec (.syncMeasurement offset) s = execSyncMeasurement offset s := rfl
theorem exec_announceTimeout (s : State) : exec (.announceTimeout) s = execAnnounceTimeout s := rfl
theorem exec_ptsetWrite (v : DWord) (s : State) : exec (.ptsetWrite v) s = execPtsetWrite v s := rfl
theorem exec_ptpenWrite (v : DWord) (s : State) : exec (.ptpenWrite v) s = execPtpenWrite v s := rfl
theorem exec_faultResponseRetry (slot seq : Nat) (s : State) : exec (.faultResponseRetry slot seq) s = execFaultResponseRetry slot seq s := rfl
theorem exec_faultResponseFail (slot seq : Nat) (s : State) : exec (.faultResponseFail slot seq) s = execFaultResponseFail slot seq s := rfl
theorem exec_atsTranslationCompletion (slot va : Nat) (ans : AtsAnswer) (s : State) : exec (.atsTranslationCompletion slot va ans) s = execAtsTranslationCompletion slot va ans s := rfl
theorem exec_prgResponseSuccess (slot va : Nat) (s : State) : exec (.prgResponseSuccess slot va) s = execPrgResponseSuccess slot va s := rfl
theorem exec_prgResponseInvalidRequest (slot va : Nat) (s : State) : exec (.prgResponseInvalidRequest slot va) s = execPrgResponseInvalidRequest slot va s := rfl
theorem exec_prgResponseFailure (slot va : Nat) (s : State) : exec (.prgResponseFailure slot va) s = execPrgResponseFailure slot va s := rfl
theorem exec_priReenable (alloc : Nat) (s : State) : exec (.priReenable alloc) s = execPriReenable alloc s := rfl
theorem exec_atsInvalidateRequest (slot va len : Nat) (s : State) : exec (.atsInvalidateRequest slot va len) s = execAtsInvalidateRequest slot va len s := rfl
theorem exec_invalidationStart (slot : Nat) (s : State) : exec (.invalidationStart slot) s = execInvalidationStart slot s := rfl
theorem exec_migrationStart (slot va frame : Nat) (s : State) : exec (.migrationStart slot va frame) s = execMigrationStart slot va frame s := rfl
theorem exec_placementEpoch (pool : Nat) (s : State) : exec (.placementEpoch pool) s = execPlacementEpoch pool s := rfl
theorem exec_queueResume (q index : Nat) (s : State) : exec (.queueResume q index) s = execQueueResume q index s := rfl
theorem exec_queueDisable (q : Nat) (s : State) : exec (.queueDisable q) s = execQueueDisable q s := rfl
theorem exec_queueBind (v : DWord) (s : State) : exec (.queueBind v) s = execQueueBind v s := rfl
theorem exec_queueUnbind (v : DWord) (s : State) : exec (.queueUnbind v) s = execQueueUnbind v s := rfl
theorem exec_contextLoad (slot : Nat) (s : State) : exec (.contextLoad slot) s = execContextLoad slot s := rfl
theorem exec_contextRun (slot : Nat) (s : State) : exec (.contextRun slot) s = execContextRun slot s := rfl
theorem exec_contextSwapout (slot : Nat) (s : State) : exec (.contextSwapout slot) s = execContextSwapout slot s := rfl
theorem exec_contextResume (slot : Nat) (s : State) : exec (.contextResume slot) s = execContextResume slot s := rfl
theorem exec_contextSwitch (slot b : Nat) (s : State) : exec (.contextSwitch slot b) s = execContextSwitch slot b s := rfl
theorem exec_contextTerminate (slot : Nat) (s : State) : exec (.contextTerminate slot) s = execContextTerminate slot s := rfl
theorem exec_contextUnload (slot : Nat) (s : State) : exec (.contextUnload slot) s = execContextUnload slot s := rfl
theorem exec_rtpPacketReceive (flow : Nat) (pkt : RtpPacket) (s : State) : exec (.rtpPacketReceive flow pkt) s = execRtpPacketReceive flow pkt s := rfl
theorem exec_flowEnable (flow : Nat) (v : Word) (s : State) : exec (.flowEnable flow v) s = execFlowEnable flow v s := rfl
theorem exec_flowDisable (flow : Nat) (v : Word) (s : State) : exec (.flowDisable flow v) s = execFlowDisable flow v s := rfl
theorem exec_linkEnable (l : Nat) (s : State) : exec (.linkEnable l) s = execLinkEnable l s := rfl
theorem exec_linkDrain (l : Nat) (s : State) : exec (.linkDrain l) s = execLinkDrain l s := rfl
theorem exec_linkReset (l : Nat) (s : State) : exec (.linkReset l) s = execLinkReset l s := rfl
theorem exec_linkHandshake (l : Nat) (ans : LinkAnswer) (s : State) : exec (.linkHandshake l ans) s = execLinkHandshake l ans s := rfl
theorem exec_linkDegrade (l : Nat) (s : State) : exec (.linkDegrade l) s = execLinkDegrade l s := rfl
theorem exec_linkRecover (l : Nat) (s : State) : exec (.linkRecover l) s = execLinkRecover l s := rfl
theorem exec_portDown (p : Nat) (s : State) : exec (.portDown p) s = execPortDown p s := rfl
theorem exec_nraRetransmit (l seq : Nat) (s : State) : exec (.nraRetransmit l seq) s = execNraRetransmit l seq s := rfl
theorem exec_nraOperationReceive (l : Nat) (op : NraOp) (s : State) : exec (.nraOperationReceive l op) s = execNraOperationReceive l op s := rfl
theorem exec_nraAck (l seq : Nat) (s : State) : exec (.nraAck l seq) s = execNraAck l seq s := rfl
theorem exec_nraReceiverNotReady (l seq : Nat) (s : State) : exec (.nraReceiverNotReady l seq) s = execNraReceiverNotReady l seq s := rfl
theorem exec_nraFinalNack (l seq : Nat) (s : State) : exec (.nraFinalNack l seq) s = execNraFinalNack l seq s := rfl
theorem exec_nraReadResponse (l seq : Nat) (data : List DWord) (s : State) : exec (.nraReadResponse l seq data) s = execNraReadResponse l seq data s := rfl
theorem exec_rdvReadyMessage (r inst member : Nat) (s : State) : exec (.rdvReadyMessage r inst member) s = execRdvReadyMessage r inst member s := rfl
theorem exec_rdvReport (r inst member : Nat) (rep : RdvReport) (s : State) : exec (.rdvReport r inst member rep) s = execRdvReport r inst member rep s := rfl
theorem exec_rdvDetach (slot va : Nat) (s : State) : exec (.rdvDetach slot va) s = execRdvDetach slot va s := rfl
theorem exec_partnWrite (v : DWord) (s : State) : exec (.partnWrite v) s = execPartnWrite v s := rfl
theorem exec_pwrcapWrite (v : DWord) (s : State) : exec (.pwrcapWrite v) s = execPwrcapWrite v s := rfl
theorem exec_clockAdjust (mhz : Nat) (s : State) : exec (.clockAdjust mhz) s = execClockAdjust mhz s := rfl
theorem exec_stglenWrite (v : DWord) (s : State) : exec (.stglenWrite v) s = execStglenWrite v s := rfl
theorem exec_bclrWrite (v : DWord) (s : State) : exec (.bclrWrite v) s = execBclrWrite v s := rfl
theorem exec_attnWrite (v : DWord) (s : State) : exec (.attnWrite v) s = execAttnWrite v s := rfl
theorem exec_rwdataRead (slot size : Nat) (s : State) : exec (.rwdataRead slot size) s = execRwdataRead slot size s := rfl
theorem exec_rwdataWrite (slot size : Nat) (v : DWord) (s : State) : exec (.rwdataWrite slot size v) s = execRwdataWrite slot size v s := rfl
theorem exec_apertureRead (off size : Nat) (s : State) : exec (.apertureRead off size) s = execApertureRead off size s := rfl
theorem exec_apertureWrite (off size : Nat) (v : DWord) (s : State) : exec (.apertureWrite off size v) s = execApertureWrite off size v s := rfl
theorem exec_registerWrite (off size : Nat) (v : DWord) (s : State) : exec (.registerWrite off size v) s = execRegisterWrite off size v s := rfl
theorem exec_powerUp (outcomes : List StepOutcome) (s : State) : exec (.powerUp outcomes) s = execPowerUp outcomes s := rfl
theorem exec_d3hotEntry (s : State) : exec (.d3hotEntry) s = execD3hotEntry s := rfl
theorem exec_d0Return (s : State) : exec (.d0Return) s = execD0Return s := rfl
theorem exec_powerLoss (s : State) : exec (.powerLoss) s = execPowerLoss s := rfl
theorem exec_portUp (p : Nat) (s : State) : exec (.portUp p) s = execPortUp p s := rfl
theorem exec_attestationReportReady (answer : DWord) (s : State) : exec (.attestationReportReady answer) s = execAttestationReportReady answer s := rfl
theorem exec_imageVerificationDone (pass : Bool) (s : State) : exec (.imageVerificationDone pass) s = execImageVerificationDone pass s := rfl

/-! ### Instructions given by their opcode -/

theorem exec_ofOp_nop (e : Enc) (s : State) : exec (Instr.ofOp e .nop) s = execNop e s := rfl
theorem exec_ofOp_iadd (e : Enc) (s : State) : exec (Instr.ofOp e .iadd) s = execIadd e s := rfl
theorem exec_ofOp_isub (e : Enc) (s : State) : exec (Instr.ofOp e .isub) s = execIsub e s := rfl
theorem exec_ofOp_imul (e : Enc) (s : State) : exec (Instr.ofOp e .imul) s = execImul e s := rfl
theorem exec_ofOp_imulh (e : Enc) (s : State) : exec (Instr.ofOp e .imulh) s = execImulh e s := rfl
theorem exec_ofOp_imad (e : Enc) (s : State) : exec (Instr.ofOp e .imad) s = execImad e s := rfl
theorem exec_ofOp_imin (e : Enc) (s : State) : exec (Instr.ofOp e .imin) s = execImin e s := rfl
theorem exec_ofOp_imax (e : Enc) (s : State) : exec (Instr.ofOp e .imax) s = execImax e s := rfl
theorem exec_ofOp_iabs (e : Enc) (s : State) : exec (Instr.ofOp e .iabs) s = execIabs e s := rfl
theorem exec_ofOp_ineg (e : Enc) (s : State) : exec (Instr.ofOp e .ineg) s = execIneg e s := rfl
theorem exec_ofOp_and (e : Enc) (s : State) : exec (Instr.ofOp e .and) s = execAnd e s := rfl
theorem exec_ofOp_or (e : Enc) (s : State) : exec (Instr.ofOp e .or) s = execOr e s := rfl
theorem exec_ofOp_xor (e : Enc) (s : State) : exec (Instr.ofOp e .xor) s = execXor e s := rfl
theorem exec_ofOp_not (e : Enc) (s : State) : exec (Instr.ofOp e .not) s = execNot e s := rfl
theorem exec_ofOp_andn (e : Enc) (s : State) : exec (Instr.ofOp e .andn) s = execAndn e s := rfl
theorem exec_ofOp_shl (e : Enc) (s : State) : exec (Instr.ofOp e .shl) s = execShl e s := rfl
theorem exec_ofOp_shr (e : Enc) (s : State) : exec (Instr.ofOp e .shr) s = execShr e s := rfl
theorem exec_ofOp_sar (e : Enc) (s : State) : exec (Instr.ofOp e .sar) s = execSar e s := rfl
theorem exec_ofOp_bfe (e : Enc) (s : State) : exec (Instr.ofOp e .bfe) s = execBfe e s := rfl
theorem exec_ofOp_bfi (e : Enc) (s : State) : exec (Instr.ofOp e .bfi) s = execBfi e s := rfl
theorem exec_ofOp_popc (e : Enc) (s : State) : exec (Instr.ofOp e .popc) s = execPopc e s := rfl
theorem exec_ofOp_clz (e : Enc) (s : State) : exec (Instr.ofOp e .clz) s = execClz e s := rfl
theorem exec_ofOp_ctz (e : Enc) (s : State) : exec (Instr.ofOp e .ctz) s = execCtz e s := rfl
theorem exec_ofOp_brev (e : Enc) (s : State) : exec (Instr.ofOp e .brev) s = execBrev e s := rfl
theorem exec_ofOp_bperm (e : Enc) (s : State) : exec (Instr.ofOp e .bperm) s = execBperm e s := rfl
theorem exec_ofOp_icmp (e : Enc) (s : State) : exec (Instr.ofOp e .icmp) s = execIcmp e s := rfl
theorem exec_ofOp_sel (e : Enc) (s : State) : exec (Instr.ofOp e .sel) s = execSel e s := rfl
theorem exec_ofOp_mov (e : Enc) (s : State) : exec (Instr.ofOp e .mov) s = execMov e s := rfl
theorem exec_ofOp_dp4 (e : Enc) (s : State) : exec (Instr.ofOp e .dp4) s = execDp4 e s := rfl
theorem exec_ofOp_xset (e : Enc) (s : State) : exec (Instr.ofOp e .xset) s = execXset e s := rfl
theorem exec_ofOp_ldx (e : Enc) (s : State) : exec (Instr.ofOp e .ldx) s = execLdx e s := rfl
theorem exec_ofOp_stx (e : Enc) (s : State) : exec (Instr.ofOp e .stx) s = execStx e s := rfl
theorem exec_ofOp_fadd (e : Enc) (s : State) : exec (Instr.ofOp e .fadd) s = execFadd e s := rfl
theorem exec_ofOp_fsub (e : Enc) (s : State) : exec (Instr.ofOp e .fsub) s = execFsub e s := rfl
theorem exec_ofOp_fmul (e : Enc) (s : State) : exec (Instr.ofOp e .fmul) s = execFmul e s := rfl
theorem exec_ofOp_ffma (e : Enc) (s : State) : exec (Instr.ofOp e .ffma) s = execFfma e s := rfl
theorem exec_ofOp_fmin (e : Enc) (s : State) : exec (Instr.ofOp e .fmin) s = execFmin e s := rfl
theorem exec_ofOp_fmax (e : Enc) (s : State) : exec (Instr.ofOp e .fmax) s = execFmax e s := rfl
theorem exec_ofOp_fcmp (e : Enc) (s : State) : exec (Instr.ofOp e .fcmp) s = execFcmp e s := rfl
theorem exec_ofOp_fclass (e : Enc) (s : State) : exec (Instr.ofOp e .fclass) s = execFclass e s := rfl
theorem exec_ofOp_frnd (e : Enc) (s : State) : exec (Instr.ofOp e .frnd) s = execFrnd e s := rfl
theorem exec_ofOp_fscl (e : Enc) (s : State) : exec (Instr.ofOp e .fscl) s = execFscl e s := rfl
theorem exec_ofOp_fexp (e : Enc) (s : State) : exec (Instr.ofOp e .fexp) s = execFexp e s := rfl
theorem exec_ofOp_faddp (e : Enc) (s : State) : exec (Instr.ofOp e .faddp) s = execFaddp e s := rfl
theorem exec_ofOp_fsubp (e : Enc) (s : State) : exec (Instr.ofOp e .fsubp) s = execFsubp e s := rfl
theorem exec_ofOp_fmulp (e : Enc) (s : State) : exec (Instr.ofOp e .fmulp) s = execFmulp e s := rfl
theorem exec_ofOp_ffmap (e : Enc) (s : State) : exec (Instr.ofOp e .ffmap) s = execFfmap e s := rfl
theorem exec_ofOp_fminp (e : Enc) (s : State) : exec (Instr.ofOp e .fminp) s = execFminp e s := rfl
theorem exec_ofOp_fmaxp (e : Enc) (s : State) : exec (Instr.ofOp e .fmaxp) s = execFmaxp e s := rfl
theorem exec_ofOp_fcmpp (e : Enc) (s : State) : exec (Instr.ofOp e .fcmpp) s = execFcmpp e s := rfl
theorem exec_ofOp_cvt (e : Enc) (s : State) : exec (Instr.ofOp e .cvt) s = execCvt e s := rfl
theorem exec_ofOp_pkmx (e : Enc) (s : State) : exec (Instr.ofOp e .pkmx) s = execPkmx e s := rfl
theorem exec_ofOp_upmx (e : Enc) (s : State) : exec (Instr.ofOp e .upmx) s = execUpmx e s := rfl
theorem exec_ofOp_pkq4 (e : Enc) (s : State) : exec (Instr.ofOp e .pkq4) s = execPkq4 e s := rfl
theorem exec_ofOp_upq4 (e : Enc) (s : State) : exec (Instr.ofOp e .upq4) s = execUpq4 e s := rfl
theorem exec_ofOp_sfq (e : Enc) (s : State) : exec (Instr.ofOp e .sfq) s = execSfq e s := rfl
theorem exec_ofOp_waitk (e : Enc) (s : State) : exec (Instr.ofOp e .waitk) s = execWaitk e s := rfl
theorem exec_ofOp_shfl (e : Enc) (s : State) : exec (Instr.ofOp e .shfl) s = execShfl e s := rfl
theorem exec_ofOp_vote (e : Enc) (s : State) : exec (Instr.ofOp e .vote) s = execVote e s := rfl
theorem exec_ofOp_ballot (e : Enc) (s : State) : exec (Instr.ofOp e .ballot) s = execBallot e s := rfl
theorem exec_ofOp_redw (e : Enc) (s : State) : exec (Instr.ofOp e .redw) s = execRedw e s := rfl
theorem exec_ofOp_scanw (e : Enc) (s : State) : exec (Instr.ofOp e .scanw) s = execScanw e s := rfl
theorem exec_ofOp_matchT (e : Enc) (s : State) : exec (Instr.ofOp e .matchT) s = execMatchT e s := rfl
theorem exec_ofOp_movs (e : Enc) (s : State) : exec (Instr.ofOp e .movs) s = execMovs e s := rfl
theorem exec_ofOp_sadd (e : Enc) (s : State) : exec (Instr.ofOp e .sadd) s = execSadd e s := rfl
theorem exec_ofOp_ssub (e : Enc) (s : State) : exec (Instr.ofOp e .ssub) s = execSsub e s := rfl
theorem exec_ofOp_smul (e : Enc) (s : State) : exec (Instr.ofOp e .smul) s = execSmul e s := rfl
theorem exec_ofOp_smulh (e : Enc) (s : State) : exec (Instr.ofOp e .smulh) s = execSmulh e s := rfl
theorem exec_ofOp_sand (e : Enc) (s : State) : exec (Instr.ofOp e .sand) s = execSand e s := rfl
theorem exec_ofOp_sor (e : Enc) (s : State) : exec (Instr.ofOp e .sor) s = execSor e s := rfl
theorem exec_ofOp_sxor (e : Enc) (s : State) : exec (Instr.ofOp e .sxor) s = execSxor e s := rfl
theorem exec_ofOp_snot (e : Enc) (s : State) : exec (Instr.ofOp e .snot) s = execSnot e s := rfl
theorem exec_ofOp_sshl (e : Enc) (s : State) : exec (Instr.ofOp e .sshl) s = execSshl e s := rfl
theorem exec_ofOp_sshr (e : Enc) (s : State) : exec (Instr.ofOp e .sshr) s = execSshr e s := rfl
theorem exec_ofOp_ssar (e : Enc) (s : State) : exec (Instr.ofOp e .ssar) s = execSsar e s := rfl
theorem exec_ofOp_smin (e : Enc) (s : State) : exec (Instr.ofOp e .smin) s = execSmin e s := rfl
theorem exec_ofOp_smax (e : Enc) (s : State) : exec (Instr.ofOp e .smax) s = execSmax e s := rfl
theorem exec_ofOp_scmp (e : Enc) (s : State) : exec (Instr.ofOp e .scmp) s = execScmp e s := rfl
theorem exec_ofOp_ssel (e : Enc) (s : State) : exec (Instr.ofOp e .ssel) s = execSsel e s := rfl
theorem exec_ofOp_smov (e : Enc) (s : State) : exec (Instr.ofOp e .smov) s = execSmov e s := rfl
theorem exec_ofOp_sbfe (e : Enc) (s : State) : exec (Instr.ofOp e .sbfe) s = execSbfe e s := rfl
theorem exec_ofOp_spopc (e : Enc) (s : State) : exec (Instr.ofOp e .spopc) s = execSpopc e s := rfl
theorem exec_ofOp_sclz (e : Enc) (s : State) : exec (Instr.ofOp e .sclz) s = execSclz e s := rfl
theorem exec_ofOp_srdl (e : Enc) (s : State) : exec (Instr.ofOp e .srdl) s = execSrdl e s := rfl
theorem exec_ofOp_pand (e : Enc) (s : State) : exec (Instr.ofOp e .pand) s = execPand e s := rfl
theorem exec_ofOp_por (e : Enc) (s : State) : exec (Instr.ofOp e .por) s = execPor e s := rfl
theorem exec_ofOp_pxor (e : Enc) (s : State) : exec (Instr.ofOp e .pxor) s = execPxor e s := rfl
theorem exec_ofOp_pnot (e : Enc) (s : State) : exec (Instr.ofOp e .pnot) s = execPnot e s := rfl
theorem exec_ofOp_pmov (e : Enc) (s : State) : exec (Instr.ofOp e .pmov) s = execPmov e s := rfl
theorem exec_ofOp_segw (e : Enc) (s : State) : exec (Instr.ofOp e .segw) s = execSegw e s := rfl
theorem exec_ofOp_actm (e : Enc) (s : State) : exec (Instr.ofOp e .actm) s = execActm e s := rfl
theorem exec_ofOp_bra (e : Enc) (s : State) : exec (Instr.ofOp e .bra) s = execBra e s := rfl
theorem exec_ofOp_brc (e : Enc) (s : State) : exec (Instr.ofOp e .brc) s = execBrc e s := rfl
theorem exec_ofOp_brx (e : Enc) (s : State) : exec (Instr.ofOp e .brx) s = execBrx e s := rfl
theorem exec_ofOp_join (e : Enc) (s : State) : exec (Instr.ofOp e .join) s = execJoin e s := rfl
theorem exec_ofOp_call (e : Enc) (s : State) : exec (Instr.ofOp e .call) s = execCall e s := rfl
theorem exec_ofOp_callx (e : Enc) (s : State) : exec (Instr.ofOp e .callx) s = execCallx e s := rfl
theorem exec_ofOp_ret (e : Enc) (s : State) : exec (Instr.ofOp e .ret) s = execRet e s := rfl
theorem exec_ofOp_exit (e : Enc) (s : State) : exec (Instr.ofOp e .exit) s = execExit e s := rfl
theorem exec_ofOp_yield (e : Enc) (s : State) : exec (Instr.ofOp e .yield) s = execYield e s := rfl
theorem exec_ofOp_loop (e : Enc) (s : State) : exec (Instr.ofOp e .loop) s = execLoop e s := rfl
theorem exec_ofOp_trap (e : Enc) (s : State) : exec (Instr.ofOp e .trap) s = execTrap e s := rfl
theorem exec_ofOp_eret (e : Enc) (s : State) : exec (Instr.ofOp e .eret) s = execEret e s := rfl
theorem exec_ofOp_bkpt (e : Enc) (s : State) : exec (Instr.ofOp e .bkpt) s = execBkpt e s := rfl
theorem exec_ofOp_csrrd (e : Enc) (s : State) : exec (Instr.ofOp e .csrrd) s = execCsrrd e s := rfl
theorem exec_ofOp_csrwr (e : Enc) (s : State) : exec (Instr.ofOp e .csrwr) s = execCsrwr e s := rfl
theorem exec_ofOp_halt (e : Enc) (s : State) : exec (Instr.ofOp e .halt) s = execHalt e s := rfl
theorem exec_ofOp_ld (e : Enc) (s : State) : exec (Instr.ofOp e .ld) s = execLd e s := rfl
theorem exec_ofOp_st (e : Enc) (s : State) : exec (Instr.ofOp e .st) s = execSt e s := rfl
theorem exec_ofOp_ldfe (e : Enc) (s : State) : exec (Instr.ofOp e .ldfe) s = execLdfe e s := rfl
theorem exec_ofOp_stfe (e : Enc) (s : State) : exec (Instr.ofOp e .stfe) s = execStfe e s := rfl
theorem exec_ofOp_stn4 (e : Enc) (s : State) : exec (Instr.ofOp e .stn4) s = execStn4 e s := rfl
theorem exec_ofOp_atom (e : Enc) (s : State) : exec (Instr.ofOp e .atom) s = execAtom e s := rfl
theorem exec_ofOp_red (e : Enc) (s : State) : exec (Instr.ofOp e .red) s = execRed e s := rfl
theorem exec_ofOp_pref (e : Enc) (s : State) : exec (Instr.ofOp e .pref) s = execPref e s := rfl
theorem exec_ofOp_cinv (e : Enc) (s : State) : exec (Instr.ofOp e .cinv) s = execCinv e s := rfl
theorem exec_ofOp_cwb (e : Enc) (s : State) : exec (Instr.ofOp e .cwb) s = execCwb e s := rfl
theorem exec_ofOp_fence (e : Enc) (s : State) : exec (Instr.ofOp e .fence) s = execFence e s := rfl
theorem exec_ofOp_fencesc (e : Enc) (s : State) : exec (Instr.ofOp e .fencesc) s = execFencesc e s := rfl
theorem exec_ofOp_sld (e : Enc) (s : State) : exec (Instr.ofOp e .sld) s = execSld e s := rfl
theorem exec_ofOp_sst (e : Enc) (s : State) : exec (Instr.ofOp e .sst) s = execSst e s := rfl
theorem exec_ofOp_cpy (e : Enc) (s : State) : exec (Instr.ofOp e .cpy) s = execCpy e s := rfl
theorem exec_ofOp_cpyq (e : Enc) (s : State) : exec (Instr.ofOp e .cpyq) s = execCpyq e s := rfl
theorem exec_ofOp_gath (e : Enc) (s : State) : exec (Instr.ofOp e .gath) s = execGath e s := rfl
theorem exec_ofOp_tlwait (e : Enc) (s : State) : exec (Instr.ofOp e .tlwait) s = execTlwait e s := rfl
theorem exec_ofOp_tlrd (e : Enc) (s : State) : exec (Instr.ofOp e .tlrd) s = execTlrd e s := rfl
theorem exec_ofOp_xlate (e : Enc) (s : State) : exec (Instr.ofOp e .xlate) s = execXlate e s := rfl
theorem exec_ofOp_phint (e : Enc) (s : State) : exec (Instr.ofOp e .phint) s = execPhint e s := rfl
theorem exec_ofOp_twflush (e : Enc) (s : State) : exec (Instr.ofOp e .twflush) s = execTwflush e s := rfl
theorem exec_ofOp_acq (e : Enc) (s : State) : exec (Instr.ofOp e .acq) s = execAcq e s := rfl
theorem exec_ofOp_grel (e : Enc) (s : State) : exec (Instr.ofOp e .grel) s = execGrel e s := rfl
theorem exec_ofOp_binit (e : Enc) (s : State) : exec (Instr.ofOp e .binit) s = execBinit e s := rfl
theorem exec_ofOp_barv (e : Enc) (s : State) : exec (Instr.ofOp e .barv) s = execBarv e s := rfl
theorem exec_ofOp_bwait (e : Enc) (s : State) : exec (Instr.ofOp e .bwait) s = execBwait e s := rfl
theorem exec_ofOp_barw (e : Enc) (s : State) : exec (Instr.ofOp e .barw) s = execBarw e s := rfl
theorem exec_ofOp_bxpct (e : Enc) (s : State) : exec (Instr.ofOp e .bxpct) s = execBxpct e s := rfl
theorem exec_ofOp_btest (e : Enc) (s : State) : exec (Instr.ofOp e .btest) s = execBtest e s := rfl
theorem exec_ofOp_bdl (e : Enc) (s : State) : exec (Instr.ofOp e .bdl) s = execBdl e s := rfl
theorem exec_ofOp_tnow (e : Enc) (s : State) : exec (Instr.ofOp e .tnow) s = execTnow e s := rfl
theorem exec_ofOp_twait (e : Enc) (s : State) : exec (Instr.ofOp e .twait) s = execTwait e s := rfl
theorem exec_ofOp_setdl (e : Enc) (s : State) : exec (Instr.ofOp e .setdl) s = execSetdl e s := rfl
theorem exec_ofOp_dlget (e : Enc) (s : State) : exec (Instr.ofOp e .dlget) s = execDlget e s := rfl
theorem exec_ofOp_mpost (e : Enc) (s : State) : exec (Instr.ofOp e .mpost) s = execMpost e s := rfl
theorem exec_ofOp_aclr (e : Enc) (s : State) : exec (Instr.ofOp e .aclr) s = execAclr e s := rfl
theorem exec_ofOp_acld (e : Enc) (s : State) : exec (Instr.ofOp e .acld) s = execAcld e s := rfl
theorem exec_ofOp_acst (e : Enc) (s : State) : exec (Instr.ofOp e .acst) s = execAcst e s := rfl
theorem exec_ofOp_mstat (e : Enc) (s : State) : exec (Instr.ofOp e .mstat) s = execMstat e s := rfl
theorem exec_ofOp_mcncl (e : Enc) (s : State) : exec (Instr.ofOp e .mcncl) s = execMcncl e s := rfl
theorem exec_ofOp_seedscan (e : Enc) (s : State) : exec (Instr.ofOp e .seedscan) s = execSeedscan e s := rfl
theorem exec_ofOp_seedgen (e : Enc) (s : State) : exec (Instr.ofOp e .seedgen) s = execSeedgen e s := rfl
theorem exec_ofOp_rsvi (e : Enc) (s : State) : exec (Instr.ofOp e .rsvi) s = execRsvi e s := rfl
theorem exec_ofOp_rsvu (e : Enc) (s : State) : exec (Instr.ofOp e .rsvu) s = execRsvu e s := rfl
theorem exec_ofOp_rsvm (e : Enc) (s : State) : exec (Instr.ofOp e .rsvm) s = execRsvm e s := rfl
theorem exec_ofOp_rsvf (e : Enc) (s : State) : exec (Instr.ofOp e .rsvf) s = execRsvf e s := rfl
theorem exec_ofOp_rsvget (e : Enc) (s : State) : exec (Instr.ofOp e .rsvget) s = execRsvget e s := rfl
theorem exec_ofOp_rsvset (e : Enc) (s : State) : exec (Instr.ofOp e .rsvset) s = execRsvset e s := rfl
theorem exec_ofOp_trace (e : Enc) (s : State) : exec (Instr.ofOp e .trace) s = execTrace e s := rfl
theorem exec_ofOp_beam (e : Enc) (s : State) : exec (Instr.ofOp e .beam) s = execBeam e s := rfl
theorem exec_ofOp_hitld (e : Enc) (s : State) : exec (Instr.ofOp e .hitld) s = execHitld e s := rfl
theorem exec_ofOp_pxl (e : Enc) (s : State) : exec (Instr.ofOp e .pxl) s = execPxl e s := rfl
theorem exec_ofOp_pxs (e : Enc) (s : State) : exec (Instr.ofOp e .pxs) s = execPxs e s := rfl
theorem exec_ofOp_frmacq (e : Enc) (s : State) : exec (Instr.ofOp e .frmacq) s = execFrmacq e s := rfl
theorem exec_ofOp_fpres (e : Enc) (s : State) : exec (Instr.ofOp e .fpres) s = execFpres e s := rfl
theorem exec_ofOp_frmst (e : Enc) (s : State) : exec (Instr.ofOp e .frmst) s = execFrmst e s := rfl
theorem exec_ofOp_qpost (e : Enc) (s : State) : exec (Instr.ofOp e .qpost) s = execQpost e s := rfl
theorem exec_ofOp_qwait (e : Enc) (s : State) : exec (Instr.ofOp e .qwait) s = execQwait e s := rfl
theorem exec_ofOp_qstat (e : Enc) (s : State) : exec (Instr.ofOp e .qstat) s = execQstat e s := rfl
theorem exec_ofOp_kstat (e : Enc) (s : State) : exec (Instr.ofOp e .kstat) s = execKstat e s := rfl
theorem exec_ofOp_rwr (e : Enc) (s : State) : exec (Instr.ofOp e .rwr) s = execRwr e s := rfl
theorem exec_ofOp_rrd (e : Enc) (s : State) : exec (Instr.ofOp e .rrd) s = execRrd e s := rfl
theorem exec_ofOp_rwrf (e : Enc) (s : State) : exec (Instr.ofOp e .rwrf) s = execRwrf e s := rfl
theorem exec_ofOp_ratm (e : Enc) (s : State) : exec (Instr.ofOp e .ratm) s = execRatm e s := rfl
theorem exec_ofOp_lred (e : Enc) (s : State) : exec (Instr.ofOp e .lred) s = execLred e s := rfl
theorem exec_ofOp_rdva (e : Enc) (s : State) : exec (Instr.ofOp e .rdva) s = execRdva e s := rfl
theorem exec_ofOp_rdvw (e : Enc) (s : State) : exec (Instr.ofOp e .rdvw) s = execRdvw e s := rfl
theorem exec_ofOp_lstat (e : Enc) (s : State) : exec (Instr.ofOp e .lstat) s = execLstat e s := rfl

end Sys2Proof.Machine
end

