-- ==== Sys2Proof/Laws/Float.lean ====
section
/-! SUPPORT. The rounding of the model is that of R76 and R77: the code it gives is one of the two neighbours of the exact value, and the
mode's. -/

namespace Sys2Proof.Machine

/-- A value of the model is a value in whole units of 2^u. -/
def ValIs (u : Int) : Val → FVal → Prop
  | .nan, .nan => True
  | .inf n, .inf k => n = k
  | .fin n m e, .num k x => n = k ∧ (m = 0 → x = 0) ∧ (m ≠ 0 → u ≤ e ∧ x = m * 2 ^ (e - u).toNat)
  | _, _ => False

/-- The units of a code that is written as an exponent step and a significand, from the least normal one on. -/
theorem Fmt.units_step (f : Fmt) (d k : Nat) (h1 : 2 ^ f.fb ≤ k ∨ d = 0) (h2 : k ≤ 2 ^ (f.fb + 1)) :
    f.units (d * 2 ^ f.fb + k) = k * 2 ^ d := by
  have hp : 0 < 2 ^ f.fb := Nat.two_pow_pos _
  have hs : 2 ^ (f.fb + 1) = 2 ^ f.fb + 2 ^ f.fb := by rw [Nat.pow_succ]; omega
  unfold Fmt.units
  have hdiv : (d * 2 ^ f.fb + k) / 2 ^ f.fb = d + k / 2 ^ f.fb := by
    rw [Nat.add_comm, Nat.add_mul_div_right _ _ hp, Nat.add_comm]
  have hmod : (d * 2 ^ f.fb + k) % 2 ^ f.fb = k % 2 ^ f.fb := by
    rw [Nat.add_comm, Nat.add_mul_mod_self_right]
  rw [hdiv, hmod]
  by_cases hk : k < 2 ^ f.fb
  · rcases h1 with h1 | rfl
    · omega
    · simp [Nat.div_eq_of_lt hk]
  · by_cases hk2 : k < 2 ^ (f.fb + 1)
    · have hq : k / 2 ^ f.fb = 1 := by
        rw [Nat.div_eq_iff hp]; omega
      have hr : k % 2 ^ f.fb = k - 2 ^ f.fb := by
        rw [Nat.mod_eq_sub_mod (by omega), Nat.mod_eq_of_lt (by omega)]
      rw [hq, hr, if_neg (by omega), show d + 1 - 1 = d by omega, show 2 ^ f.fb + (k - 2 ^ f.fb) = k by omega]
    · have he : k = 2 * 2 ^ f.fb := by omega
      subst he
      have hd : 2 ^ (d + 1) = 2 * 2 ^ d := by omega
      rw [Nat.mul_div_cancel _ hp, Nat.mul_mod_left, if_neg (by omega), show d + 2 - 1 = d + 1 by omega, hd]
      simp only [Nat.add_zero]
      ac_rfl

/-- The exact rounding of a magnitude m × 2^e into whole units of a spacing 2^q: the kept part, the discarded part, and their places. -/
theorem quantize_parts (f : Fmt) (r : Rnd) (n : Bool) (m : Nat) (e : Int) (hm : m ≠ 0) (g : Nat) (hu : f.qmin - g ≤ e) :
    let ex : Int := (Nat.log2 m : Int) + e
    let q := max ex f.emin - (f.fb : Int)
    let d := (q - f.qmin).toNat
    ∃ k rem s p, quantize r n m e q = (if roundUp r n (k % 2 == 1) rem s then k + 1 else k, rem != 0) ∧ rem < 2 ^ s ∧
      m * 2 ^ (e - (f.qmin - g)).toNat = (k * 2 ^ s + rem) * p ∧ 2 ^ s * p = 2 ^ (d + g) ∧ k < 2 ^ (f.fb + 1) ∧
      (2 ^ f.fb ≤ k ∨ d = 0) := by
  intro ex q d
  have hl1 : 2 ^ Nat.log2 m ≤ m := Nat.log2_self_le hm
  have hl2 : m < 2 ^ (Nat.log2 m + 1) := Nat.lt_log2_self
  have hq : q = f.qmin + d := by simp only [d, q, Fmt.qmin]; omega
  have hmax : ex - q ≤ f.fb := by simp only [q]; omega
  have hmax' : d ≠ 0 → ex - q = f.fb := by simp only [d, q, Fmt.qmin]; omega
  by_cases hc : q ≤ e
  · refine ⟨m * 2 ^ (e - q).toNat, 0, 0, 2 ^ (d + g), ?_, by simp, ?_, by simp, ?_, ?_⟩
    · have h0 : ∀ b, roundUp r n b 0 0 = false := by intro b; cases r <;> simp [roundUp]
      simp [quantize, hc, h0]
    · rw [show (e - (f.qmin - g)).toNat = (e - q).toNat + (d + g) by omega, Nat.pow_add]
      simp only [Nat.pow_zero, Nat.mul_one, Nat.add_zero]
      ac_rfl
    · refine Nat.lt_of_lt_of_le (Nat.mul_lt_mul_of_pos_right hl2 (Nat.two_pow_pos _)) ?_
      rw [← Nat.pow_add]
      exact Nat.pow_le_pow_right (by omega) (by simp only [ex] at hmax; omega)
    · by_cases hd : d = 0
      · exact .inr hd
      · refine .inl (Nat.le_trans (Nat.le_of_eq ?_) (Nat.mul_le_mul_right _ hl1))
        rw [← Nat.pow_add]
        have := hmax' hd
        congr 1
        simp only [ex] at this; omega
  · refine ⟨m / 2 ^ (q - e).toNat, m % 2 ^ (q - e).toNat, (q - e).toNat, 2 ^ (d + g - (q - e).toNat), ?_,
      Nat.mod_lt _ (Nat.two_pow_pos _), ?_, ?_, ?_, ?_⟩
    · simp [quantize, hc]
    · rw [Nat.div_add_mod', show (e - (f.qmin - g)).toNat = d + g - (q - e).toNat by omega]
    · rw [← Nat.pow_add]; congr 1; omega
    · rw [Nat.div_lt_iff_lt_mul (Nat.two_pow_pos _), ← Nat.pow_add]
      refine Nat.lt_of_lt_of_le hl2 (Nat.pow_le_pow_right (by omega) ?_)
      simp only [ex] at hmax; omega
    · by_cases hd : d = 0
      · exact .inr hd
      · refine .inl ((Nat.le_div_iff_mul_le (Nat.two_pow_pos _)).2 ?_)
        rw [← Nat.pow_add]
        have := hmax' hd
        refine Nat.le_trans (Nat.le_of_eq ?_) hl1
        congr 1
        simp only [ex] at this; omega

/-- The mode's choice between the two neighbours is by the discarded part. -/
theorem takesUpper_iff (r : Rnd) (n : Bool) (c k rem s p w : Nat) (hp : 0 < p) (hw : 2 ^ s * p = w) (hc : c % 2 = k % 2) :
    takesUpper r n c (k * w) ((k + 1) * w) ((k * 2 ^ s + rem) * p) ↔ roundUp r n (k % 2 == 1) rem s = true := by
  have hx : (k * 2 ^ s + rem) * p = k * w + rem * p := by rw [Nat.add_mul, Nat.mul_assoc, hw]
  have h1 : (k + 1) * w = k * w + 2 ^ s * p := by rw [Nat.add_mul, hw]; omega
  have lt : 2 ^ s * p < 2 * (rem * p) ↔ 2 ^ s < 2 * rem := by
    rw [← Nat.mul_assoc]; exact Nat.mul_lt_mul_right hp
  have le : 2 ^ s * p ≤ 2 * (rem * p) ↔ 2 ^ s ≤ 2 * rem := by
    rw [← Nat.mul_assoc]; exact Nat.mul_le_mul_right_iff hp
  have ne : rem * p ≠ 0 ↔ rem ≠ 0 := by
    simp only [ne_eq, Nat.mul_eq_zero, not_or]; omega
  rw [hx, h1]
  generalize rem * p = y at *
  generalize 2 ^ s * p = z at *
  generalize k * w = v at *
  cases r <;> simp only [takesUpper, roundUp, hc]
  · simp; omega
  · simp
  · cases n <;> simp <;> omega
  · cases n <;> simp <;> omega
  · simp; omega

/-- What overflow delivers in a format with infinities (R77, R79). -/
theorem overflow_code (f : Fmt) (hinf : f.hasInf = true) (hnan : f.hasNan = true) (r : Rnd) (sat n : Bool) :
    overflow f r sat n =
      withSign f n (if sat = true ∨ r = .tz ∨ (r = .up ∧ n = true) ∨ (r = .dn ∧ n = false) then f.maxCode else f.infCode) := by
  unfold overflow
  cases r <;> cases sat <;> cases n <;> simp [hinf, hnan]

/-- R76, R77: the rounding of a number that is not zero, given in units of which 2^g make one of the format's. -/
theorem roundF_num (f : Fmt) (hfb : 0 < f.fb) (hinf : f.hasInf = true) (hnan : f.hasNan = true) (r : Rnd) (sat n nv : Bool) (m : Nat)
    (e : Int) (hm : m ≠ 0) (g : Nat) (hu : f.qmin - g ≤ e) :
    RoundsTo f r sat (2 ^ g) (.num n (m * 2 ^ (e - (f.qmin - g)).toNat)) nv (roundF f r sat (.fin n m e)).bits
      (roundF f r sat (.fin n m e)).fl := by
  obtain ⟨k, rem, s, p, hqz, hrem, hx, hp, hk, hlow⟩ := quantize_parts f r n m e hm g hu
  obtain ⟨m', rfl⟩ : ∃ m', m = m' + 1 := ⟨m - 1, by omega⟩
  have hp0 : 0 < p := by
    rcases Nat.eq_zero_or_pos p with h | h
    · rw [h, Nat.mul_zero] at hp
      exact absurd hp.symm (Nat.ne_of_gt (Nat.two_pow_pos _))
    · exact h
  have hx0 : (m' + 1) * 2 ^ (e - (f.qmin - g)).toNat ≠ 0 :=
    Nat.mul_ne_zero (by omega) (Nat.ne_of_gt (Nat.two_pow_pos _))
  unfold roundF
  simp only []
  revert hqz hp hlow
  generalize hd : (max ((Nat.log2 (m' + 1) : Int) + e) f.emin - (f.fb : Int) - f.qmin).toNat = d
  intro hqz hp hlow
  rw [hqz]
  -- the units of the two neighbours
  have hc1 : f.units (d * 2 ^ f.fb + k) * 2 ^ g = k * 2 ^ (d + g) := by
    rw [f.units_step d k hlow (by omega), Nat.pow_add]; ac_rfl
  have hc2 : f.units (d * 2 ^ f.fb + (k + 1)) * 2 ^ g = (k + 1) * 2 ^ (d + g) := by
    rw [f.units_step d (k + 1) (hlow.imp_left fun h => by omega) (by omega), Nat.pow_add]; ac_rfl
  have hpar : (d * 2 ^ f.fb + k) % 2 = k % 2 := by
    obtain ⟨b, hb⟩ : ∃ b, f.fb = b + 1 := ⟨f.fb - 1, by omega⟩
    rw [hb, Nat.pow_succ, ← Nat.mul_assoc, Nat.mul_comm _ 2, Nat.mul_add_mod]
  have hup := takesUpper_iff r n (d * 2 ^ f.fb + k) k rem s p (2 ^ (d + g)) hp0 hp hpar
  have hlt : rem * p < 2 ^ (d + g) := by rw [← hp]; exact Nat.mul_lt_mul_of_pos_right hrem hp0
  have hsum : (k * 2 ^ s + rem) * p = k * 2 ^ (d + g) + rem * p := by rw [Nat.add_mul, Nat.mul_assoc, hp]
  have hsucc : (k + 1) * 2 ^ (d + g) = k * 2 ^ (d + g) + 2 ^ (d + g) := by rw [Nat.add_mul]; omega
  have hrem0 : rem * p = 0 ↔ rem = 0 := by rw [Nat.mul_eq_zero]; omega
  have hno : rem = 0 → roundUp r n (k % 2 == 1) rem s = false := by
    rintro rfl
    have := Nat.two_pow_pos s
    cases r <;> simp [roundUp] <;> omega
  have hsub : (m' + 1) * 2 ^ (e - (f.qmin - g)).toNat < f.units (2 ^ f.fb) * 2 ^ g ↔ (Nat.log2 (m' + 1) : Int) + e < f.emin := by
    have h1 := f.units_step 0 (2 ^ f.fb) (.inl (Nat.le_refl _)) (Nat.pow_le_pow_right (by omega) (by omega))
    simp only [Nat.zero_mul, Nat.zero_add, Nat.pow_zero, Nat.mul_one] at h1
    rw [h1, ← Nat.pow_add]
    have hl1 : 2 ^ Nat.log2 (m' + 1) ≤ m' + 1 := Nat.log2_self_le (by omega)
    have hl2 : m' + 1 < 2 ^ (Nat.log2 (m' + 1) + 1) := Nat.lt_log2_self
    constructor
    · intro h
      have h2 : 2 ^ (Nat.log2 (m' + 1) + (e - (f.qmin - g)).toNat) < 2 ^ (f.fb + g) := by
        rw [Nat.pow_add]; exact Nat.lt_of_le_of_lt (Nat.mul_le_mul_right _ hl1) h
      have := (Nat.pow_lt_pow_iff_right (by omega : 1 < 2)).1 h2
      simp only [Fmt.qmin] at *; omega
    · intro h
      refine Nat.lt_of_lt_of_le (Nat.mul_lt_mul_of_pos_right hl2 (Nat.two_pow_pos _)) ?_
      rw [← Nat.pow_add]
      refine Nat.pow_le_pow_right (by omega) ?_
      simp only [Fmt.qmin] at *; omega
  generalize hX : (m' + 1) * 2 ^ (e - (f.qmin - g)).toNat = x at *
  obtain ⟨x', rfl⟩ : ∃ x', x = x' + 1 := ⟨x - 1, by omega⟩
  have hex : f.units (d * 2 ^ f.fb + (if roundUp r n (k % 2 == 1) rem s then k + 1 else k)) * 2 ^ g = x' + 1 ↔ rem = 0 := by
    split
    · next h =>
      rw [hc2]
      constructor
      · omega
      · intro h0; rw [hno h0] at h; cases h
    · rw [hc1]; omega
  have hu1 : takesUpper r n (d * 2 ^ f.fb + k) (f.units (d * 2 ^ f.fb + k) * 2 ^ g) (f.units (d * 2 ^ f.fb + k + 1) * 2 ^ g) (x' + 1) →
      d * 2 ^ f.fb + (if roundUp r n (k % 2 == 1) rem s then k + 1 else k) = d * 2 ^ f.fb + k + 1 := by
    rw [hc1, Nat.add_assoc, hc2, hx, hup]; intro h; rw [if_pos h]
  have hu2 : ¬takesUpper r n (d * 2 ^ f.fb + k) (f.units (d * 2 ^ f.fb + k) * 2 ^ g) (f.units (d * 2 ^ f.fb + k + 1) * 2 ^ g) (x' + 1) →
      d * 2 ^ f.fb + (if roundUp r n (k % 2 == 1) rem s then k + 1 else k) = d * 2 ^ f.fb + k := by
    rw [hc1, Nat.add_assoc, hc2, hx, hup]; intro h; rw [if_neg h]
  have hl1 : f.units (d * 2 ^ f.fb + k) * 2 ^ g ≤ x' + 1 := by rw [hc1]; omega
  have hl2 : x' + 1 < f.units (d * 2 ^ f.fb + k + 1) * 2 ^ g := by rw [Nat.add_assoc, hc2]; omega
  clear hqz hup hno hc1 hc2
  generalize (if roundUp r n (k % 2 == 1) rem s then k + 1 else k) = K at *
  refine ⟨d * 2 ^ f.fb + k, d * 2 ^ f.fb + K, hl1, hl2, hu1, hu2, ?_⟩
  by_cases hov : f.maxCode < d * 2 ^ f.fb + K
  · rw [if_pos hov]
    simp only [if_pos hov]
    exact ⟨overflow_code f hinf hnan r sat n, trivial⟩
  · rw [if_neg hov]
    simp only [if_neg hov]
    refine ⟨trivial, ?_⟩
    by_cases h0 : rem = 0
    · rw [if_pos (hex.2 h0)]; simp [h0]
    · rw [if_neg (fun h => h0 (hex.1 h))]
      by_cases hs : (Nat.log2 (m' + 1) : Int) + e < f.emin
      · rw [if_pos (hsub.2 hs)]; simp [h0, hs]
      · rw [if_neg (fun h => hs (hsub.1 h))]; simp [h0, hs]

/-- R75 to R79: the rounding of an exact value, given in units of which 2^g make one of the format's. -/
theorem roundRes_roundsTo (f : Fmt) (hfb : 0 < f.fb) (hinf : f.hasInf = true) (hnan : f.hasNan = true) (r : Rnd) (sat nv : Bool)
    (g : Nat) {v : Val} {x : FVal} (h : ValIs (f.qmin - g) v x) (hv : nv = true → x = .nan) :
    RoundsTo f r sat (2 ^ g) x nv (roundRes f r sat (v, nv)).bits (roundRes f r sat (v, nv)).fl := by
  cases v with
  | nan => cases x with
    | nan => cases nv <;> simp [roundRes, roundF, hnan, RoundsTo]
    | inf | num => exact h.elim
  | inf n => cases x with
    | inf k =>
      cases h
      cases nv
      · simp [roundRes, roundF, hinf, RoundsTo]
      · cases hv rfl
    | nan | num => exact h.elim
  | fin n m e => cases x with
    | nan | inf => exact h.elim
    | num k x =>
      obtain ⟨rfl, h0, h1⟩ := h
      cases nv
      · by_cases hm : m = 0
        · subst hm
          rw [h0 rfl]
          simp [roundRes, roundF, RoundsTo]
        · obtain ⟨hu, rfl⟩ := h1 hm
          have := roundF_num f hfb hinf hnan r sat n false m e hm g hu
          simpa [roundRes] using this
      · cases hv rfl

/-! ### Exact values -/

theorem decodeF_is (f : Fmt) (hinf : f.hasInf = true) (bits : Nat) : ValIs f.qmin (decodeF f bits) (fval f bits) := by
  unfold decodeF fval Fmt.signBit
  simp only [hinf, Bool.true_and, Bool.not_true, Bool.false_and, Bool.false_eq_true, if_false, beq_iff_eq, decide_eq_true_eq]
  generalize bits % 2 ^ (f.eb + f.fb) = mag
  by_cases h1 : mag = f.infCode
  · subst h1; simp [ValIs]
  · rw [if_neg h1]
    by_cases h2 : f.infCode < mag
    · rw [if_pos h2, if_pos h2]; trivial
    · rw [if_neg h2, if_neg h2, if_neg h1]
      unfold Fmt.units
      by_cases h3 : mag / 2 ^ f.fb = 0
      · have hm : mag % 2 ^ f.fb = mag := Nat.mod_eq_of_lt (Nat.div_eq_zero_iff.1 h3 |>.resolve_left (Nat.ne_of_gt (Nat.two_pow_pos _)))
        rw [if_pos h3, if_pos h3, hm]
        exact ⟨rfl, fun h => h, fun _ => ⟨Int.le_refl _, by simp⟩⟩
      · rw [if_neg h3, if_neg h3]
        refine ⟨rfl, fun h => ?_, fun _ => ⟨?_, ?_⟩⟩
        · have := Nat.two_pow_pos f.fb; omega
        · generalize mag / 2 ^ f.fb = ex at *
          simp only [Fmt.qmin, Fmt.emin]; omega
        · generalize mag / 2 ^ f.fb = ex at *
          congr 2; simp only [Fmt.qmin, Fmt.emin]; omega

theorem ValIs.negate {u : Int} {v : Val} {x : FVal} (h : ValIs u v x) : ValIs u v.negate x.negated := by
  cases v <;> cases x <;> simp_all [ValIs, Val.negate, FVal.negated]

theorem ValIs.finer {u : Int} {v : Val} {x : FVal} (h : ValIs u v x) (g : Nat) : ValIs (u - g) v (x.finer (2 ^ g)) := by
  cases v with
  | fin n m e => cases x with
    | num k x =>
      obtain ⟨h1, h2, h3⟩ := h
      refine ⟨h1, fun hm => by rw [h2 hm, Nat.zero_mul], fun hm => ?_⟩
      obtain ⟨h4, rfl⟩ := h3 hm
      refine ⟨by omega, ?_⟩
      rw [show (e - (u - g)).toNat = (e - u).toNat + g by omega, Nat.pow_add, Nat.mul_assoc]
    | _ => exact h.elim
  | _ => cases x <;> exact h

theorem ValIs.zero_iff {u : Int} {n k : Bool} {m x : Nat} {e : Int} (h : ValIs u (.fin n m e) (.num k x)) : x = 0 ↔ m = 0 := by
  obtain ⟨_, h2, h3⟩ := h
  refine ⟨fun hx => Classical.byContradiction fun hm => ?_, h2⟩
  obtain ⟨_, rfl⟩ := h3 hm
  exact (Nat.mul_ne_zero hm (Nat.ne_of_gt (Nat.two_pow_pos _))) hx

theorem ValIs.times {u u' : Int} {v v' : Val} {x x' : FVal} (h : ValIs u v x) (h' : ValIs u' v' x') :
    ValIs (u + u') (v.mul v').1 (x.times x').1 ∧ (v.mul v').2 = (x.times x').2 := by
  cases v with
  | nan => cases x with
    | nan => cases v' <;> cases x' <;> simp_all [ValIs, Val.mul, FVal.times]
    | _ => exact h.elim
  | inf n => cases x with
    | inf k =>
      cases h
      cases v' with
      | fin n' m' e' => cases x' with
        | num k' x' =>
          have hz := h'.zero_iff
          obtain ⟨rfl, _, _⟩ := h'
          by_cases hm : m' = 0
          · simp [Val.mul, FVal.times, hm, hz.2 hm, ValIs]
          · simp [Val.mul, FVal.times, hm, mt hz.1 hm, ValIs]
        | _ => exact h'.elim
      | _ => cases x' <;> simp_all [ValIs, Val.mul, FVal.times]
    | _ => exact h.elim
  | fin n m e => cases x with
    | num k x =>
      have hz := h.zero_iff
      obtain ⟨rfl, h2, h3⟩ := h
      cases v' with
      | fin n' m' e' => cases x' with
        | num k' x' =>
          obtain ⟨rfl, h2', h3'⟩ := h'
          refine ⟨⟨rfl, fun hm => ?_, fun hm => ?_⟩, rfl⟩
          · rcases Nat.mul_eq_zero.1 hm with hm | hm
            · rw [h2 hm, Nat.zero_mul]
            · rw [h2' hm, Nat.mul_zero]
          · obtain ⟨ha, rfl⟩ := h3 (fun h => hm (by rw [h, Nat.zero_mul]))
            obtain ⟨hb, rfl⟩ := h3' (fun h => hm (by rw [h, Nat.mul_zero]))
            refine ⟨by omega, ?_⟩
            rw [show (e + e' - (u + u')).toNat = (e - u).toNat + (e' - u').toNat by omega, Nat.pow_add]
            ac_rfl
        | _ => exact h'.elim
      | inf n' => cases x' with
        | inf k' =>
          cases h'
          by_cases hm : m = 0
          · simp [Val.mul, FVal.times, hm, hz.2 hm, ValIs]
          · simp [Val.mul, FVal.times, hm, mt hz.1 hm, ValIs]
        | _ => exact h'.elim
      | nan => cases x' <;> simp_all [ValIs, Val.mul, FVal.times]
    | _ => exact h.elim

/-- One term of a sum, in units of the least exponent and in whole units. -/
theorem ValIs.term {u q : Int} {n k : Bool} {m x : Nat} {e : Int} (h : ValIs u (.fin n m e) (.num k x)) (hu : u ≤ q) (hq : m ≠ 0 → q ≤ e) :
    FVal.signed k x = (let y : Int := if m = 0 then 0 else (m * 2 ^ (e - q).toNat : Nat); if n then -y else y) * (2 ^ (q - u).toNat : Nat) := by
  obtain ⟨rfl, h2, h3⟩ := h
  by_cases hm : m = 0
  · simp [h2 hm, hm, FVal.signed]
  · obtain ⟨h4, rfl⟩ := h3 hm
    have hq := hq hm
    have he : m * 2 ^ (e - u).toNat = m * 2 ^ (e - q).toNat * 2 ^ (q - u).toNat := by
      rw [show (e - u).toNat = (e - q).toNat + (q - u).toNat by omega, Nat.pow_add, Nat.mul_assoc]
    rw [he]
    cases n
    · simp only [FVal.signed, hm, if_false, Bool.false_eq_true]; push_cast; rfl
    · simp only [FVal.signed, hm, if_false, if_true]; push_cast; rw [Int.neg_mul]

theorem minExp_pair (n n' : Bool) (m m' : Nat) (e e' : Int) :
    let q := minExp [.fin n m e, .fin n' m' e'] (firstExp [.fin n m e, .fin n' m' e'])
    (m ≠ 0 → q ≤ e) ∧ (m' ≠ 0 → q ≤ e') ∧ (q = e ∨ q = e' ∨ (m = 0 ∧ m' = 0)) ∧ (m = 0 → m' ≠ 0 → q = e') ∧ (m ≠ 0 → m' = 0 → q = e) := by
  cases m <;> cases m' <;> simp [minExp, firstExp] <;> omega

theorem ValIs.plus {u : Int} {v v' : Val} {x x' : FVal} (r : Rnd) (h : ValIs u v x) (h' : ValIs u v' x') :
    ValIs u (exactSum r [v, v']).1 (x.plus r x').1 ∧ (exactSum r [v, v']).2 = (x.plus r x').2 := by
  cases v with
  | nan => cases x with
    | nan => cases v' <;> cases x' <;> simp_all [ValIs, exactSum, FVal.plus, Val.isNan]
    | _ => exact h.elim
  | inf n => cases x with
    | inf k =>
      cases h
      cases v' with
      | nan => cases x' <;> simp_all [ValIs, exactSum, FVal.plus, Val.isNan]
      | inf n' => cases x' with
        | inf k' => cases h'; cases n <;> cases n' <;> simp [ValIs, exactSum, FVal.plus, Val.isNan]
        | _ => exact h'.elim
      | fin n' m' e' => cases x' with
        | num k' x' => cases n <;> simp [ValIs, exactSum, FVal.plus, Val.isNan]
        | _ => exact h'.elim
    | _ => exact h.elim
  | fin n m e => cases x with
    | num k x =>
      cases v' with
      | nan => cases x' <;> simp_all [ValIs, exactSum, FVal.plus, Val.isNan]
      | inf n' => cases x' with
        | inf k' => cases h'; cases n' <;> simp [ValIs, exactSum, FVal.plus, Val.isNan]
        | _ => exact h'.elim
      | fin n' m' e' => cases x' with
        | num k' x' =>
          obtain ⟨q1, q2, q3, q4, q5⟩ := minExp_pair n n' m m' e e'
          have hn : n = k := h.1
          have hn' : n' = k' := h'.1
          unfold exactSum FVal.plus
          have hb : ∀ n m e b, (Val.fin n m e == Val.inf b) = false := by simp
          simp only [List.any_cons, List.any_nil, Val.isNan, Bool.or_self, Bool.false_eq_true, if_false, hb,
            Bool.and_self, List.all_cons, List.all_nil, Bool.and_true, Val.neg?]
          generalize minExp [.fin n m e, .fin n' m' e'] (firstExp [.fin n m e, .fin n' m' e']) = q at *
          by_cases hz : m = 0 ∧ m' = 0
          · have hx := h.zero_iff.2 hz.1
            have hx' := h'.zero_iff.2 hz.2
            subst hx hx' hn hn'
            simp [sumAt, hz.1, hz.2, FVal.signed, ValIs]
            cases r <;> cases n <;> cases n' <;> simp
          · have hu : u ≤ q := by
              rcases Nat.eq_zero_or_pos m with hm | hm
              · have := (h'.2.2 (by omega)).1; rw [q4 hm (by omega)]; exact this
              · have hue := (h.2.2 (by omega)).1
                rcases q3 with e1 | e1 | e1
                · omega
                · rcases Nat.eq_zero_or_pos m' with hm' | hm'
                  · rw [q5 (by omega) hm']; exact hue
                  · have := (h'.2.2 (by omega)).1; omega
                · omega
            have t1 := h.term hu q1
            have t2 := h'.term hu q2
            have hs : FVal.signed k x + FVal.signed k' x' = sumAt q [.fin n m e, .fin n' m' e'] * (2 ^ (q - u).toNat : Nat) := by
              rw [t1, t2]; simp only [sumAt, Int.add_zero]; rw [Int.add_mul]
            have hpos : (0 : Int) < (2 ^ (q - u).toNat : Nat) := by have := Nat.two_pow_pos (q - u).toNat; omega
            generalize sumAt q [.fin n m e, .fin n' m' e'] = T at *
            rw [hs]
            subst hn hn'
            by_cases hT : T = 0
            · subst hT
              simp only [Int.zero_mul, if_true]
              refine ⟨⟨?_, fun _ => rfl, fun h => absurd rfl h⟩, trivial⟩
              cases r <;> cases n <;> cases n' <;> rfl
            · have hT' : T * (2 ^ (q - u).toNat : Nat) ≠ 0 := Int.mul_ne_zero hT (by omega)
              rw [if_neg hT, if_neg hT']
              refine ⟨⟨?_, fun h => absurd (Int.natAbs_eq_zero.1 h) hT, fun _ => ⟨hu, ?_⟩⟩, rfl⟩
              · rw [decide_eq_decide]
                constructor
                · intro h; exact Int.mul_neg_of_neg_of_pos h hpos
                · intro h; exact Int.not_le.1 fun hc => absurd (Int.mul_nonneg hc (Int.le_of_lt hpos)) (Int.not_le.2 h)
              · rw [Int.natAbs_mul, Int.natAbs_natCast]
        | _ => exact h'.elim
    | _ => exact h.elim

/-- An invalid result is a NaN. -/
theorem FVal.plus_invalid {r : Rnd} {x y : FVal} (h : (x.plus r y).2 = true) : (x.plus r y).1 = .nan := by
  cases x <;> cases y <;> simp_all [FVal.plus] <;> split at h <;> simp_all

theorem FVal.times_invalid {x y : FVal} (h : (x.times y).2 = true) : (x.times y).1 = .nan := by
  cases x <;> cases y <;> simp_all [FVal.times] <;> split at h <;> simp_all

/-! ### The arithmetic of R159 on one element -/

/-- What the model rounds for an opcode of R159. -/
def exactOf (op : Op) : Rnd → Val → Val → Val → Val × Bool :=
  match op with
  | .fadd | .faddp => exAdd
  | .fsub | .fsubp => exSub
  | .fmul | .fmulp => exMul
  | _ => exFma

/-- The formats of `TYPE` 0 to 2 are those with infinities and NaNs. -/
theorem fmtOf_ieee {ty : Nat} (h : ty ≤ 2) : 0 < (fmtOf ty).fb ∧ (fmtOf ty).hasInf = true ∧ (fmtOf ty).hasNan = true ∧ 0 < (fmtOf ty).bias := by
  match ty, h with
  | 0, _ | 1, _ | 2, _ => decide

/-- Each element of a result of R159 is the exact result, rounded once. -/
theorem exactOf_roundsTo {op : Op} (hop : op ∈ [Op.fadd, .fsub, .fmul, .ffma, .faddp, .fsubp, .fmulp, .ffmap]) (f : Fmt) (hfb : 0 < f.fb)
    (hinf : f.hasInf = true) (hnan : f.hasNan = true) (hbias : 0 < f.bias) (r : Rnd) (sat : Bool) (a b c : Nat) :
    let x := fltSpec op r f (fval f a) (fval f b) (fval f c)
    let y := roundRes f r sat (exactOf op r (decodeF f a) (decodeF f b) (decodeF f c))
    RoundsTo f r sat x.2.2 x.1 x.2.1 y.bits y.fl := by
  have ha := decodeF_is f hinf a
  have hb := decodeF_is f hinf b
  have hc := decodeF_is f hinf c
  have hq : f.qmin + f.qmin = f.qmin - (f.bias + f.fb - 1 : Nat) := by simp only [Fmt.qmin, Fmt.emin]; omega
  have one {v : Val × Bool} {x : FVal × Bool} (h : ValIs f.qmin v.1 x.1 ∧ v.2 = x.2) (hi : x.2 = true → x.1 = .nan) :
      RoundsTo f r sat 1 x.1 x.2 (roundRes f r sat v).bits (roundRes f r sat v).fl := by
    obtain ⟨v, nv⟩ := v
    obtain ⟨h1, h2⟩ := h
    simp only at h1 h2
    subst h2
    exact roundRes_roundsTo f hfb hinf hnan r sat _ 0 (by simpa using h1) hi
  have both {v : Val × Bool} {x : FVal × Bool} (h : ValIs (f.qmin + f.qmin) v.1 x.1 ∧ v.2 = x.2) (hi : x.2 = true → x.1 = .nan) :
      RoundsTo f r sat f.one x.1 x.2 (roundRes f r sat v).bits (roundRes f r sat v).fl := by
    obtain ⟨v, nv⟩ := v
    obtain ⟨h1, h2⟩ := h
    simp only at h1 h2
    subst h2
    rw [hq] at h1
    exact roundRes_roundsTo f hfb hinf hnan r sat _ _ h1 hi
  have add := one (ha.plus r hb) FVal.plus_invalid
  have sub := one (ha.plus r hb.negate) FVal.plus_invalid
  have mul := both (ha.times hb) FVal.times_invalid
  have hf := (ha.times hb).1.plus r (hq ▸ hc.finer (f.bias + f.fb - 1))
  have hcn : (!(decodeF f c).isNan) = decide (fval f c ≠ .nan) := by
    revert hc
    cases decodeF f c <;> cases fval f c <;> simp [ValIs, Val.isNan]
  have fma := both (v := exFma r (decodeF f a) (decodeF f b) (decodeF f c))
    (x := ((fltSpec .ffma r f (fval f a) (fval f b) (fval f c)).1, (fltSpec .ffma r f (fval f a) (fval f b) (fval f c)).2.1))
    ⟨hf.1, by
      show ((_ || _) && _) = ((_ || _) && _)
      rw [(ha.times hb).2, hf.2, hcn]; rfl⟩
    (fun h => by
      have h1 : (((fval f a).times (fval f b)).2 || (((fval f a).times (fval f b)).1.plus r ((fval f c).finer f.one)).2) = true := by
        have : (_ && _) = true := h
        exact (Bool.and_eq_true_iff.1 this).1
      rcases Bool.or_eq_true_iff.1 h1 with h2 | h2
      · show (FVal.plus r _ _).1 = .nan
        rw [FVal.times_invalid h2]; rfl
      · exact FVal.plus_invalid h2)
  simp only [List.mem_cons, List.not_mem_nil, or_false] at hop
  rcases hop with rfl | rfl | rfl | rfl | rfl | rfl | rfl | rfl
  · exact add
  · exact sub
  · exact mul
  · exact fma
  · exact add
  · exact sub
  · exact mul
  · exact fma

/-! ### Comparisons -/

/-- The least exponent of two numbers is a unit in which both terms are whole. -/
theorem ValIs.common {u : Int} {n n' k k' : Bool} {m m' x x' : Nat} {e e' : Int} (h : ValIs u (.fin n m e) (.num k x))
    (h' : ValIs u (.fin n' m' e') (.num k' x')) :
    let q := minExp [.fin n m e, .fin n' m' e'] (firstExp [.fin n m e, .fin n' m' e'])
    ∃ w : Nat, 0 < w ∧ FVal.signed k x = sumAt q [.fin n m e] * w ∧ FVal.signed k' x' = sumAt q [.fin n' m' e'] * w := by
  intro q
  obtain ⟨q1, q2, q3, q4, q5⟩ := minExp_pair n n' m m' e e'
  by_cases hz : m = 0 ∧ m' = 0
  · refine ⟨1, by omega, ?_, ?_⟩
    · simp [h.zero_iff.2 hz.1, sumAt, hz.1, FVal.signed]
    · simp [h'.zero_iff.2 hz.2, sumAt, hz.2, FVal.signed]
  · have hu : u ≤ q := by
      by_cases hm : m = 0
      · have := (h'.2.2 (by omega)).1; simp only [q]; rw [q4 hm (by omega)]; exact this
      · have hue := (h.2.2 hm).1
        by_cases hm' : m' = 0
        · simp only [q]; rw [q5 hm hm']; exact hue
        · have := (h'.2.2 hm').1
          rcases q3 with e1 | e1 | e1 <;> simp only [q] <;> omega
    refine ⟨2 ^ (q - u).toNat, Nat.two_pow_pos _, ?_, ?_⟩
    · rw [h.term hu q1]; simp only [sumAt, Int.add_zero]
    · rw [h'.term hu q2]; simp only [sumAt, Int.add_zero]

/-- The comparison of values that are no NaNs, with equal zeros. -/
theorem cmpVal_is {u : Int} {v v' : Val} {x x' : FVal} (h : ValIs u v x) (h' : ValIs u v' x') (hn : x ≠ .nan) (hn' : x' ≠ .nan) :
    (cmpVal false v v' < 0 ↔ x.below x' = true) ∧ (cmpVal false v v' = 0 ↔ x.same x' = true) ∧
    (0 < cmpVal false v v' ↔ x'.below x = true) := by
  cases v with
  | nan => cases x <;> first | exact absurd rfl hn | exact h.elim
  | inf n => cases x with
    | inf k =>
      cases h
      cases v' with
      | nan => cases x' <;> first | exact absurd rfl hn' | exact h'.elim
      | inf n' => cases x' with
        | inf k' => cases h'; cases n <;> cases n' <;> simp [cmpVal, FVal.below, FVal.same]
        | _ => exact h'.elim
      | fin n' m' e' => cases x' with
        | num k' x' => cases n <;> simp [cmpVal, FVal.below, FVal.same]
        | _ => exact h'.elim
    | _ => exact h.elim
  | fin n m e => cases x with
    | num k x =>
      cases v' with
      | nan => cases x' <;> first | exact absurd rfl hn' | exact h'.elim
      | inf n' => cases x' with
        | inf k' => cases h'; cases n' <;> simp [cmpVal, FVal.below, FVal.same]
        | _ => exact h'.elim
      | fin n' m' e' => cases x' with
        | num k' x' =>
          obtain ⟨w, hw, h1, h2⟩ := h.common h'
          unfold cmpVal FVal.below FVal.same
          simp only [Bool.false_and, Bool.false_eq_true, if_false, decide_eq_true_eq, beq_iff_eq]
          generalize sumAt _ [Val.fin n m e] = s at *
          generalize sumAt _ [Val.fin n' m' e'] = s' at *
          rw [h1, h2]
          have hw' : (0 : Int) < w := by omega
          rw [Int.mul_lt_mul_right hw', Int.mul_lt_mul_right hw', Int.mul_eq_mul_right_iff (by omega)]
          refine ⟨?_, ?_, ?_⟩ <;> split <;> (try split) <;> omega
        | _ => exact h'.elim
    | _ => exact h.elim

theorem ValIs.isNan {u : Int} {v : Val} {x : FVal} (h : ValIs u v x) : v.isNan = (x == .nan) := by
  cases v <;> cases x <;> first | rfl | exact h.elim

/-- `FCMP` is the comparison of R60. -/
theorem fcmp_is {f : Fmt} (hinf : f.hasInf = true) (cc a b : Nat) :
    fcmp cc (decodeF f a) (decodeF f b) = fcmpSpec cc (fval f a) (fval f b) := by
  have ha := decodeF_is f hinf a
  have hb := decodeF_is f hinf b
  unfold fcmp fcmpSpec
  rw [ha.isNan, hb.isNan]
  by_cases hn : (fval f a == .nan || fval f b == .nan) = true
  · simp only [hn]
    by_cases h6 : cc < 6
    · simp [h6]
    · simp [h6]
  · simp only [hn]
    simp only [Bool.or_eq_true, beq_iff_eq, not_or] at hn
    obtain ⟨c1, c2, c3⟩ := cmpVal_is ha hb hn.1 hn.2
    generalize cmpVal false (decodeF f a) (decodeF f b) = c at *
    have e1 : (fval f a).same (fval f b) = decide (c = 0) := by rw [Bool.eq_iff_iff, ← c2]; simp
    have e2 : (fval f a).below (fval f b) = decide (c < 0) := by rw [Bool.eq_iff_iff, ← c1]; simp
    have e3 : (fval f b).below (fval f a) = decide (0 < c) := by rw [Bool.eq_iff_iff, ← c3]; simp
    have e4 : (c == 0) = decide (c = 0) := rfl
    have e5 : (c != 0) = !decide (c = 0) := rfl
    rw [e1, e2, e3]
    simp only [e4, e5]
    rcases Int.lt_trichotomy c 0 with h | h | h
    · simp [show c ≠ 0 by omega, show c < 0 by omega, show c ≤ 0 by omega, show ¬0 < c by omega, show ¬0 ≤ c by omega] <;> rfl
    · simp [h] <;> rfl
    · simp [show c ≠ 0 by omega, show ¬c < 0 by omega, show ¬c ≤ 0 by omega, show 0 < c by omega, show 0 ≤ c by omega] <;> rfl

end Sys2Proof.Machine
end

