-- ==== Sys2Proof/Laws/Sparse.lean ====
section
/-! SUPPORT. The laws of sparse tables: what a read after a write gives, and that writes keep the canonical form. -/

namespace Sys2Proof.Machine

variable {α : Type}

theorem sget_filter_self (d : α) (m : Sparse α) (i : Nat) : sget d (m.filter fun kv => kv.1 != i) i = d := by
  induction m with
  | nil => rfl
  | cons kv r ih =>
    obtain ⟨k, x⟩ := kv
    by_cases h : k = i <;> simp [h, sget, ih]

theorem sget_filter_ne (d : α) (m : Sparse α) {i j : Nat} (h : j ≠ i) :
    sget d (m.filter fun kv => kv.1 != i) j = sget d m j := by
  induction m with
  | nil => rfl
  | cons kv r ih =>
    obtain ⟨k, x⟩ := kv
    by_cases hk : k = i
    · subst hk; simp [sget, ih, Ne.symm h]
    · by_cases hj : k = j
      · subst hj; simp [hk, sget]
      · simp [hk, sget, ih, hj]

/-- A read of a table of which only some keys are kept. -/
theorem sget_sfilter (d : α) (keep : Nat → Bool) (m : Sparse α) (j : Nat) :
    sget d (sfilter keep m) j = if keep j then sget d m j else d := by
  induction m with
  | nil => simp [sfilter, sget]
  | cons kv r ih =>
    obtain ⟨k, x⟩ := kv
    unfold sfilter at ih ⊢
    by_cases hk : keep k = true <;> by_cases hj : k = j
    · subst hj; simp [hk, sget]
    · simp [hk, sget, hj, ih]
    · subst hj; simp [hk, ih]
    · simp [hk, sget, hj, ih]

theorem sget_sput_self (d : α) (m : Sparse α) (i : Nat) (v : α) : sget d (sput m i v) i = v := by
  induction m with
  | nil => simp [sput, sget]
  | cons kv r ih =>
    obtain ⟨k, x⟩ := kv
    by_cases h1 : i < k
    · simp [sput, sget, h1]
    · by_cases h2 : i = k
      · simp [sput, sget, h2]
      · simp [sput, sget, h1, h2, ih, Ne.symm h2]

theorem sget_sput_ne (d : α) (m : Sparse α) {i j : Nat} (v : α) (h : j ≠ i) : sget d (sput m i v) j = sget d m j := by
  induction m with
  | nil => simp [sput, sget, Ne.symm h]
  | cons kv r ih =>
    obtain ⟨k, x⟩ := kv
    by_cases h1 : i < k
    · simp [sput, sget, h1, Ne.symm h]
    · by_cases h2 : i = k
      · subst h2; simp [sput, sget, Ne.symm h]
      · by_cases hj : k = j
        · subst hj; simp [sput, sget, h1, h2]
        · simp [sput, sget, h1, h2, ih, hj]

/-- A read at the key just written gives the value, whatever the table was. -/
@[simp] theorem sget_sset_self [DecidableEq α] (d : α) (m : Sparse α) (i : Nat) (v : α) : sget d (sset d m i v) i = v := by
  unfold sset
  split
  · next h => rw [sget_filter_self, h]
  · rw [sget_sput_self]

/-- A write leaves every other key as it was. -/
theorem sget_sset_ne [DecidableEq α] (d : α) (m : Sparse α) {i j : Nat} (v : α) (h : j ≠ i) :
    sget d (sset d m i v) j = sget d m j := by
  unfold sset
  split
  · rw [sget_filter_ne d m h]
  · rw [sget_sput_ne d m v h]

theorem sget_sset [DecidableEq α] (d : α) (m : Sparse α) (i j : Nat) (v : α) :
    sget d (sset d m i v) j = if j = i then v else sget d m j := by
  by_cases h : j = i
  · subst h; simp
  · simp [sget_sset_ne d m v h, h]

/-! ### The canonical form -/

/-- The canonical form in words: the keys rise strictly and no value is the default. -/
theorem swf_iff [DecidableEq α] (d : α) (m : Sparse α) :
    swf d m = true ↔ (m.map Prod.fst).Pairwise (· < ·) ∧ ∀ kv ∈ m, kv.2 ≠ d := by
  induction m with
  | nil => simp [swf]
  | cons kv r ih =>
    obtain ⟨k, x⟩ := kv
    cases r with
    | nil => simp [swf]
    | cons kv' r' =>
      obtain ⟨k', x'⟩ := kv'
      simp only [swf, Bool.and_eq_true, decide_eq_true_eq, bne_iff_ne, ih]
      simp only [List.map_cons, List.pairwise_cons, List.mem_cons, List.mem_map, forall_eq_or_imp]
      constructor
      · rintro ⟨⟨h1, h2⟩, ⟨h3, h4⟩, h5, h6⟩
        refine ⟨⟨⟨h1, fun a ha => Nat.lt_trans h1 (h3 a ha)⟩, h3, h4⟩, h2, h5, h6⟩
      · rintro ⟨⟨⟨h1, _⟩, h3, h4⟩, h2, h5, h6⟩
        exact ⟨⟨h1, h2⟩, ⟨h3, h4⟩, h5, h6⟩

theorem swf_filter [DecidableEq α] (d : α) (m : Sparse α) (f : Nat × α → Bool) (h : swf d m = true) :
    swf d (m.filter f) = true := by
  rw [swf_iff] at h ⊢
  exact ⟨h.1.sublist ((List.filter_sublist).map _), fun kv hkv => h.2 kv (List.mem_filter.1 hkv).1⟩

theorem mem_sput_key {m : Sparse α} {i : Nat} {v : α} {kv : Nat × α} (h : kv ∈ sput m i v) : kv = (i, v) ∨ kv ∈ m := by
  induction m with
  | nil => simpa [sput] using h
  | cons a r ih =>
    obtain ⟨k, x⟩ := a
    simp only [sput] at h
    split at h
    · simpa using h
    · split at h
      · simp only [List.mem_cons] at h ⊢
        rcases h with h | h
        · exact .inl h
        · exact .inr (.inr h)
      · simp only [List.mem_cons] at h ⊢
        rcases h with h | h
        · exact .inr (.inl h)
        · rcases ih h with h | h
          · exact .inl h
          · exact .inr (.inr h)

theorem pairwise_sput (m : Sparse α) (i : Nat) (v : α) (h : (m.map Prod.fst).Pairwise (· < ·)) :
    ((sput m i v).map Prod.fst).Pairwise (· < ·) := by
  induction m with
  | nil => simp [sput]
  | cons a r ih =>
    obtain ⟨k, x⟩ := a
    simp only [List.map_cons, List.pairwise_cons] at h
    obtain ⟨h1, h2⟩ := h
    simp only [sput]
    split
    · next hlt =>
      simp only [List.map_cons, List.pairwise_cons, List.mem_cons, forall_eq_or_imp]
      exact ⟨⟨hlt, fun b hb => Nat.lt_trans hlt (h1 b hb)⟩, h1, h2⟩
    · split
      · next heq => subst heq; simpa using ⟨by simpa using h1, h2⟩
      · next hge hne =>
        simp only [List.map_cons, List.pairwise_cons]
        refine ⟨fun b hb => ?_, ih h2⟩
        obtain ⟨kv, hkv, rfl⟩ := List.mem_map.1 hb
        rcases mem_sput_key hkv with rfl | hm
        · show k < i; omega
        · exact h1 _ (List.mem_map_of_mem hm)

theorem swf_sset [DecidableEq α] (d : α) (m : Sparse α) (i : Nat) (v : α) (h : swf d m = true) :
    swf d (sset d m i v) = true := by
  unfold sset
  split
  · exact swf_filter d m _ h
  · next hv =>
    rw [swf_iff] at h ⊢
    refine ⟨pairwise_sput m i v h.1, fun kv hkv => ?_⟩
    rcases mem_sput_key hkv with rfl | hm
    · exact hv
    · exact h.2 _ hm

theorem swf_sfilter [DecidableEq α] (d : α) (keep : Nat → Bool) (m : Sparse α) (h : swf d m = true) :
    swf d (sfilter keep m) = true := swf_filter d m _ h

/-! ### Memory images -/

@[simp] theorem byteAt_setByte_self (m : Sparse Byte) (a : Nat) (b : Byte) : byteAt (setByte m a b) a = b :=
  sget_sset_self _ _ _ _

theorem byteAt_setByte_ne (m : Sparse Byte) {a c : Nat} (b : Byte) (h : c ≠ a) : byteAt (setByte m a b) c = byteAt m c :=
  sget_sset_ne _ _ _ h

theorem wf_setByte (m : Sparse Byte) (a : Nat) (b : Byte) (h : Memory.wf m = true) : Memory.wf (setByte m a b) = true :=
  swf_sset _ _ _ _ h

/-- A little-endian write leaves every byte outside its range. -/
theorem byteAt_writeLe_out (n : Nat) (m : Sparse Byte) (a v c : Nat) (h : c < a ∨ a + n ≤ c) :
    byteAt (writeLe m a n v) c = byteAt m c := by
  induction n generalizing m a v with
  | zero => rfl
  | succ n ih =>
    rw [writeLe, ih _ _ _ (by omega), byteAt_setByte_ne _ _ (by omega)]

/-- A little-endian write puts byte `k` of the number at its `k`th address (R5). -/
theorem byteAt_writeLe_in (n : Nat) (m : Sparse Byte) (a v k : Nat) (h : k < n) :
    byteAt (writeLe m a n v) (a + k) = BitVec.ofNat 8 (v / 256 ^ k) := by
  induction n generalizing m a v k with
  | zero => omega
  | succ n ih =>
    rw [writeLe]
    cases k with
    | zero => rw [byteAt_writeLe_out _ _ _ _ _ (by omega)]; simp
    | succ k =>
      rw [show a + (k + 1) = a + 1 + k by omega, ih _ _ _ _ (by omega), Nat.div_div_eq_div_mul,
        ← Nat.pow_succ']

theorem wf_writeLe (n : Nat) (m : Sparse Byte) (a v : Nat) (h : Memory.wf m = true) : Memory.wf (writeLe m a n v) = true := by
  induction n generalizing m a v with
  | zero => exact h
  | succ n ih => exact ih _ _ _ (wf_setByte m a _ h)

/-- A little-endian read after a write of the same bytes gives the number, modulo its width. -/
theorem readLe_writeLe (n : Nat) (m : Sparse Byte) (a v : Nat) : readLe (writeLe m a n v) a n = v % 256 ^ n := by
  induction n generalizing m a v with
  | zero => simp [readLe, Nat.mod_one]
  | succ n ih =>
    rw [readLe, writeLe, byteAt_writeLe_out _ _ _ _ _ (by omega), byteAt_setByte_self, ih, BitVec.toNat_ofNat,
      show 256 ^ (n + 1) = 256 * 256 ^ n by rw [Nat.pow_succ, Nat.mul_comm], Nat.mod_mul]

end Sys2Proof.Machine
end

