-- ==== Sys2Proof/Laws/State.lean ====
section
/-! SUPPORT. The fields that the named updates of the state, of a wave and of a split leave alone: one lemma per field per update, each
true by `rfl`. -/

namespace Sys2Proof.Machine

/-! ### `State.modWave` -/

@[simp] theorem State.modWave_agenda (s : State) (u : Nat) (f : Wave → Wave) : (s.modWave u f).agenda = s.agenda := rfl
@[simp] theorem State.modWave_cur (s : State) (u : Nat) (f : Wave → Wave) : (s.modWave u f).cur = s.cur := rfl
@[simp] theorem State.modWave_turn (s : State) (u : Nat) (f : Wave → Wave) : (s.modWave u f).turn = s.turn := rfl
@[simp] theorem State.modWave_freeCtr (s : State) (u : Nat) (f : Wave → Wave) : (s.modWave u f).freeCtr = s.freeCtr := rfl
@[simp] theorem State.modWave_nextUid (s : State) (u : Nat) (f : Wave → Wave) : (s.modWave u f).nextUid = s.nextUid := rfl
@[simp] theorem State.modWave_pt (s : State) (u : Nat) (f : Wave → Wave) : (s.modWave u f).pt = s.pt := rfl
@[simp] theorem State.modWave_tb (s : State) (u : Nat) (f : Wave → Wave) : (s.modWave u f).tb = s.tb := rfl
@[simp] theorem State.modWave_hbTicks (s : State) (u : Nat) (f : Wave → Wave) : (s.modWave u f).hbTicks = s.hbTicks := rfl
@[simp] theorem State.modWave_ptTicks (s : State) (u : Nat) (f : Wave → Wave) : (s.modWave u f).ptTicks = s.ptTicks := rfl
@[simp] theorem State.modWave_arithMHz (s : State) (u : Nat) (f : Wave → Wave) : (s.modWave u f).arithMHz = s.arithMHz := rfl
@[simp] theorem State.modWave_mem (s : State) (u : Nat) (f : Wave → Wave) : (s.modWave u f).mem = s.mem := rfl
@[simp] theorem State.modWave_hostMem (s : State) (u : Nat) (f : Wave → Wave) : (s.modWave u f).hostMem = s.hostMem := rfl
@[simp] theorem State.modWave_badSectors (s : State) (u : Nat) (f : Wave → Wave) : (s.modWave u f).badSectors = s.badSectors := rfl
@[simp] theorem State.modWave_badFill (s : State) (u : Nat) (f : Wave → Wave) : (s.modWave u f).badFill = s.badFill := rfl
@[simp] theorem State.modWave_lostLines (s : State) (u : Nat) (f : Wave → Wave) : (s.modWave u f).lostLines = s.lostLines := rfl
@[simp] theorem State.modWave_mgmt (s : State) (u : Nat) (f : Wave → Wave) : (s.modWave u f).mgmt = s.mgmt := rfl
@[simp] theorem State.modWave_stores (s : State) (u : Nat) (f : Wave → Wave) : (s.modWave u f).stores = s.stores := rfl
@[simp] theorem State.modWave_sOrder (s : State) (u : Nat) (f : Wave → Wave) : (s.modWave u f).sOrder = s.sOrder := rfl
@[simp] theorem State.modWave_tlb (s : State) (u : Nat) (f : Wave → Wave) : (s.modWave u f).tlb = s.tlb := rfl
@[simp] theorem State.modWave_ats (s : State) (u : Nat) (f : Wave → Wave) : (s.modWave u f).ats = s.ats := rfl
@[simp] theorem State.modWave_atsPend (s : State) (u : Nat) (f : Wave → Wave) : (s.modWave u f).atsPend = s.atsPend := rfl
@[simp] theorem State.modWave_pri (s : State) (u : Nat) (f : Wave → Wave) : (s.modWave u f).pri = s.pri := rfl
@[simp] theorem State.modWave_priOff (s : State) (u : Nat) (f : Wave → Wave) : (s.modWave u f).priOff = s.priOff := rfl
@[simp] theorem State.modWave_priAlloc (s : State) (u : Nat) (f : Wave → Wave) : (s.modWave u f).priAlloc = s.priAlloc := rfl
@[simp] theorem State.modWave_inval (s : State) (u : Nat) (f : Wave → Wave) : (s.modWave u f).inval = s.inval := rfl
@[simp] theorem State.modWave_migrating (s : State) (u : Nat) (f : Wave → Wave) : (s.modWave u f).migrating = s.migrating := rfl
@[simp] theorem State.modWave_retired (s : State) (u : Nat) (f : Wave → Wave) : (s.modWave u f).retired = s.retired := rfl
@[simp] theorem State.modWave_ctxs (s : State) (u : Nat) (f : Wave → Wave) : (s.modWave u f).ctxs = s.ctxs := rfl
@[simp] theorem State.modWave_queues (s : State) (u : Nat) (f : Wave → Wave) : (s.modWave u f).queues = s.queues := rfl
@[simp] theorem State.modWave_itable (s : State) (u : Nat) (f : Wave → Wave) : (s.modWave u f).itable = s.itable := rfl
@[simp] theorem State.modWave_parkBuf (s : State) (u : Nat) (f : Wave → Wave) : (s.modWave u f).parkBuf = s.parkBuf := rfl
@[simp] theorem State.modWave_bellMap (s : State) (u : Nat) (f : Wave → Wave) : (s.modWave u f).bellMap = s.bellMap := rfl
@[simp] theorem State.modWave_pktCopies (s : State) (u : Nat) (f : Wave → Wave) : (s.modWave u f).pktCopies = s.pktCopies := rfl
@[simp] theorem State.modWave_kernels (s : State) (u : Nat) (f : Wave → Wave) : (s.modWave u f).kernels = s.kernels := rfl
@[simp] theorem State.modWave_convoys (s : State) (u : Nat) (f : Wave → Wave) : (s.modWave u f).convoys = s.convoys := rfl
@[simp] theorem State.modWave_groups (s : State) (u : Nat) (f : Wave → Wave) : (s.modWave u f).groups = s.groups := rfl
@[simp] theorem State.modWave_acqQ (s : State) (u : Nat) (f : Wave → Wave) : (s.modWave u f).acqQ = s.acqQ := rfl
@[simp] theorem State.modWave_dist (s : State) (u : Nat) (f : Wave → Wave) : (s.modWave u f).dist = s.dist := rfl
@[simp] theorem State.modWave_lanes (s : State) (u : Nat) (f : Wave → Wave) : (s.modWave u f).lanes = s.lanes := rfl
@[simp] theorem State.modWave_owed (s : State) (u : Nat) (f : Wave → Wave) : (s.modWave u f).owed = s.owed := rfl
@[simp] theorem State.modWave_ops (s : State) (u : Nat) (f : Wave → Wave) : (s.modWave u f).ops = s.ops := rfl
@[simp] theorem State.modWave_tasks (s : State) (u : Nat) (f : Wave → Wave) : (s.modWave u f).tasks = s.tasks := rfl
@[simp] theorem State.modWave_tiles (s : State) (u : Nat) (f : Wave → Wave) : (s.modWave u f).tiles = s.tiles := rfl
@[simp] theorem State.modWave_mowed (s : State) (u : Nat) (f : Wave → Wave) : (s.modWave u f).mowed = s.mowed := rfl
@[simp] theorem State.modWave_mcount (s : State) (u : Nat) (f : Wave → Wave) : (s.modWave u f).mcount = s.mcount := rfl
@[simp] theorem State.modWave_starve (s : State) (u : Nat) (f : Wave → Wave) : (s.modWave u f).starve = s.starve := rfl
@[simp] theorem State.modWave_flows (s : State) (u : Nat) (f : Wave → Wave) : (s.modWave u f).flows = s.flows := rfl
@[simp] theorem State.modWave_frames (s : State) (u : Nat) (f : Wave → Wave) : (s.modWave u f).frames = s.frames := rfl
@[simp] theorem State.modWave_breakout (s : State) (u : Nat) (f : Wave → Wave) : (s.modWave u f).breakout = s.breakout := rfl
@[simp] theorem State.modWave_ports (s : State) (u : Nat) (f : Wave → Wave) : (s.modWave u f).ports = s.ports := rfl
@[simp] theorem State.modWave_links (s : State) (u : Nat) (f : Wave → Wave) : (s.modWave u f).links = s.links := rfl
@[simp] theorem State.modWave_rdvs (s : State) (u : Nat) (f : Wave → Wave) : (s.modWave u f).rdvs = s.rdvs := rfl
@[simp] theorem State.modWave_counts (s : State) (u : Nat) (f : Wave → Wave) : (s.modWave u f).counts = s.counts := rfl
@[simp] theorem State.modWave_epochs (s : State) (u : Nat) (f : Wave → Wave) : (s.modWave u f).epochs = s.epochs := rfl
@[simp] theorem State.modWave_wishes (s : State) (u : Nat) (f : Wave → Wave) : (s.modWave u f).wishes = s.wishes := rfl
@[simp] theorem State.modWave_shadow (s : State) (u : Nat) (f : Wave → Wave) : (s.modWave u f).shadow = s.shadow := rfl
@[simp] theorem State.modWave_placed (s : State) (u : Nat) (f : Wave → Wave) : (s.modWave u f).placed = s.placed := rfl
@[simp] theorem State.modWave_power (s : State) (u : Nat) (f : Wave → Wave) : (s.modWave u f).power = s.power := rfl
@[simp] theorem State.modWave_boot (s : State) (u : Nat) (f : Wave → Wave) : (s.modWave u f).boot = s.boot := rfl
@[simp] theorem State.modWave_msix (s : State) (u : Nat) (f : Wave → Wave) : (s.modWave u f).msix = s.msix := rfl
@[simp] theorem State.modWave_out (s : State) (u : Nat) (f : Wave → Wave) : (s.modWave u f).out = s.out := rfl

/-! ### `State.modSplit` -/

@[simp] theorem State.modSplit_agenda (s : State) (u n : Nat) (f : Split → Split) : (s.modSplit u n f).agenda = s.agenda := rfl
@[simp] theorem State.modSplit_cur (s : State) (u n : Nat) (f : Split → Split) : (s.modSplit u n f).cur = s.cur := rfl
@[simp] theorem State.modSplit_turn (s : State) (u n : Nat) (f : Split → Split) : (s.modSplit u n f).turn = s.turn := rfl
@[simp] theorem State.modSplit_freeCtr (s : State) (u n : Nat) (f : Split → Split) : (s.modSplit u n f).freeCtr = s.freeCtr := rfl
@[simp] theorem State.modSplit_nextUid (s : State) (u n : Nat) (f : Split → Split) : (s.modSplit u n f).nextUid = s.nextUid := rfl
@[simp] theorem State.modSplit_pt (s : State) (u n : Nat) (f : Split → Split) : (s.modSplit u n f).pt = s.pt := rfl
@[simp] theorem State.modSplit_tb (s : State) (u n : Nat) (f : Split → Split) : (s.modSplit u n f).tb = s.tb := rfl
@[simp] theorem State.modSplit_hbTicks (s : State) (u n : Nat) (f : Split → Split) : (s.modSplit u n f).hbTicks = s.hbTicks := rfl
@[simp] theorem State.modSplit_ptTicks (s : State) (u n : Nat) (f : Split → Split) : (s.modSplit u n f).ptTicks = s.ptTicks := rfl
@[simp] theorem State.modSplit_arithMHz (s : State) (u n : Nat) (f : Split → Split) : (s.modSplit u n f).arithMHz = s.arithMHz := rfl
@[simp] theorem State.modSplit_mem (s : State) (u n : Nat) (f : Split → Split) : (s.modSplit u n f).mem = s.mem := rfl
@[simp] theorem State.modSplit_hostMem (s : State) (u n : Nat) (f : Split → Split) : (s.modSplit u n f).hostMem = s.hostMem := rfl
@[simp] theorem State.modSplit_badSectors (s : State) (u n : Nat) (f : Split → Split) : (s.modSplit u n f).badSectors = s.badSectors := rfl
@[simp] theorem State.modSplit_badFill (s : State) (u n : Nat) (f : Split → Split) : (s.modSplit u n f).badFill = s.badFill := rfl
@[simp] theorem State.modSplit_lostLines (s : State) (u n : Nat) (f : Split → Split) : (s.modSplit u n f).lostLines = s.lostLines := rfl
@[simp] theorem State.modSplit_mgmt (s : State) (u n : Nat) (f : Split → Split) : (s.modSplit u n f).mgmt = s.mgmt := rfl
@[simp] theorem State.modSplit_stores (s : State) (u n : Nat) (f : Split → Split) : (s.modSplit u n f).stores = s.stores := rfl
@[simp] theorem State.modSplit_sOrder (s : State) (u n : Nat) (f : Split → Split) : (s.modSplit u n f).sOrder = s.sOrder := rfl
@[simp] theorem State.modSplit_tlb (s : State) (u n : Nat) (f : Split → Split) : (s.modSplit u n f).tlb = s.tlb := rfl
@[simp] theorem State.modSplit_ats (s : State) (u n : Nat) (f : Split → Split) : (s.modSplit u n f).ats = s.ats := rfl
@[simp] theorem State.modSplit_atsPend (s : State) (u n : Nat) (f : Split → Split) : (s.modSplit u n f).atsPend = s.atsPend := rfl
@[simp] theorem State.modSplit_pri (s : State) (u n : Nat) (f : Split → Split) : (s.modSplit u n f).pri = s.pri := rfl
@[simp] theorem State.modSplit_priOff (s : State) (u n : Nat) (f : Split → Split) : (s.modSplit u n f).priOff = s.priOff := rfl
@[simp] theorem State.modSplit_priAlloc (s : State) (u n : Nat) (f : Split → Split) : (s.modSplit u n f).priAlloc = s.priAlloc := rfl
@[simp] theorem State.modSplit_inval (s : State) (u n : Nat) (f : Split → Split) : (s.modSplit u n f).inval = s.inval := rfl
@[simp] theorem State.modSplit_migrating (s : State) (u n : Nat) (f : Split → Split) : (s.modSplit u n f).migrating = s.migrating := rfl
@[simp] theorem State.modSplit_retired (s : State) (u n : Nat) (f : Split → Split) : (s.modSplit u n f).retired = s.retired := rfl
@[simp] theorem State.modSplit_ctxs (s : State) (u n : Nat) (f : Split → Split) : (s.modSplit u n f).ctxs = s.ctxs := rfl
@[simp] theorem State.modSplit_queues (s : State) (u n : Nat) (f : Split → Split) : (s.modSplit u n f).queues = s.queues := rfl
@[simp] theorem State.modSplit_itable (s : State) (u n : Nat) (f : Split → Split) : (s.modSplit u n f).itable = s.itable := rfl
@[simp] theorem State.modSplit_parkBuf (s : State) (u n : Nat) (f : Split → Split) : (s.modSplit u n f).parkBuf = s.parkBuf := rfl
@[simp] theorem State.modSplit_bellMap (s : State) (u n : Nat) (f : Split → Split) : (s.modSplit u n f).bellMap = s.bellMap := rfl
@[simp] theorem State.modSplit_pktCopies (s : State) (u n : Nat) (f : Split → Split) : (s.modSplit u n f).pktCopies = s.pktCopies := rfl
@[simp] theorem State.modSplit_kernels (s : State) (u n : Nat) (f : Split → Split) : (s.modSplit u n f).kernels = s.kernels := rfl
@[simp] theorem State.modSplit_convoys (s : State) (u n : Nat) (f : Split → Split) : (s.modSplit u n f).convoys = s.convoys := rfl
@[simp] theorem State.modSplit_groups (s : State) (u n : Nat) (f : Split → Split) : (s.modSplit u n f).groups = s.groups := rfl
@[simp] theorem State.modSplit_acqQ (s : State) (u n : Nat) (f : Split → Split) : (s.modSplit u n f).acqQ = s.acqQ := rfl
@[simp] theorem State.modSplit_dist (s : State) (u n : Nat) (f : Split → Split) : (s.modSplit u n f).dist = s.dist := rfl
@[simp] theorem State.modSplit_lanes (s : State) (u n : Nat) (f : Split → Split) : (s.modSplit u n f).lanes = s.lanes := rfl
@[simp] theorem State.modSplit_owed (s : State) (u n : Nat) (f : Split → Split) : (s.modSplit u n f).owed = s.owed := rfl
@[simp] theorem State.modSplit_ops (s : State) (u n : Nat) (f : Split → Split) : (s.modSplit u n f).ops = s.ops := rfl
@[simp] theorem State.modSplit_tasks (s : State) (u n : Nat) (f : Split → Split) : (s.modSplit u n f).tasks = s.tasks := rfl
@[simp] theorem State.modSplit_tiles (s : State) (u n : Nat) (f : Split → Split) : (s.modSplit u n f).tiles = s.tiles := rfl
@[simp] theorem State.modSplit_mowed (s : State) (u n : Nat) (f : Split → Split) : (s.modSplit u n f).mowed = s.mowed := rfl
@[simp] theorem State.modSplit_mcount (s : State) (u n : Nat) (f : Split → Split) : (s.modSplit u n f).mcount = s.mcount := rfl
@[simp] theorem State.modSplit_starve (s : State) (u n : Nat) (f : Split → Split) : (s.modSplit u n f).starve = s.starve := rfl
@[simp] theorem State.modSplit_flows (s : State) (u n : Nat) (f : Split → Split) : (s.modSplit u n f).flows = s.flows := rfl
@[simp] theorem State.modSplit_frames (s : State) (u n : Nat) (f : Split → Split) : (s.modSplit u n f).frames = s.frames := rfl
@[simp] theorem State.modSplit_breakout (s : State) (u n : Nat) (f : Split → Split) : (s.modSplit u n f).breakout = s.breakout := rfl
@[simp] theorem State.modSplit_ports (s : State) (u n : Nat) (f : Split → Split) : (s.modSplit u n f).ports = s.ports := rfl
@[simp] theorem State.modSplit_links (s : State) (u n : Nat) (f : Split → Split) : (s.modSplit u n f).links = s.links := rfl
@[simp] theorem State.modSplit_rdvs (s : State) (u n : Nat) (f : Split → Split) : (s.modSplit u n f).rdvs = s.rdvs := rfl
@[simp] theorem State.modSplit_counts (s : State) (u n : Nat) (f : Split → Split) : (s.modSplit u n f).counts = s.counts := rfl
@[simp] theorem State.modSplit_epochs (s : State) (u n : Nat) (f : Split → Split) : (s.modSplit u n f).epochs = s.epochs := rfl
@[simp] theorem State.modSplit_wishes (s : State) (u n : Nat) (f : Split → Split) : (s.modSplit u n f).wishes = s.wishes := rfl
@[simp] theorem State.modSplit_shadow (s : State) (u n : Nat) (f : Split → Split) : (s.modSplit u n f).shadow = s.shadow := rfl
@[simp] theorem State.modSplit_placed (s : State) (u n : Nat) (f : Split → Split) : (s.modSplit u n f).placed = s.placed := rfl
@[simp] theorem State.modSplit_power (s : State) (u n : Nat) (f : Split → Split) : (s.modSplit u n f).power = s.power := rfl
@[simp] theorem State.modSplit_boot (s : State) (u n : Nat) (f : Split → Split) : (s.modSplit u n f).boot = s.boot := rfl
@[simp] theorem State.modSplit_msix (s : State) (u n : Nat) (f : Split → Split) : (s.modSplit u n f).msix = s.msix := rfl
@[simp] theorem State.modSplit_out (s : State) (u n : Nat) (f : Split → Split) : (s.modSplit u n f).out = s.out := rfl

/-! ### `State.modCtx` -/

@[simp] theorem State.modCtx_agenda (s : State) (c : Nat) (f : Ctx → Ctx) : (s.modCtx c f).agenda = s.agenda := rfl
@[simp] theorem State.modCtx_cur (s : State) (c : Nat) (f : Ctx → Ctx) : (s.modCtx c f).cur = s.cur := rfl
@[simp] theorem State.modCtx_turn (s : State) (c : Nat) (f : Ctx → Ctx) : (s.modCtx c f).turn = s.turn := rfl
@[simp] theorem State.modCtx_freeCtr (s : State) (c : Nat) (f : Ctx → Ctx) : (s.modCtx c f).freeCtr = s.freeCtr := rfl
@[simp] theorem State.modCtx_nextUid (s : State) (c : Nat) (f : Ctx → Ctx) : (s.modCtx c f).nextUid = s.nextUid := rfl
@[simp] theorem State.modCtx_pt (s : State) (c : Nat) (f : Ctx → Ctx) : (s.modCtx c f).pt = s.pt := rfl
@[simp] theorem State.modCtx_tb (s : State) (c : Nat) (f : Ctx → Ctx) : (s.modCtx c f).tb = s.tb := rfl
@[simp] theorem State.modCtx_hbTicks (s : State) (c : Nat) (f : Ctx → Ctx) : (s.modCtx c f).hbTicks = s.hbTicks := rfl
@[simp] theorem State.modCtx_ptTicks (s : State) (c : Nat) (f : Ctx → Ctx) : (s.modCtx c f).ptTicks = s.ptTicks := rfl
@[simp] theorem State.modCtx_arithMHz (s : State) (c : Nat) (f : Ctx → Ctx) : (s.modCtx c f).arithMHz = s.arithMHz := rfl
@[simp] theorem State.modCtx_mem (s : State) (c : Nat) (f : Ctx → Ctx) : (s.modCtx c f).mem = s.mem := rfl
@[simp] theorem State.modCtx_hostMem (s : State) (c : Nat) (f : Ctx → Ctx) : (s.modCtx c f).hostMem = s.hostMem := rfl
@[simp] theorem State.modCtx_badSectors (s : State) (c : Nat) (f : Ctx → Ctx) : (s.modCtx c f).badSectors = s.badSectors := rfl
@[simp] theorem State.modCtx_badFill (s : State) (c : Nat) (f : Ctx → Ctx) : (s.modCtx c f).badFill = s.badFill := rfl
@[simp] theorem State.modCtx_lostLines (s : State) (c : Nat) (f : Ctx → Ctx) : (s.modCtx c f).lostLines = s.lostLines := rfl
@[simp] theorem State.modCtx_mgmt (s : State) (c : Nat) (f : Ctx → Ctx) : (s.modCtx c f).mgmt = s.mgmt := rfl
@[simp] theorem State.modCtx_stores (s : State) (c : Nat) (f : Ctx → Ctx) : (s.modCtx c f).stores = s.stores := rfl
@[simp] theorem State.modCtx_sOrder (s : State) (c : Nat) (f : Ctx → Ctx) : (s.modCtx c f).sOrder = s.sOrder := rfl
@[simp] theorem State.modCtx_tlb (s : State) (c : Nat) (f : Ctx → Ctx) : (s.modCtx c f).tlb = s.tlb := rfl
@[simp] theorem State.modCtx_ats (s : State) (c : Nat) (f : Ctx → Ctx) : (s.modCtx c f).ats = s.ats := rfl
@[simp] theorem State.modCtx_atsPend (s : State) (c : Nat) (f : Ctx → Ctx) : (s.modCtx c f).atsPend = s.atsPend := rfl
@[simp] theorem State.modCtx_pri (s : State) (c : Nat) (f : Ctx → Ctx) : (s.modCtx c f).pri = s.pri := rfl
@[simp] theorem State.modCtx_priOff (s : State) (c : Nat) (f : Ctx → Ctx) : (s.modCtx c f).priOff = s.priOff := rfl
@[simp] theorem State.modCtx_priAlloc (s : State) (c : Nat) (f : Ctx → Ctx) : (s.modCtx c f).priAlloc = s.priAlloc := rfl
@[simp] theorem State.modCtx_inval (s : State) (c : Nat) (f : Ctx → Ctx) : (s.modCtx c f).inval = s.inval := rfl
@[simp] theorem State.modCtx_migrating (s : State) (c : Nat) (f : Ctx → Ctx) : (s.modCtx c f).migrating = s.migrating := rfl
@[simp] theorem State.modCtx_retired (s : State) (c : Nat) (f : Ctx → Ctx) : (s.modCtx c f).retired = s.retired := rfl
@[simp] theorem State.modCtx_queues (s : State) (c : Nat) (f : Ctx → Ctx) : (s.modCtx c f).queues = s.queues := rfl
@[simp] theorem State.modCtx_itable (s : State) (c : Nat) (f : Ctx → Ctx) : (s.modCtx c f).itable = s.itable := rfl
@[simp] theorem State.modCtx_parkBuf (s : State) (c : Nat) (f : Ctx → Ctx) : (s.modCtx c f).parkBuf = s.parkBuf := rfl
@[simp] theorem State.modCtx_bellMap (s : State) (c : Nat) (f : Ctx → Ctx) : (s.modCtx c f).bellMap = s.bellMap := rfl
@[simp] theorem State.modCtx_pktCopies (s : State) (c : Nat) (f : Ctx → Ctx) : (s.modCtx c f).pktCopies = s.pktCopies := rfl
@[simp] theorem State.modCtx_kernels (s : State) (c : Nat) (f : Ctx → Ctx) : (s.modCtx c f).kernels = s.kernels := rfl
@[simp] theorem State.modCtx_convoys (s : State) (c : Nat) (f : Ctx → Ctx) : (s.modCtx c f).convoys = s.convoys := rfl
@[simp] theorem State.modCtx_groups (s : State) (c : Nat) (f : Ctx → Ctx) : (s.modCtx c f).groups = s.groups := rfl
@[simp] theorem State.modCtx_acqQ (s : State) (c : Nat) (f : Ctx → Ctx) : (s.modCtx c f).acqQ = s.acqQ := rfl
@[simp] theorem State.modCtx_dist (s : State) (c : Nat) (f : Ctx → Ctx) : (s.modCtx c f).dist = s.dist := rfl
@[simp] theorem State.modCtx_waves (s : State) (c : Nat) (f : Ctx → Ctx) : (s.modCtx c f).waves = s.waves := rfl
@[simp] theorem State.modCtx_lanes (s : State) (c : Nat) (f : Ctx → Ctx) : (s.modCtx c f).lanes = s.lanes := rfl
@[simp] theorem State.modCtx_owed (s : State) (c : Nat) (f : Ctx → Ctx) : (s.modCtx c f).owed = s.owed := rfl
@[simp] theorem State.modCtx_ops (s : State) (c : Nat) (f : Ctx → Ctx) : (s.modCtx c f).ops = s.ops := rfl
@[simp] theorem State.modCtx_tasks (s : State) (c : Nat) (f : Ctx → Ctx) : (s.modCtx c f).tasks = s.tasks := rfl
@[simp] theorem State.modCtx_tiles (s : State) (c : Nat) (f : Ctx → Ctx) : (s.modCtx c f).tiles = s.tiles := rfl
@[simp] theorem State.modCtx_mowed (s : State) (c : Nat) (f : Ctx → Ctx) : (s.modCtx c f).mowed = s.mowed := rfl
@[simp] theorem State.modCtx_mcount (s : State) (c : Nat) (f : Ctx → Ctx) : (s.modCtx c f).mcount = s.mcount := rfl
@[simp] theorem State.modCtx_starve (s : State) (c : Nat) (f : Ctx → Ctx) : (s.modCtx c f).starve = s.starve := rfl
@[simp] theorem State.modCtx_flows (s : State) (c : Nat) (f : Ctx → Ctx) : (s.modCtx c f).flows = s.flows := rfl
@[simp] theorem State.modCtx_frames (s : State) (c : Nat) (f : Ctx → Ctx) : (s.modCtx c f).frames = s.frames := rfl
@[simp] theorem State.modCtx_breakout (s : State) (c : Nat) (f : Ctx → Ctx) : (s.modCtx c f).breakout = s.breakout := rfl
@[simp] theorem State.modCtx_ports (s : State) (c : Nat) (f : Ctx → Ctx) : (s.modCtx c f).ports = s.ports := rfl
@[simp] theorem State.modCtx_links (s : State) (c : Nat) (f : Ctx → Ctx) : (s.modCtx c f).links = s.links := rfl
@[simp] theorem State.modCtx_rdvs (s : State) (c : Nat) (f : Ctx → Ctx) : (s.modCtx c f).rdvs = s.rdvs := rfl
@[simp] theorem State.modCtx_counts (s : State) (c : Nat) (f : Ctx → Ctx) : (s.modCtx c f).counts = s.counts := rfl
@[simp] theorem State.modCtx_epochs (s : State) (c : Nat) (f : Ctx → Ctx) : (s.modCtx c f).epochs = s.epochs := rfl
@[simp] theorem State.modCtx_wishes (s : State) (c : Nat) (f : Ctx → Ctx) : (s.modCtx c f).wishes = s.wishes := rfl
@[simp] theorem State.modCtx_shadow (s : State) (c : Nat) (f : Ctx → Ctx) : (s.modCtx c f).shadow = s.shadow := rfl
@[simp] theorem State.modCtx_placed (s : State) (c : Nat) (f : Ctx → Ctx) : (s.modCtx c f).placed = s.placed := rfl
@[simp] theorem State.modCtx_power (s : State) (c : Nat) (f : Ctx → Ctx) : (s.modCtx c f).power = s.power := rfl
@[simp] theorem State.modCtx_boot (s : State) (c : Nat) (f : Ctx → Ctx) : (s.modCtx c f).boot = s.boot := rfl
@[simp] theorem State.modCtx_msix (s : State) (c : Nat) (f : Ctx → Ctx) : (s.modCtx c f).msix = s.msix := rfl
@[simp] theorem State.modCtx_out (s : State) (c : Nat) (f : Ctx → Ctx) : (s.modCtx c f).out = s.out := rfl

/-! ### `State.modGroup` -/

@[simp] theorem State.modGroup_agenda (s : State) (u : Nat) (f : Group → Group) : (s.modGroup u f).agenda = s.agenda := rfl
@[simp] theorem State.modGroup_cur (s : State) (u : Nat) (f : Group → Group) : (s.modGroup u f).cur = s.cur := rfl
@[simp] theorem State.modGroup_turn (s : State) (u : Nat) (f : Group → Group) : (s.modGroup u f).turn = s.turn := rfl
@[simp] theorem State.modGroup_freeCtr (s : State) (u : Nat) (f : Group → Group) : (s.modGroup u f).freeCtr = s.freeCtr := rfl
@[simp] theorem State.modGroup_nextUid (s : State) (u : Nat) (f : Group → Group) : (s.modGroup u f).nextUid = s.nextUid := rfl
@[simp] theorem State.modGroup_pt (s : State) (u : Nat) (f : Group → Group) : (s.modGroup u f).pt = s.pt := rfl
@[simp] theorem State.modGroup_tb (s : State) (u : Nat) (f : Group → Group) : (s.modGroup u f).tb = s.tb := rfl
@[simp] theorem State.modGroup_hbTicks (s : State) (u : Nat) (f : Group → Group) : (s.modGroup u f).hbTicks = s.hbTicks := rfl
@[simp] theorem State.modGroup_ptTicks (s : State) (u : Nat) (f : Group → Group) : (s.modGroup u f).ptTicks = s.ptTicks := rfl
@[simp] theorem State.modGroup_arithMHz (s : State) (u : Nat) (f : Group → Group) : (s.modGroup u f).arithMHz = s.arithMHz := rfl
@[simp] theorem State.modGroup_mem (s : State) (u : Nat) (f : Group → Group) : (s.modGroup u f).mem = s.mem := rfl
@[simp] theorem State.modGroup_hostMem (s : State) (u : Nat) (f : Group → Group) : (s.modGroup u f).hostMem = s.hostMem := rfl
@[simp] theorem State.modGroup_badSectors (s : State) (u : Nat) (f : Group → Group) : (s.modGroup u f).badSectors = s.badSectors := rfl
@[simp] theorem State.modGroup_badFill (s : State) (u : Nat) (f : Group → Group) : (s.modGroup u f).badFill = s.badFill := rfl
@[simp] theorem State.modGroup_lostLines (s : State) (u : Nat) (f : Group → Group) : (s.modGroup u f).lostLines = s.lostLines := rfl
@[simp] theorem State.modGroup_mgmt (s : State) (u : Nat) (f : Group → Group) : (s.modGroup u f).mgmt = s.mgmt := rfl
@[simp] theorem State.modGroup_stores (s : State) (u : Nat) (f : Group → Group) : (s.modGroup u f).stores = s.stores := rfl
@[simp] theorem State.modGroup_sOrder (s : State) (u : Nat) (f : Group → Group) : (s.modGroup u f).sOrder = s.sOrder := rfl
@[simp] theorem State.modGroup_tlb (s : State) (u : Nat) (f : Group → Group) : (s.modGroup u f).tlb = s.tlb := rfl
@[simp] theorem State.modGroup_ats (s : State) (u : Nat) (f : Group → Group) : (s.modGroup u f).ats = s.ats := rfl
@[simp] theorem State.modGroup_atsPend (s : State) (u : Nat) (f : Group → Group) : (s.modGroup u f).atsPend = s.atsPend := rfl
@[simp] theorem State.modGroup_pri (s : State) (u : Nat) (f : Group → Group) : (s.modGroup u f).pri = s.pri := rfl
@[simp] theorem State.modGroup_priOff (s : State) (u : Nat) (f : Group → Group) : (s.modGroup u f).priOff = s.priOff := rfl
@[simp] theorem State.modGroup_priAlloc (s : State) (u : Nat) (f : Group → Group) : (s.modGroup u f).priAlloc = s.priAlloc := rfl
@[simp] theorem State.modGroup_inval (s : State) (u : Nat) (f : Group → Group) : (s.modGroup u f).inval = s.inval := rfl
@[simp] theorem State.modGroup_migrating (s : State) (u : Nat) (f : Group → Group) : (s.modGroup u f).migrating = s.migrating := rfl
@[simp] theorem State.modGroup_retired (s : State) (u : Nat) (f : Group → Group) : (s.modGroup u f).retired = s.retired := rfl
@[simp] theorem State.modGroup_ctxs (s : State) (u : Nat) (f : Group → Group) : (s.modGroup u f).ctxs = s.ctxs := rfl
@[simp] theorem State.modGroup_queues (s : State) (u : Nat) (f : Group → Group) : (s.modGroup u f).queues = s.queues := rfl
@[simp] theorem State.modGroup_itable (s : State) (u : Nat) (f : Group → Group) : (s.modGroup u f).itable = s.itable := rfl
@[simp] theorem State.modGroup_parkBuf (s : State) (u : Nat) (f : Group → Group) : (s.modGroup u f).parkBuf = s.parkBuf := rfl
@[simp] theorem State.modGroup_bellMap (s : State) (u : Nat) (f : Group → Group) : (s.modGroup u f).bellMap = s.bellMap := rfl
@[simp] theorem State.modGroup_pktCopies (s : State) (u : Nat) (f : Group → Group) : (s.modGroup u f).pktCopies = s.pktCopies := rfl
@[simp] theorem State.modGroup_kernels (s : State) (u : Nat) (f : Group → Group) : (s.modGroup u f).kernels = s.kernels := rfl
@[simp] theorem State.modGroup_convoys (s : State) (u : Nat) (f : Group → Group) : (s.modGroup u f).convoys = s.convoys := rfl
@[simp] theorem State.modGroup_acqQ (s : State) (u : Nat) (f : Group → Group) : (s.modGroup u f).acqQ = s.acqQ := rfl
@[simp] theorem State.modGroup_dist (s : State) (u : Nat) (f : Group → Group) : (s.modGroup u f).dist = s.dist := rfl
@[simp] theorem State.modGroup_waves (s : State) (u : Nat) (f : Group → Group) : (s.modGroup u f).waves = s.waves := rfl
@[simp] theorem State.modGroup_lanes (s : State) (u : Nat) (f : Group → Group) : (s.modGroup u f).lanes = s.lanes := rfl
@[simp] theorem State.modGroup_owed (s : State) (u : Nat) (f : Group → Group) : (s.modGroup u f).owed = s.owed := rfl
@[simp] theorem State.modGroup_ops (s : State) (u : Nat) (f : Group → Group) : (s.modGroup u f).ops = s.ops := rfl
@[simp] theorem State.modGroup_tasks (s : State) (u : Nat) (f : Group → Group) : (s.modGroup u f).tasks = s.tasks := rfl
@[simp] theorem State.modGroup_tiles (s : State) (u : Nat) (f : Group → Group) : (s.modGroup u f).tiles = s.tiles := rfl
@[simp] theorem State.modGroup_mowed (s : State) (u : Nat) (f : Group → Group) : (s.modGroup u f).mowed = s.mowed := rfl
@[simp] theorem State.modGroup_mcount (s : State) (u : Nat) (f : Group → Group) : (s.modGroup u f).mcount = s.mcount := rfl
@[simp] theorem State.modGroup_starve (s : State) (u : Nat) (f : Group → Group) : (s.modGroup u f).starve = s.starve := rfl
@[simp] theorem State.modGroup_flows (s : State) (u : Nat) (f : Group → Group) : (s.modGroup u f).flows = s.flows := rfl
@[simp] theorem State.modGroup_frames (s : State) (u : Nat) (f : Group → Group) : (s.modGroup u f).frames = s.frames := rfl
@[simp] theorem State.modGroup_breakout (s : State) (u : Nat) (f : Group → Group) : (s.modGroup u f).breakout = s.breakout := rfl
@[simp] theorem State.modGroup_ports (s : State) (u : Nat) (f : Group → Group) : (s.modGroup u f).ports = s.ports := rfl
@[simp] theorem State.modGroup_links (s : State) (u : Nat) (f : Group → Group) : (s.modGroup u f).links = s.links := rfl
@[simp] theorem State.modGroup_rdvs (s : State) (u : Nat) (f : Group → Group) : (s.modGroup u f).rdvs = s.rdvs := rfl
@[simp] theorem State.modGroup_counts (s : State) (u : Nat) (f : Group → Group) : (s.modGroup u f).counts = s.counts := rfl
@[simp] theorem State.modGroup_epochs (s : State) (u : Nat) (f : Group → Group) : (s.modGroup u f).epochs = s.epochs := rfl
@[simp] theorem State.modGroup_wishes (s : State) (u : Nat) (f : Group → Group) : (s.modGroup u f).wishes = s.wishes := rfl
@[simp] theorem State.modGroup_shadow (s : State) (u : Nat) (f : Group → Group) : (s.modGroup u f).shadow = s.shadow := rfl
@[simp] theorem State.modGroup_placed (s : State) (u : Nat) (f : Group → Group) : (s.modGroup u f).placed = s.placed := rfl
@[simp] theorem State.modGroup_power (s : State) (u : Nat) (f : Group → Group) : (s.modGroup u f).power = s.power := rfl
@[simp] theorem State.modGroup_boot (s : State) (u : Nat) (f : Group → Group) : (s.modGroup u f).boot = s.boot := rfl
@[simp] theorem State.modGroup_msix (s : State) (u : Nat) (f : Group → Group) : (s.modGroup u f).msix = s.msix := rfl
@[simp] theorem State.modGroup_out (s : State) (u : Nat) (f : Group → Group) : (s.modGroup u f).out = s.out := rfl

/-! ### `State.modKernel` -/

@[simp] theorem State.modKernel_agenda (s : State) (u : Nat) (f : Kernel → Kernel) : (s.modKernel u f).agenda = s.agenda := rfl
@[simp] theorem State.modKernel_cur (s : State) (u : Nat) (f : Kernel → Kernel) : (s.modKernel u f).cur = s.cur := rfl
@[simp] theorem State.modKernel_turn (s : State) (u : Nat) (f : Kernel → Kernel) : (s.modKernel u f).turn = s.turn := rfl
@[simp] theorem State.modKernel_freeCtr (s : State) (u : Nat) (f : Kernel → Kernel) : (s.modKernel u f).freeCtr = s.freeCtr := rfl
@[simp] theorem State.modKernel_nextUid (s : State) (u : Nat) (f : Kernel → Kernel) : (s.modKernel u f).nextUid = s.nextUid := rfl
@[simp] theorem State.modKernel_pt (s : State) (u : Nat) (f : Kernel → Kernel) : (s.modKernel u f).pt = s.pt := rfl
@[simp] theorem State.modKernel_tb (s : State) (u : Nat) (f : Kernel → Kernel) : (s.modKernel u f).tb = s.tb := rfl
@[simp] theorem State.modKernel_hbTicks (s : State) (u : Nat) (f : Kernel → Kernel) : (s.modKernel u f).hbTicks = s.hbTicks := rfl
@[simp] theorem State.modKernel_ptTicks (s : State) (u : Nat) (f : Kernel → Kernel) : (s.modKernel u f).ptTicks = s.ptTicks := rfl
@[simp] theorem State.modKernel_arithMHz (s : State) (u : Nat) (f : Kernel → Kernel) : (s.modKernel u f).arithMHz = s.arithMHz := rfl
@[simp] theorem State.modKernel_mem (s : State) (u : Nat) (f : Kernel → Kernel) : (s.modKernel u f).mem = s.mem := rfl
@[simp] theorem State.modKernel_hostMem (s : State) (u : Nat) (f : Kernel → Kernel) : (s.modKernel u f).hostMem = s.hostMem := rfl
@[simp] theorem State.modKernel_badSectors (s : State) (u : Nat) (f : Kernel → Kernel) : (s.modKernel u f).badSectors = s.badSectors := rfl
@[simp] theorem State.modKernel_badFill (s : State) (u : Nat) (f : Kernel → Kernel) : (s.modKernel u f).badFill = s.badFill := rfl
@[simp] theorem State.modKernel_lostLines (s : State) (u : Nat) (f : Kernel → Kernel) : (s.modKernel u f).lostLines = s.lostLines := rfl
@[simp] theorem State.modKernel_mgmt (s : State) (u : Nat) (f : Kernel → Kernel) : (s.modKernel u f).mgmt = s.mgmt := rfl
@[simp] theorem State.modKernel_stores (s : State) (u : Nat) (f : Kernel → Kernel) : (s.modKernel u f).stores = s.stores := rfl
@[simp] theorem State.modKernel_sOrder (s : State) (u : Nat) (f : Kernel → Kernel) : (s.modKernel u f).sOrder = s.sOrder := rfl
@[simp] theorem State.modKernel_tlb (s : State) (u : Nat) (f : Kernel → Kernel) : (s.modKernel u f).tlb = s.tlb := rfl
@[simp] theorem State.modKernel_ats (s : State) (u : Nat) (f : Kernel → Kernel) : (s.modKernel u f).ats = s.ats := rfl
@[simp] theorem State.modKernel_atsPend (s : State) (u : Nat) (f : Kernel → Kernel) : (s.modKernel u f).atsPend = s.atsPend := rfl
@[simp] theorem State.modKernel_pri (s : State) (u : Nat) (f : Kernel → Kernel) : (s.modKernel u f).pri = s.pri := rfl
@[simp] theorem State.modKernel_priOff (s : State) (u : Nat) (f : Kernel → Kernel) : (s.modKernel u f).priOff = s.priOff := rfl
@[simp] theorem State.modKernel_priAlloc (s : State) (u : Nat) (f : Kernel → Kernel) : (s.modKernel u f).priAlloc = s.priAlloc := rfl
@[simp] theorem State.modKernel_inval (s : State) (u : Nat) (f : Kernel → Kernel) : (s.modKernel u f).inval = s.inval := rfl
@[simp] theorem State.modKernel_migrating (s : State) (u : Nat) (f : Kernel → Kernel) : (s.modKernel u f).migrating = s.migrating := rfl
@[simp] theorem State.modKernel_retired (s : State) (u : Nat) (f : Kernel → Kernel) : (s.modKernel u f).retired = s.retired := rfl
@[simp] theorem State.modKernel_ctxs (s : State) (u : Nat) (f : Kernel → Kernel) : (s.modKernel u f).ctxs = s.ctxs := rfl
@[simp] theorem State.modKernel_queues (s : State) (u : Nat) (f : Kernel → Kernel) : (s.modKernel u f).queues = s.queues := rfl
@[simp] theorem State.modKernel_itable (s : State) (u : Nat) (f : Kernel → Kernel) : (s.modKernel u f).itable = s.itable := rfl
@[simp] theorem State.modKernel_parkBuf (s : State) (u : Nat) (f : Kernel → Kernel) : (s.modKernel u f).parkBuf = s.parkBuf := rfl
@[simp] theorem State.modKernel_bellMap (s : State) (u : Nat) (f : Kernel → Kernel) : (s.modKernel u f).bellMap = s.bellMap := rfl
@[simp] theorem State.modKernel_pktCopies (s : State) (u : Nat) (f : Kernel → Kernel) : (s.modKernel u f).pktCopies = s.pktCopies := rfl
@[simp] theorem State.modKernel_convoys (s : State) (u : Nat) (f : Kernel → Kernel) : (s.modKernel u f).convoys = s.convoys := rfl
@[simp] theorem State.modKernel_groups (s : State) (u : Nat) (f : Kernel → Kernel) : (s.modKernel u f).groups = s.groups := rfl
@[simp] theorem State.modKernel_acqQ (s : State) (u : Nat) (f : Kernel → Kernel) : (s.modKernel u f).acqQ = s.acqQ := rfl
@[simp] theorem State.modKernel_dist (s : State) (u : Nat) (f : Kernel → Kernel) : (s.modKernel u f).dist = s.dist := rfl
@[simp] theorem State.modKernel_waves (s : State) (u : Nat) (f : Kernel → Kernel) : (s.modKernel u f).waves = s.waves := rfl
@[simp] theorem State.modKernel_lanes (s : State) (u : Nat) (f : Kernel → Kernel) : (s.modKernel u f).lanes = s.lanes := rfl
@[simp] theorem State.modKernel_owed (s : State) (u : Nat) (f : Kernel → Kernel) : (s.modKernel u f).owed = s.owed := rfl
@[simp] theorem State.modKernel_ops (s : State) (u : Nat) (f : Kernel → Kernel) : (s.modKernel u f).ops = s.ops := rfl
@[simp] theorem State.modKernel_tasks (s : State) (u : Nat) (f : Kernel → Kernel) : (s.modKernel u f).tasks = s.tasks := rfl
@[simp] theorem State.modKernel_tiles (s : State) (u : Nat) (f : Kernel → Kernel) : (s.modKernel u f).tiles = s.tiles := rfl
@[simp] theorem State.modKernel_mowed (s : State) (u : Nat) (f : Kernel → Kernel) : (s.modKernel u f).mowed = s.mowed := rfl
@[simp] theorem State.modKernel_mcount (s : State) (u : Nat) (f : Kernel → Kernel) : (s.modKernel u f).mcount = s.mcount := rfl
@[simp] theorem State.modKernel_starve (s : State) (u : Nat) (f : Kernel → Kernel) : (s.modKernel u f).starve = s.starve := rfl
@[simp] theorem State.modKernel_flows (s : State) (u : Nat) (f : Kernel → Kernel) : (s.modKernel u f).flows = s.flows := rfl
@[simp] theorem State.modKernel_frames (s : State) (u : Nat) (f : Kernel → Kernel) : (s.modKernel u f).frames = s.frames := rfl
@[simp] theorem State.modKernel_breakout (s : State) (u : Nat) (f : Kernel → Kernel) : (s.modKernel u f).breakout = s.breakout := rfl
@[simp] theorem State.modKernel_ports (s : State) (u : Nat) (f : Kernel → Kernel) : (s.modKernel u f).ports = s.ports := rfl
@[simp] theorem State.modKernel_links (s : State) (u : Nat) (f : Kernel → Kernel) : (s.modKernel u f).links = s.links := rfl
@[simp] theorem State.modKernel_rdvs (s : State) (u : Nat) (f : Kernel → Kernel) : (s.modKernel u f).rdvs = s.rdvs := rfl
@[simp] theorem State.modKernel_counts (s : State) (u : Nat) (f : Kernel → Kernel) : (s.modKernel u f).counts = s.counts := rfl
@[simp] theorem State.modKernel_epochs (s : State) (u : Nat) (f : Kernel → Kernel) : (s.modKernel u f).epochs = s.epochs := rfl
@[simp] theorem State.modKernel_wishes (s : State) (u : Nat) (f : Kernel → Kernel) : (s.modKernel u f).wishes = s.wishes := rfl
@[simp] theorem State.modKernel_shadow (s : State) (u : Nat) (f : Kernel → Kernel) : (s.modKernel u f).shadow = s.shadow := rfl
@[simp] theorem State.modKernel_placed (s : State) (u : Nat) (f : Kernel → Kernel) : (s.modKernel u f).placed = s.placed := rfl
@[simp] theorem State.modKernel_power (s : State) (u : Nat) (f : Kernel → Kernel) : (s.modKernel u f).power = s.power := rfl
@[simp] theorem State.modKernel_boot (s : State) (u : Nat) (f : Kernel → Kernel) : (s.modKernel u f).boot = s.boot := rfl
@[simp] theorem State.modKernel_msix (s : State) (u : Nat) (f : Kernel → Kernel) : (s.modKernel u f).msix = s.msix := rfl
@[simp] theorem State.modKernel_out (s : State) (u : Nat) (f : Kernel → Kernel) : (s.modKernel u f).out = s.out := rfl

/-! ### `State.modQueue` -/

@[simp] theorem State.modQueue_agenda (s : State) (n : Nat) (f : Queue → Queue) : (s.modQueue n f).agenda = s.agenda := rfl
@[simp] theorem State.modQueue_cur (s : State) (n : Nat) (f : Queue → Queue) : (s.modQueue n f).cur = s.cur := rfl
@[simp] theorem State.modQueue_turn (s : State) (n : Nat) (f : Queue → Queue) : (s.modQueue n f).turn = s.turn := rfl
@[simp] theorem State.modQueue_freeCtr (s : State) (n : Nat) (f : Queue → Queue) : (s.modQueue n f).freeCtr = s.freeCtr := rfl
@[simp] theorem State.modQueue_nextUid (s : State) (n : Nat) (f : Queue → Queue) : (s.modQueue n f).nextUid = s.nextUid := rfl
@[simp] theorem State.modQueue_pt (s : State) (n : Nat) (f : Queue → Queue) : (s.modQueue n f).pt = s.pt := rfl
@[simp] theorem State.modQueue_tb (s : State) (n : Nat) (f : Queue → Queue) : (s.modQueue n f).tb = s.tb := rfl
@[simp] theorem State.modQueue_hbTicks (s : State) (n : Nat) (f : Queue → Queue) : (s.modQueue n f).hbTicks = s.hbTicks := rfl
@[simp] theorem State.modQueue_ptTicks (s : State) (n : Nat) (f : Queue → Queue) : (s.modQueue n f).ptTicks = s.ptTicks := rfl
@[simp] theorem State.modQueue_arithMHz (s : State) (n : Nat) (f : Queue → Queue) : (s.modQueue n f).arithMHz = s.arithMHz := rfl
@[simp] theorem State.modQueue_mem (s : State) (n : Nat) (f : Queue → Queue) : (s.modQueue n f).mem = s.mem := rfl
@[simp] theorem State.modQueue_hostMem (s : State) (n : Nat) (f : Queue → Queue) : (s.modQueue n f).hostMem = s.hostMem := rfl
@[simp] theorem State.modQueue_badSectors (s : State) (n : Nat) (f : Queue → Queue) : (s.modQueue n f).badSectors = s.badSectors := rfl
@[simp] theorem State.modQueue_badFill (s : State) (n : Nat) (f : Queue → Queue) : (s.modQueue n f).badFill = s.badFill := rfl
@[simp] theorem State.modQueue_lostLines (s : State) (n : Nat) (f : Queue → Queue) : (s.modQueue n f).lostLines = s.lostLines := rfl
@[simp] theorem State.modQueue_mgmt (s : State) (n : Nat) (f : Queue → Queue) : (s.modQueue n f).mgmt = s.mgmt := rfl
@[simp] theorem State.modQueue_stores (s : State) (n : Nat) (f : Queue → Queue) : (s.modQueue n f).stores = s.stores := rfl
@[simp] theorem State.modQueue_sOrder (s : State) (n : Nat) (f : Queue → Queue) : (s.modQueue n f).sOrder = s.sOrder := rfl
@[simp] theorem State.modQueue_tlb (s : State) (n : Nat) (f : Queue → Queue) : (s.modQueue n f).tlb = s.tlb := rfl
@[simp] theorem State.modQueue_ats (s : State) (n : Nat) (f : Queue → Queue) : (s.modQueue n f).ats = s.ats := rfl
@[simp] theorem State.modQueue_atsPend (s : State) (n : Nat) (f : Queue → Queue) : (s.modQueue n f).atsPend = s.atsPend := rfl
@[simp] theorem State.modQueue_pri (s : State) (n : Nat) (f : Queue → Queue) : (s.modQueue n f).pri = s.pri := rfl
@[simp] theorem State.modQueue_priOff (s : State) (n : Nat) (f : Queue → Queue) : (s.modQueue n f).priOff = s.priOff := rfl
@[simp] theorem State.modQueue_priAlloc (s : State) (n : Nat) (f : Queue → Queue) : (s.modQueue n f).priAlloc = s.priAlloc := rfl
@[simp] theorem State.modQueue_inval (s : State) (n : Nat) (f : Queue → Queue) : (s.modQueue n f).inval = s.inval := rfl
@[simp] theorem State.modQueue_migrating (s : State) (n : Nat) (f : Queue → Queue) : (s.modQueue n f).migrating = s.migrating := rfl
@[simp] theorem State.modQueue_retired (s : State) (n : Nat) (f : Queue → Queue) : (s.modQueue n f).retired = s.retired := rfl
@[simp] theorem State.modQueue_ctxs (s : State) (n : Nat) (f : Queue → Queue) : (s.modQueue n f).ctxs = s.ctxs := rfl
@[simp] theorem State.modQueue_itable (s : State) (n : Nat) (f : Queue → Queue) : (s.modQueue n f).itable = s.itable := rfl
@[simp] theorem State.modQueue_parkBuf (s : State) (n : Nat) (f : Queue → Queue) : (s.modQueue n f).parkBuf = s.parkBuf := rfl
@[simp] theorem State.modQueue_bellMap (s : State) (n : Nat) (f : Queue → Queue) : (s.modQueue n f).bellMap = s.bellMap := rfl
@[simp] theorem State.modQueue_pktCopies (s : State) (n : Nat) (f : Queue → Queue) : (s.modQueue n f).pktCopies = s.pktCopies := rfl
@[simp] theorem State.modQueue_kernels (s : State) (n : Nat) (f : Queue → Queue) : (s.modQueue n f).kernels = s.kernels := rfl
@[simp] theorem State.modQueue_convoys (s : State) (n : Nat) (f : Queue → Queue) : (s.modQueue n f).convoys = s.convoys := rfl
@[simp] theorem State.modQueue_groups (s : State) (n : Nat) (f : Queue → Queue) : (s.modQueue n f).groups = s.groups := rfl
@[simp] theorem State.modQueue_acqQ (s : State) (n : Nat) (f : Queue → Queue) : (s.modQueue n f).acqQ = s.acqQ := rfl
@[simp] theorem State.modQueue_dist (s : State) (n : Nat) (f : Queue → Queue) : (s.modQueue n f).dist = s.dist := rfl
@[simp] theorem State.modQueue_waves (s : State) (n : Nat) (f : Queue → Queue) : (s.modQueue n f).waves = s.waves := rfl
@[simp] theorem State.modQueue_lanes (s : State) (n : Nat) (f : Queue → Queue) : (s.modQueue n f).lanes = s.lanes := rfl
@[simp] theorem State.modQueue_owed (s : State) (n : Nat) (f : Queue → Queue) : (s.modQueue n f).owed = s.owed := rfl
@[simp] theorem State.modQueue_ops (s : State) (n : Nat) (f : Queue → Queue) : (s.modQueue n f).ops = s.ops := rfl
@[simp] theorem State.modQueue_tasks (s : State) (n : Nat) (f : Queue → Queue) : (s.modQueue n f).tasks = s.tasks := rfl
@[simp] theorem State.modQueue_tiles (s : State) (n : Nat) (f : Queue → Queue) : (s.modQueue n f).tiles = s.tiles := rfl
@[simp] theorem State.modQueue_mowed (s : State) (n : Nat) (f : Queue → Queue) : (s.modQueue n f).mowed = s.mowed := rfl
@[simp] theorem State.modQueue_mcount (s : State) (n : Nat) (f : Queue → Queue) : (s.modQueue n f).mcount = s.mcount := rfl
@[simp] theorem State.modQueue_starve (s : State) (n : Nat) (f : Queue → Queue) : (s.modQueue n f).starve = s.starve := rfl
@[simp] theorem State.modQueue_flows (s : State) (n : Nat) (f : Queue → Queue) : (s.modQueue n f).flows = s.flows := rfl
@[simp] theorem State.modQueue_frames (s : State) (n : Nat) (f : Queue → Queue) : (s.modQueue n f).frames = s.frames := rfl
@[simp] theorem State.modQueue_breakout (s : State) (n : Nat) (f : Queue → Queue) : (s.modQueue n f).breakout = s.breakout := rfl
@[simp] theorem State.modQueue_ports (s : State) (n : Nat) (f : Queue → Queue) : (s.modQueue n f).ports = s.ports := rfl
@[simp] theorem State.modQueue_links (s : State) (n : Nat) (f : Queue → Queue) : (s.modQueue n f).links = s.links := rfl
@[simp] theorem State.modQueue_rdvs (s : State) (n : Nat) (f : Queue → Queue) : (s.modQueue n f).rdvs = s.rdvs := rfl
@[simp] theorem State.modQueue_counts (s : State) (n : Nat) (f : Queue → Queue) : (s.modQueue n f).counts = s.counts := rfl
@[simp] theorem State.modQueue_epochs (s : State) (n : Nat) (f : Queue → Queue) : (s.modQueue n f).epochs = s.epochs := rfl
@[simp] theorem State.modQueue_wishes (s : State) (n : Nat) (f : Queue → Queue) : (s.modQueue n f).wishes = s.wishes := rfl
@[simp] theorem State.modQueue_shadow (s : State) (n : Nat) (f : Queue → Queue) : (s.modQueue n f).shadow = s.shadow := rfl
@[simp] theorem State.modQueue_placed (s : State) (n : Nat) (f : Queue → Queue) : (s.modQueue n f).placed = s.placed := rfl
@[simp] theorem State.modQueue_power (s : State) (n : Nat) (f : Queue → Queue) : (s.modQueue n f).power = s.power := rfl
@[simp] theorem State.modQueue_boot (s : State) (n : Nat) (f : Queue → Queue) : (s.modQueue n f).boot = s.boot := rfl
@[simp] theorem State.modQueue_msix (s : State) (n : Nat) (f : Queue → Queue) : (s.modQueue n f).msix = s.msix := rfl
@[simp] theorem State.modQueue_out (s : State) (n : Nat) (f : Queue → Queue) : (s.modQueue n f).out = s.out := rfl

/-! ### `State.clearCur` -/

@[simp] theorem State.clearCur_agenda (s : State) : (s.clearCur).agenda = s.agenda := rfl
@[simp] theorem State.clearCur_turn (s : State) : (s.clearCur).turn = s.turn := rfl
@[simp] theorem State.clearCur_freeCtr (s : State) : (s.clearCur).freeCtr = s.freeCtr := rfl
@[simp] theorem State.clearCur_nextUid (s : State) : (s.clearCur).nextUid = s.nextUid := rfl
@[simp] theorem State.clearCur_pt (s : State) : (s.clearCur).pt = s.pt := rfl
@[simp] theorem State.clearCur_tb (s : State) : (s.clearCur).tb = s.tb := rfl
@[simp] theorem State.clearCur_hbTicks (s : State) : (s.clearCur).hbTicks = s.hbTicks := rfl
@[simp] theorem State.clearCur_ptTicks (s : State) : (s.clearCur).ptTicks = s.ptTicks := rfl
@[simp] theorem State.clearCur_arithMHz (s : State) : (s.clearCur).arithMHz = s.arithMHz := rfl
@[simp] theorem State.clearCur_mem (s : State) : (s.clearCur).mem = s.mem := rfl
@[simp] theorem State.clearCur_hostMem (s : State) : (s.clearCur).hostMem = s.hostMem := rfl
@[simp] theorem State.clearCur_badSectors (s : State) : (s.clearCur).badSectors = s.badSectors := rfl
@[simp] theorem State.clearCur_badFill (s : State) : (s.clearCur).badFill = s.badFill := rfl
@[simp] theorem State.clearCur_lostLines (s : State) : (s.clearCur).lostLines = s.lostLines := rfl
@[simp] theorem State.clearCur_mgmt (s : State) : (s.clearCur).mgmt = s.mgmt := rfl
@[simp] theorem State.clearCur_stores (s : State) : (s.clearCur).stores = s.stores := rfl
@[simp] theorem State.clearCur_sOrder (s : State) : (s.clearCur).sOrder = s.sOrder := rfl
@[simp] theorem State.clearCur_tlb (s : State) : (s.clearCur).tlb = s.tlb := rfl
@[simp] theorem State.clearCur_ats (s : State) : (s.clearCur).ats = s.ats := rfl
@[simp] theorem State.clearCur_atsPend (s : State) : (s.clearCur).atsPend = s.atsPend := rfl
@[simp] theorem State.clearCur_pri (s : State) : (s.clearCur).pri = s.pri := rfl
@[simp] theorem State.clearCur_priOff (s : State) : (s.clearCur).priOff = s.priOff := rfl
@[simp] theorem State.clearCur_priAlloc (s : State) : (s.clearCur).priAlloc = s.priAlloc := rfl
@[simp] theorem State.clearCur_inval (s : State) : (s.clearCur).inval = s.inval := rfl
@[simp] theorem State.clearCur_migrating (s : State) : (s.clearCur).migrating = s.migrating := rfl
@[simp] theorem State.clearCur_retired (s : State) : (s.clearCur).retired = s.retired := rfl
@[simp] theorem State.clearCur_ctxs (s : State) : (s.clearCur).ctxs = s.ctxs := rfl
@[simp] theorem State.clearCur_queues (s : State) : (s.clearCur).queues = s.queues := rfl
@[simp] theorem State.clearCur_itable (s : State) : (s.clearCur).itable = s.itable := rfl
@[simp] theorem State.clearCur_parkBuf (s : State) : (s.clearCur).parkBuf = s.parkBuf := rfl
@[simp] theorem State.clearCur_bellMap (s : State) : (s.clearCur).bellMap = s.bellMap := rfl
@[simp] theorem State.clearCur_pktCopies (s : State) : (s.clearCur).pktCopies = s.pktCopies := rfl
@[simp] theorem State.clearCur_kernels (s : State) : (s.clearCur).kernels = s.kernels := rfl
@[simp] theorem State.clearCur_convoys (s : State) : (s.clearCur).convoys = s.convoys := rfl
@[simp] theorem State.clearCur_groups (s : State) : (s.clearCur).groups = s.groups := rfl
@[simp] theorem State.clearCur_acqQ (s : State) : (s.clearCur).acqQ = s.acqQ := rfl
@[simp] theorem State.clearCur_dist (s : State) : (s.clearCur).dist = s.dist := rfl
@[simp] theorem State.clearCur_waves (s : State) : (s.clearCur).waves = s.waves := rfl
@[simp] theorem State.clearCur_lanes (s : State) : (s.clearCur).lanes = s.lanes := rfl
@[simp] theorem State.clearCur_owed (s : State) : (s.clearCur).owed = s.owed := rfl
@[simp] theorem State.clearCur_ops (s : State) : (s.clearCur).ops = s.ops := rfl
@[simp] theorem State.clearCur_tasks (s : State) : (s.clearCur).tasks = s.tasks := rfl
@[simp] theorem State.clearCur_tiles (s : State) : (s.clearCur).tiles = s.tiles := rfl
@[simp] theorem State.clearCur_mowed (s : State) : (s.clearCur).mowed = s.mowed := rfl
@[simp] theorem State.clearCur_mcount (s : State) : (s.clearCur).mcount = s.mcount := rfl
@[simp] theorem State.clearCur_starve (s : State) : (s.clearCur).starve = s.starve := rfl
@[simp] theorem State.clearCur_flows (s : State) : (s.clearCur).flows = s.flows := rfl
@[simp] theorem State.clearCur_frames (s : State) : (s.clearCur).frames = s.frames := rfl
@[simp] theorem State.clearCur_breakout (s : State) : (s.clearCur).breakout = s.breakout := rfl
@[simp] theorem State.clearCur_ports (s : State) : (s.clearCur).ports = s.ports := rfl
@[simp] theorem State.clearCur_links (s : State) : (s.clearCur).links = s.links := rfl
@[simp] theorem State.clearCur_rdvs (s : State) : (s.clearCur).rdvs = s.rdvs := rfl
@[simp] theorem State.clearCur_counts (s : State) : (s.clearCur).counts = s.counts := rfl
@[simp] theorem State.clearCur_epochs (s : State) : (s.clearCur).epochs = s.epochs := rfl
@[simp] theorem State.clearCur_wishes (s : State) : (s.clearCur).wishes = s.wishes := rfl
@[simp] theorem State.clearCur_shadow (s : State) : (s.clearCur).shadow = s.shadow := rfl
@[simp] theorem State.clearCur_placed (s : State) : (s.clearCur).placed = s.placed := rfl
@[simp] theorem State.clearCur_power (s : State) : (s.clearCur).power = s.power := rfl
@[simp] theorem State.clearCur_boot (s : State) : (s.clearCur).boot = s.boot := rfl
@[simp] theorem State.clearCur_msix (s : State) : (s.clearCur).msix = s.msix := rfl
@[simp] theorem State.clearCur_out (s : State) : (s.clearCur).out = s.out := rfl

/-! ### `Wave.setV` -/

@[simp] theorem Wave.setV_uid (w : Wave) (r t : Nat) (x : Word) : (w.setV r t x).uid = w.uid := rfl
@[simp] theorem Wave.setV_ctx (w : Wave) (r t : Nat) (x : Word) : (w.setV r t x).ctx = w.ctx := rfl
@[simp] theorem Wave.setV_kernel (w : Wave) (r t : Nat) (x : Word) : (w.setV r t x).kernel = w.kernel := rfl
@[simp] theorem Wave.setV_group (w : Wave) (r t : Nat) (x : Word) : (w.setV r t x).group = w.group := rfl
@[simp] theorem Wave.setV_core (w : Wave) (r t : Nat) (x : Word) : (w.setV r t x).core = w.core := rfl
@[simp] theorem Wave.setV_lane (w : Wave) (r t : Nat) (x : Word) : (w.setV r t x).lane = w.lane := rfl
@[simp] theorem Wave.setV_slot (w : Wave) (r t : Nat) (x : Word) : (w.setV r t x).slot = w.slot := rfl
@[simp] theorem Wave.setV_idx (w : Wave) (r t : Nat) (x : Word) : (w.setV r t x).idx = w.idx := rfl
@[simp] theorem Wave.setV_halted (w : Wave) (r t : Nat) (x : Word) : (w.setV r t x).halted = w.halted := rfl
@[simp] theorem Wave.setV_splits (w : Wave) (r t : Nat) (x : Word) : (w.setV r t x).splits = w.splits := rfl
@[simp] theorem Wave.setV_lastSp (w : Wave) (r t : Nat) (x : Word) : (w.setV r t x).lastSp = w.lastSp := rfl
@[simp] theorem Wave.setV_regs (w : Wave) (r t : Nat) (x : Word) : (w.setV r t x).regs = w.regs := rfl
@[simp] theorem Wave.setV_target (w : Wave) (r t : Nat) (x : Word) : (w.setV r t x).target = w.target := rfl
@[simp] theorem Wave.setV_p (w : Wave) (r t : Nat) (x : Word) : (w.setV r t x).p = w.p := rfl
@[simp] theorem Wave.setV_fp (w : Wave) (r t : Nat) (x : Word) : (w.setV r t x).fp = w.fp := rfl
@[simp] theorem Wave.setV_latch (w : Wave) (r t : Nat) (x : Word) : (w.setV r t x).latch = w.latch := rfl
@[simp] theorem Wave.setV_stored (w : Wave) (r t : Nat) (x : Word) : (w.setV r t x).stored = w.stored := rfl
@[simp] theorem Wave.setV_back (w : Wave) (r t : Nat) (x : Word) : (w.setV r t x).back = w.back := rfl
@[simp] theorem Wave.setV_udiv (w : Wave) (r t : Nat) (x : Word) : (w.setV r t x).udiv = w.udiv := rfl
@[simp] theorem Wave.setV_pend (w : Wave) (r t : Nat) (x : Word) : (w.setV r t x).pend = w.pend := rfl
@[simp] theorem Wave.setV_tls (w : Wave) (r t : Nat) (x : Word) : (w.setV r t x).tls = w.tls := rfl
@[simp] theorem Wave.setV_tw (w : Wave) (r t : Nat) (x : Word) : (w.setV r t x).tw = w.tw := rfl
@[simp] theorem Wave.setV_arr (w : Wave) (r t : Nat) (x : Word) : (w.setV r t x).arr = w.arr := rfl
@[simp] theorem Wave.setV_dl (w : Wave) (r t : Nat) (x : Word) : (w.setV r t x).dl = w.dl := rfl
@[simp] theorem Wave.setV_cls (w : Wave) (r t : Nat) (x : Word) : (w.setV r t x).cls = w.cls := rfl
@[simp] theorem Wave.setV_launchCls (w : Wave) (r t : Nat) (x : Word) : (w.setV r t x).launchCls = w.launchCls := rfl
@[simp] theorem Wave.setV_full (w : Wave) (r t : Nat) (x : Word) : (w.setV r t x).full = w.full := rfl
@[simp] theorem Wave.setV_efl (w : Wave) (r t : Nat) (x : Word) : (w.setV r t x).efl = w.efl := rfl
@[simp] theorem Wave.setV_trap (w : Wave) (r t : Nat) (x : Word) : (w.setV r t x).trap = w.trap := rfl
@[simp] theorem Wave.setV_stuck (w : Wave) (r t : Nat) (x : Word) : (w.setV r t x).stuck = w.stuck := rfl

/-! ### `Wave.raise` -/

@[simp] theorem Wave.raise_uid (w : Wave) (t : Nat) (fl : Byte) : (w.raise t fl).uid = w.uid := rfl
@[simp] theorem Wave.raise_ctx (w : Wave) (t : Nat) (fl : Byte) : (w.raise t fl).ctx = w.ctx := rfl
@[simp] theorem Wave.raise_kernel (w : Wave) (t : Nat) (fl : Byte) : (w.raise t fl).kernel = w.kernel := rfl
@[simp] theorem Wave.raise_group (w : Wave) (t : Nat) (fl : Byte) : (w.raise t fl).group = w.group := rfl
@[simp] theorem Wave.raise_core (w : Wave) (t : Nat) (fl : Byte) : (w.raise t fl).core = w.core := rfl
@[simp] theorem Wave.raise_lane (w : Wave) (t : Nat) (fl : Byte) : (w.raise t fl).lane = w.lane := rfl
@[simp] theorem Wave.raise_slot (w : Wave) (t : Nat) (fl : Byte) : (w.raise t fl).slot = w.slot := rfl
@[simp] theorem Wave.raise_idx (w : Wave) (t : Nat) (fl : Byte) : (w.raise t fl).idx = w.idx := rfl
@[simp] theorem Wave.raise_halted (w : Wave) (t : Nat) (fl : Byte) : (w.raise t fl).halted = w.halted := rfl
@[simp] theorem Wave.raise_splits (w : Wave) (t : Nat) (fl : Byte) : (w.raise t fl).splits = w.splits := rfl
@[simp] theorem Wave.raise_lastSp (w : Wave) (t : Nat) (fl : Byte) : (w.raise t fl).lastSp = w.lastSp := rfl
@[simp] theorem Wave.raise_regs (w : Wave) (t : Nat) (fl : Byte) : (w.raise t fl).regs = w.regs := rfl
@[simp] theorem Wave.raise_target (w : Wave) (t : Nat) (fl : Byte) : (w.raise t fl).target = w.target := rfl
@[simp] theorem Wave.raise_v (w : Wave) (t : Nat) (fl : Byte) : (w.raise t fl).v = w.v := rfl
@[simp] theorem Wave.raise_badV (w : Wave) (t : Nat) (fl : Byte) : (w.raise t fl).badV = w.badV := rfl
@[simp] theorem Wave.raise_p (w : Wave) (t : Nat) (fl : Byte) : (w.raise t fl).p = w.p := rfl
@[simp] theorem Wave.raise_latch (w : Wave) (t : Nat) (fl : Byte) : (w.raise t fl).latch = w.latch := rfl
@[simp] theorem Wave.raise_stored (w : Wave) (t : Nat) (fl : Byte) : (w.raise t fl).stored = w.stored := rfl
@[simp] theorem Wave.raise_back (w : Wave) (t : Nat) (fl : Byte) : (w.raise t fl).back = w.back := rfl
@[simp] theorem Wave.raise_udiv (w : Wave) (t : Nat) (fl : Byte) : (w.raise t fl).udiv = w.udiv := rfl
@[simp] theorem Wave.raise_pend (w : Wave) (t : Nat) (fl : Byte) : (w.raise t fl).pend = w.pend := rfl
@[simp] theorem Wave.raise_tls (w : Wave) (t : Nat) (fl : Byte) : (w.raise t fl).tls = w.tls := rfl
@[simp] theorem Wave.raise_tw (w : Wave) (t : Nat) (fl : Byte) : (w.raise t fl).tw = w.tw := rfl
@[simp] theorem Wave.raise_arr (w : Wave) (t : Nat) (fl : Byte) : (w.raise t fl).arr = w.arr := rfl
@[simp] theorem Wave.raise_dl (w : Wave) (t : Nat) (fl : Byte) : (w.raise t fl).dl = w.dl := rfl
@[simp] theorem Wave.raise_cls (w : Wave) (t : Nat) (fl : Byte) : (w.raise t fl).cls = w.cls := rfl
@[simp] theorem Wave.raise_launchCls (w : Wave) (t : Nat) (fl : Byte) : (w.raise t fl).launchCls = w.launchCls := rfl
@[simp] theorem Wave.raise_full (w : Wave) (t : Nat) (fl : Byte) : (w.raise t fl).full = w.full := rfl
@[simp] theorem Wave.raise_efl (w : Wave) (t : Nat) (fl : Byte) : (w.raise t fl).efl = w.efl := rfl
@[simp] theorem Wave.raise_trap (w : Wave) (t : Nat) (fl : Byte) : (w.raise t fl).trap = w.trap := rfl
@[simp] theorem Wave.raise_stuck (w : Wave) (t : Nat) (fl : Byte) : (w.raise t fl).stuck = w.stuck := rfl

/-! ### `Wave.setLatch` -/

@[simp] theorem Wave.setLatch_uid (w : Wave) (b t x : Nat) : (w.setLatch b t x).uid = w.uid := rfl
@[simp] theorem Wave.setLatch_ctx (w : Wave) (b t x : Nat) : (w.setLatch b t x).ctx = w.ctx := rfl
@[simp] theorem Wave.setLatch_kernel (w : Wave) (b t x : Nat) : (w.setLatch b t x).kernel = w.kernel := rfl
@[simp] theorem Wave.setLatch_group (w : Wave) (b t x : Nat) : (w.setLatch b t x).group = w.group := rfl
@[simp] theorem Wave.setLatch_core (w : Wave) (b t x : Nat) : (w.setLatch b t x).core = w.core := rfl
@[simp] theorem Wave.setLatch_lane (w : Wave) (b t x : Nat) : (w.setLatch b t x).lane = w.lane := rfl
@[simp] theorem Wave.setLatch_slot (w : Wave) (b t x : Nat) : (w.setLatch b t x).slot = w.slot := rfl
@[simp] theorem Wave.setLatch_idx (w : Wave) (b t x : Nat) : (w.setLatch b t x).idx = w.idx := rfl
@[simp] theorem Wave.setLatch_halted (w : Wave) (b t x : Nat) : (w.setLatch b t x).halted = w.halted := rfl
@[simp] theorem Wave.setLatch_splits (w : Wave) (b t x : Nat) : (w.setLatch b t x).splits = w.splits := rfl
@[simp] theorem Wave.setLatch_lastSp (w : Wave) (b t x : Nat) : (w.setLatch b t x).lastSp = w.lastSp := rfl
@[simp] theorem Wave.setLatch_regs (w : Wave) (b t x : Nat) : (w.setLatch b t x).regs = w.regs := rfl
@[simp] theorem Wave.setLatch_target (w : Wave) (b t x : Nat) : (w.setLatch b t x).target = w.target := rfl
@[simp] theorem Wave.setLatch_v (w : Wave) (b t x : Nat) : (w.setLatch b t x).v = w.v := rfl
@[simp] theorem Wave.setLatch_badV (w : Wave) (b t x : Nat) : (w.setLatch b t x).badV = w.badV := rfl
@[simp] theorem Wave.setLatch_p (w : Wave) (b t x : Nat) : (w.setLatch b t x).p = w.p := rfl
@[simp] theorem Wave.setLatch_fp (w : Wave) (b t x : Nat) : (w.setLatch b t x).fp = w.fp := rfl
@[simp] theorem Wave.setLatch_stored (w : Wave) (b t x : Nat) : (w.setLatch b t x).stored = w.stored := rfl
@[simp] theorem Wave.setLatch_back (w : Wave) (b t x : Nat) : (w.setLatch b t x).back = w.back := rfl
@[simp] theorem Wave.setLatch_udiv (w : Wave) (b t x : Nat) : (w.setLatch b t x).udiv = w.udiv := rfl
@[simp] theorem Wave.setLatch_pend (w : Wave) (b t x : Nat) : (w.setLatch b t x).pend = w.pend := rfl
@[simp] theorem Wave.setLatch_tls (w : Wave) (b t x : Nat) : (w.setLatch b t x).tls = w.tls := rfl
@[simp] theorem Wave.setLatch_tw (w : Wave) (b t x : Nat) : (w.setLatch b t x).tw = w.tw := rfl
@[simp] theorem Wave.setLatch_arr (w : Wave) (b t x : Nat) : (w.setLatch b t x).arr = w.arr := rfl
@[simp] theorem Wave.setLatch_dl (w : Wave) (b t x : Nat) : (w.setLatch b t x).dl = w.dl := rfl
@[simp] theorem Wave.setLatch_cls (w : Wave) (b t x : Nat) : (w.setLatch b t x).cls = w.cls := rfl
@[simp] theorem Wave.setLatch_launchCls (w : Wave) (b t x : Nat) : (w.setLatch b t x).launchCls = w.launchCls := rfl
@[simp] theorem Wave.setLatch_full (w : Wave) (b t x : Nat) : (w.setLatch b t x).full = w.full := rfl
@[simp] theorem Wave.setLatch_efl (w : Wave) (b t x : Nat) : (w.setLatch b t x).efl = w.efl := rfl
@[simp] theorem Wave.setLatch_trap (w : Wave) (b t x : Nat) : (w.setLatch b t x).trap = w.trap := rfl
@[simp] theorem Wave.setLatch_stuck (w : Wave) (b t x : Nat) : (w.setLatch b t x).stuck = w.stuck := rfl

/-! ### `Wave.dropLatches` -/

@[simp] theorem Wave.dropLatches_uid (w : Wave) : (w.dropLatches).uid = w.uid := rfl
@[simp] theorem Wave.dropLatches_ctx (w : Wave) : (w.dropLatches).ctx = w.ctx := rfl
@[simp] theorem Wave.dropLatches_kernel (w : Wave) : (w.dropLatches).kernel = w.kernel := rfl
@[simp] theorem Wave.dropLatches_group (w : Wave) : (w.dropLatches).group = w.group := rfl
@[simp] theorem Wave.dropLatches_core (w : Wave) : (w.dropLatches).core = w.core := rfl
@[simp] theorem Wave.dropLatches_lane (w : Wave) : (w.dropLatches).lane = w.lane := rfl
@[simp] theorem Wave.dropLatches_slot (w : Wave) : (w.dropLatches).slot = w.slot := rfl
@[simp] theorem Wave.dropLatches_idx (w : Wave) : (w.dropLatches).idx = w.idx := rfl
@[simp] theorem Wave.dropLatches_halted (w : Wave) : (w.dropLatches).halted = w.halted := rfl
@[simp] theorem Wave.dropLatches_splits (w : Wave) : (w.dropLatches).splits = w.splits := rfl
@[simp] theorem Wave.dropLatches_lastSp (w : Wave) : (w.dropLatches).lastSp = w.lastSp := rfl
@[simp] theorem Wave.dropLatches_regs (w : Wave) : (w.dropLatches).regs = w.regs := rfl
@[simp] theorem Wave.dropLatches_target (w : Wave) : (w.dropLatches).target = w.target := rfl
@[simp] theorem Wave.dropLatches_v (w : Wave) : (w.dropLatches).v = w.v := rfl
@[simp] theorem Wave.dropLatches_badV (w : Wave) : (w.dropLatches).badV = w.badV := rfl
@[simp] theorem Wave.dropLatches_p (w : Wave) : (w.dropLatches).p = w.p := rfl
@[simp] theorem Wave.dropLatches_fp (w : Wave) : (w.dropLatches).fp = w.fp := rfl
@[simp] theorem Wave.dropLatches_stored (w : Wave) : (w.dropLatches).stored = w.stored := rfl
@[simp] theorem Wave.dropLatches_back (w : Wave) : (w.dropLatches).back = w.back := rfl
@[simp] theorem Wave.dropLatches_udiv (w : Wave) : (w.dropLatches).udiv = w.udiv := rfl
@[simp] theorem Wave.dropLatches_pend (w : Wave) : (w.dropLatches).pend = w.pend := rfl
@[simp] theorem Wave.dropLatches_tls (w : Wave) : (w.dropLatches).tls = w.tls := rfl
@[simp] theorem Wave.dropLatches_tw (w : Wave) : (w.dropLatches).tw = w.tw := rfl
@[simp] theorem Wave.dropLatches_arr (w : Wave) : (w.dropLatches).arr = w.arr := rfl
@[simp] theorem Wave.dropLatches_dl (w : Wave) : (w.dropLatches).dl = w.dl := rfl
@[simp] theorem Wave.dropLatches_cls (w : Wave) : (w.dropLatches).cls = w.cls := rfl
@[simp] theorem Wave.dropLatches_launchCls (w : Wave) : (w.dropLatches).launchCls = w.launchCls := rfl
@[simp] theorem Wave.dropLatches_full (w : Wave) : (w.dropLatches).full = w.full := rfl
@[simp] theorem Wave.dropLatches_efl (w : Wave) : (w.dropLatches).efl = w.efl := rfl
@[simp] theorem Wave.dropLatches_trap (w : Wave) : (w.dropLatches).trap = w.trap := rfl
@[simp] theorem Wave.dropLatches_stuck (w : Wave) : (w.dropLatches).stuck = w.stuck := rfl

/-! ### `Wave.modSplit` -/

@[simp] theorem Wave.modSplit_uid (w : Wave) (n : Nat) (f : Split → Split) : (w.modSplit n f).uid = w.uid := rfl
@[simp] theorem Wave.modSplit_ctx (w : Wave) (n : Nat) (f : Split → Split) : (w.modSplit n f).ctx = w.ctx := rfl
@[simp] theorem Wave.modSplit_kernel (w : Wave) (n : Nat) (f : Split → Split) : (w.modSplit n f).kernel = w.kernel := rfl
@[simp] theorem Wave.modSplit_group (w : Wave) (n : Nat) (f : Split → Split) : (w.modSplit n f).group = w.group := rfl
@[simp] theorem Wave.modSplit_core (w : Wave) (n : Nat) (f : Split → Split) : (w.modSplit n f).core = w.core := rfl
@[simp] theorem Wave.modSplit_lane (w : Wave) (n : Nat) (f : Split → Split) : (w.modSplit n f).lane = w.lane := rfl
@[simp] theorem Wave.modSplit_slot (w : Wave) (n : Nat) (f : Split → Split) : (w.modSplit n f).slot = w.slot := rfl
@[simp] theorem Wave.modSplit_idx (w : Wave) (n : Nat) (f : Split → Split) : (w.modSplit n f).idx = w.idx := rfl
@[simp] theorem Wave.modSplit_halted (w : Wave) (n : Nat) (f : Split → Split) : (w.modSplit n f).halted = w.halted := rfl
@[simp] theorem Wave.modSplit_lastSp (w : Wave) (n : Nat) (f : Split → Split) : (w.modSplit n f).lastSp = w.lastSp := rfl
@[simp] theorem Wave.modSplit_regs (w : Wave) (n : Nat) (f : Split → Split) : (w.modSplit n f).regs = w.regs := rfl
@[simp] theorem Wave.modSplit_target (w : Wave) (n : Nat) (f : Split → Split) : (w.modSplit n f).target = w.target := rfl
@[simp] theorem Wave.modSplit_v (w : Wave) (n : Nat) (f : Split → Split) : (w.modSplit n f).v = w.v := rfl
@[simp] theorem Wave.modSplit_badV (w : Wave) (n : Nat) (f : Split → Split) : (w.modSplit n f).badV = w.badV := rfl
@[simp] theorem Wave.modSplit_p (w : Wave) (n : Nat) (f : Split → Split) : (w.modSplit n f).p = w.p := rfl
@[simp] theorem Wave.modSplit_fp (w : Wave) (n : Nat) (f : Split → Split) : (w.modSplit n f).fp = w.fp := rfl
@[simp] theorem Wave.modSplit_latch (w : Wave) (n : Nat) (f : Split → Split) : (w.modSplit n f).latch = w.latch := rfl
@[simp] theorem Wave.modSplit_stored (w : Wave) (n : Nat) (f : Split → Split) : (w.modSplit n f).stored = w.stored := rfl
@[simp] theorem Wave.modSplit_back (w : Wave) (n : Nat) (f : Split → Split) : (w.modSplit n f).back = w.back := rfl
@[simp] theorem Wave.modSplit_udiv (w : Wave) (n : Nat) (f : Split → Split) : (w.modSplit n f).udiv = w.udiv := rfl
@[simp] theorem Wave.modSplit_pend (w : Wave) (n : Nat) (f : Split → Split) : (w.modSplit n f).pend = w.pend := rfl
@[simp] theorem Wave.modSplit_tls (w : Wave) (n : Nat) (f : Split → Split) : (w.modSplit n f).tls = w.tls := rfl
@[simp] theorem Wave.modSplit_tw (w : Wave) (n : Nat) (f : Split → Split) : (w.modSplit n f).tw = w.tw := rfl
@[simp] theorem Wave.modSplit_arr (w : Wave) (n : Nat) (f : Split → Split) : (w.modSplit n f).arr = w.arr := rfl
@[simp] theorem Wave.modSplit_dl (w : Wave) (n : Nat) (f : Split → Split) : (w.modSplit n f).dl = w.dl := rfl
@[simp] theorem Wave.modSplit_cls (w : Wave) (n : Nat) (f : Split → Split) : (w.modSplit n f).cls = w.cls := rfl
@[simp] theorem Wave.modSplit_launchCls (w : Wave) (n : Nat) (f : Split → Split) : (w.modSplit n f).launchCls = w.launchCls := rfl
@[simp] theorem Wave.modSplit_full (w : Wave) (n : Nat) (f : Split → Split) : (w.modSplit n f).full = w.full := rfl
@[simp] theorem Wave.modSplit_efl (w : Wave) (n : Nat) (f : Split → Split) : (w.modSplit n f).efl = w.efl := rfl
@[simp] theorem Wave.modSplit_trap (w : Wave) (n : Nat) (f : Split → Split) : (w.modSplit n f).trap = w.trap := rfl
@[simp] theorem Wave.modSplit_stuck (w : Wave) (n : Nat) (f : Split → Split) : (w.modSplit n f).stuck = w.stuck := rfl

/-! ### `Wave.modTl` -/

@[simp] theorem Wave.modTl_uid (w : Wave) (n : Nat) (f : Timeline → Timeline) : (w.modTl n f).uid = w.uid := rfl
@[simp] theorem Wave.modTl_ctx (w : Wave) (n : Nat) (f : Timeline → Timeline) : (w.modTl n f).ctx = w.ctx := rfl
@[simp] theorem Wave.modTl_kernel (w : Wave) (n : Nat) (f : Timeline → Timeline) : (w.modTl n f).kernel = w.kernel := rfl
@[simp] theorem Wave.modTl_group (w : Wave) (n : Nat) (f : Timeline → Timeline) : (w.modTl n f).group = w.group := rfl
@[simp] theorem Wave.modTl_core (w : Wave) (n : Nat) (f : Timeline → Timeline) : (w.modTl n f).core = w.core := rfl
@[simp] theorem Wave.modTl_lane (w : Wave) (n : Nat) (f : Timeline → Timeline) : (w.modTl n f).lane = w.lane := rfl
@[simp] theorem Wave.modTl_slot (w : Wave) (n : Nat) (f : Timeline → Timeline) : (w.modTl n f).slot = w.slot := rfl
@[simp] theorem Wave.modTl_idx (w : Wave) (n : Nat) (f : Timeline → Timeline) : (w.modTl n f).idx = w.idx := rfl
@[simp] theorem Wave.modTl_halted (w : Wave) (n : Nat) (f : Timeline → Timeline) : (w.modTl n f).halted = w.halted := rfl
@[simp] theorem Wave.modTl_splits (w : Wave) (n : Nat) (f : Timeline → Timeline) : (w.modTl n f).splits = w.splits := rfl
@[simp] theorem Wave.modTl_lastSp (w : Wave) (n : Nat) (f : Timeline → Timeline) : (w.modTl n f).lastSp = w.lastSp := rfl
@[simp] theorem Wave.modTl_regs (w : Wave) (n : Nat) (f : Timeline → Timeline) : (w.modTl n f).regs = w.regs := rfl
@[simp] theorem Wave.modTl_target (w : Wave) (n : Nat) (f : Timeline → Timeline) : (w.modTl n f).target = w.target := rfl
@[simp] theorem Wave.modTl_v (w : Wave) (n : Nat) (f : Timeline → Timeline) : (w.modTl n f).v = w.v := rfl
@[simp] theorem Wave.modTl_badV (w : Wave) (n : Nat) (f : Timeline → Timeline) : (w.modTl n f).badV = w.badV := rfl
@[simp] theorem Wave.modTl_p (w : Wave) (n : Nat) (f : Timeline → Timeline) : (w.modTl n f).p = w.p := rfl
@[simp] theorem Wave.modTl_fp (w : Wave) (n : Nat) (f : Timeline → Timeline) : (w.modTl n f).fp = w.fp := rfl
@[simp] theorem Wave.modTl_latch (w : Wave) (n : Nat) (f : Timeline → Timeline) : (w.modTl n f).latch = w.latch := rfl
@[simp] theorem Wave.modTl_stored (w : Wave) (n : Nat) (f : Timeline → Timeline) : (w.modTl n f).stored = w.stored := rfl
@[simp] theorem Wave.modTl_back (w : Wave) (n : Nat) (f : Timeline → Timeline) : (w.modTl n f).back = w.back := rfl
@[simp] theorem Wave.modTl_udiv (w : Wave) (n : Nat) (f : Timeline → Timeline) : (w.modTl n f).udiv = w.udiv := rfl
@[simp] theorem Wave.modTl_pend (w : Wave) (n : Nat) (f : Timeline → Timeline) : (w.modTl n f).pend = w.pend := rfl
@[simp] theorem Wave.modTl_tw (w : Wave) (n : Nat) (f : Timeline → Timeline) : (w.modTl n f).tw = w.tw := rfl
@[simp] theorem Wave.modTl_arr (w : Wave) (n : Nat) (f : Timeline → Timeline) : (w.modTl n f).arr = w.arr := rfl
@[simp] theorem Wave.modTl_dl (w : Wave) (n : Nat) (f : Timeline → Timeline) : (w.modTl n f).dl = w.dl := rfl
@[simp] theorem Wave.modTl_cls (w : Wave) (n : Nat) (f : Timeline → Timeline) : (w.modTl n f).cls = w.cls := rfl
@[simp] theorem Wave.modTl_launchCls (w : Wave) (n : Nat) (f : Timeline → Timeline) : (w.modTl n f).launchCls = w.launchCls := rfl
@[simp] theorem Wave.modTl_full (w : Wave) (n : Nat) (f : Timeline → Timeline) : (w.modTl n f).full = w.full := rfl
@[simp] theorem Wave.modTl_efl (w : Wave) (n : Nat) (f : Timeline → Timeline) : (w.modTl n f).efl = w.efl := rfl
@[simp] theorem Wave.modTl_trap (w : Wave) (n : Nat) (f : Timeline → Timeline) : (w.modTl n f).trap = w.trap := rfl
@[simp] theorem Wave.modTl_stuck (w : Wave) (n : Nat) (f : Timeline → Timeline) : (w.modTl n f).stuck = w.stuck := rfl

/-! ### `Wave.modPend` -/

@[simp] theorem Wave.modPend_uid (w : Wave) (q : Nat) (f : Pend → Pend) : (w.modPend q f).uid = w.uid := rfl
@[simp] theorem Wave.modPend_ctx (w : Wave) (q : Nat) (f : Pend → Pend) : (w.modPend q f).ctx = w.ctx := rfl
@[simp] theorem Wave.modPend_kernel (w : Wave) (q : Nat) (f : Pend → Pend) : (w.modPend q f).kernel = w.kernel := rfl
@[simp] theorem Wave.modPend_group (w : Wave) (q : Nat) (f : Pend → Pend) : (w.modPend q f).group = w.group := rfl
@[simp] theorem Wave.modPend_core (w : Wave) (q : Nat) (f : Pend → Pend) : (w.modPend q f).core = w.core := rfl
@[simp] theorem Wave.modPend_lane (w : Wave) (q : Nat) (f : Pend → Pend) : (w.modPend q f).lane = w.lane := rfl
@[simp] theorem Wave.modPend_slot (w : Wave) (q : Nat) (f : Pend → Pend) : (w.modPend q f).slot = w.slot := rfl
@[simp] theorem Wave.modPend_idx (w : Wave) (q : Nat) (f : Pend → Pend) : (w.modPend q f).idx = w.idx := rfl
@[simp] theorem Wave.modPend_halted (w : Wave) (q : Nat) (f : Pend → Pend) : (w.modPend q f).halted = w.halted := rfl
@[simp] theorem Wave.modPend_splits (w : Wave) (q : Nat) (f : Pend → Pend) : (w.modPend q f).splits = w.splits := rfl
@[simp] theorem Wave.modPend_lastSp (w : Wave) (q : Nat) (f : Pend → Pend) : (w.modPend q f).lastSp = w.lastSp := rfl
@[simp] theorem Wave.modPend_regs (w : Wave) (q : Nat) (f : Pend → Pend) : (w.modPend q f).regs = w.regs := rfl
@[simp] theorem Wave.modPend_target (w : Wave) (q : Nat) (f : Pend → Pend) : (w.modPend q f).target = w.target := rfl
@[simp] theorem Wave.modPend_v (w : Wave) (q : Nat) (f : Pend → Pend) : (w.modPend q f).v = w.v := rfl
@[simp] theorem Wave.modPend_badV (w : Wave) (q : Nat) (f : Pend → Pend) : (w.modPend q f).badV = w.badV := rfl
@[simp] theorem Wave.modPend_p (w : Wave) (q : Nat) (f : Pend → Pend) : (w.modPend q f).p = w.p := rfl
@[simp] theorem Wave.modPend_fp (w : Wave) (q : Nat) (f : Pend → Pend) : (w.modPend q f).fp = w.fp := rfl
@[simp] theorem Wave.modPend_latch (w : Wave) (q : Nat) (f : Pend → Pend) : (w.modPend q f).latch = w.latch := rfl
@[simp] theorem Wave.modPend_stored (w : Wave) (q : Nat) (f : Pend → Pend) : (w.modPend q f).stored = w.stored := rfl
@[simp] theorem Wave.modPend_back (w : Wave) (q : Nat) (f : Pend → Pend) : (w.modPend q f).back = w.back := rfl
@[simp] theorem Wave.modPend_udiv (w : Wave) (q : Nat) (f : Pend → Pend) : (w.modPend q f).udiv = w.udiv := rfl
@[simp] theorem Wave.modPend_tls (w : Wave) (q : Nat) (f : Pend → Pend) : (w.modPend q f).tls = w.tls := rfl
@[simp] theorem Wave.modPend_tw (w : Wave) (q : Nat) (f : Pend → Pend) : (w.modPend q f).tw = w.tw := rfl
@[simp] theorem Wave.modPend_arr (w : Wave) (q : Nat) (f : Pend → Pend) : (w.modPend q f).arr = w.arr := rfl
@[simp] theorem Wave.modPend_dl (w : Wave) (q : Nat) (f : Pend → Pend) : (w.modPend q f).dl = w.dl := rfl
@[simp] theorem Wave.modPend_cls (w : Wave) (q : Nat) (f : Pend → Pend) : (w.modPend q f).cls = w.cls := rfl
@[simp] theorem Wave.modPend_launchCls (w : Wave) (q : Nat) (f : Pend → Pend) : (w.modPend q f).launchCls = w.launchCls := rfl
@[simp] theorem Wave.modPend_full (w : Wave) (q : Nat) (f : Pend → Pend) : (w.modPend q f).full = w.full := rfl
@[simp] theorem Wave.modPend_efl (w : Wave) (q : Nat) (f : Pend → Pend) : (w.modPend q f).efl = w.efl := rfl
@[simp] theorem Wave.modPend_trap (w : Wave) (q : Nat) (f : Pend → Pend) : (w.modPend q f).trap = w.trap := rfl
@[simp] theorem Wave.modPend_stuck (w : Wave) (q : Nat) (f : Pend → Pend) : (w.modPend q f).stuck = w.stuck := rfl

/-! ### `Split.setS` -/

@[simp] theorem Split.setS_num (p : Split) (r : Nat) (x : Word) : (p.setS r x).num = p.num := rfl
@[simp] theorem Split.setS_pc (p : Split) (r : Nat) (x : Word) : (p.setS r x).pc = p.pc := rfl
@[simp] theorem Split.setS_mask (p : Split) (r : Nat) (x : Word) : (p.setS r x).mask = p.mask := rfl
@[simp] theorem Split.setS_st (p : Split) (r : Nat) (x : Word) : (p.setS r x).st = p.st := rfl
@[simp] theorem Split.setS_replay (p : Split) (r : Nat) (x : Word) : (p.setS r x).replay = p.replay := rfl
@[simp] theorem Split.setS_x (p : Split) (r : Nat) (x : Word) : (p.setS r x).x = p.x := rfl
@[simp] theorem Split.setS_segw (p : Split) (r : Nat) (x : Word) : (p.setS r x).segw = p.segw := rfl
@[simp] theorem Split.setS_stack (p : Split) (r : Nat) (x : Word) : (p.setS r x).stack = p.stack := rfl
@[simp] theorem Split.setS_begun (p : Split) (r : Nat) (x : Word) : (p.setS r x).begun = p.begun := rfl
@[simp] theorem Split.setS_held (p : Split) (r : Nat) (x : Word) : (p.setS r x).held = p.held := rfl
@[simp] theorem Split.setS_yielded (p : Split) (r : Nat) (x : Word) : (p.setS r x).yielded = p.yielded := rfl
@[simp] theorem Split.setS_marked (p : Split) (r : Nat) (x : Word) : (p.setS r x).marked = p.marked := rfl
@[simp] theorem Split.setS_issues (p : Split) (r : Nat) (x : Word) : (p.setS r x).issues = p.issues := rfl
@[simp] theorem Split.setS_lost (p : Split) (r : Nat) (x : Word) : (p.setS r x).lost = p.lost := rfl
@[simp] theorem Split.setS_waiting (p : Split) (r : Nat) (x : Word) : (p.setS r x).waiting = p.waiting := rfl
@[simp] theorem Split.setS_also (p : Split) (r : Nat) (x : Word) : (p.setS r x).also = p.also := rfl

end Sys2Proof.Machine
end

