-- ==== Sys2Proof/Laws/Objects.lean ====
section
/-! SUPPORT. What reading an object by its number gives after a named change of that object or of another. -/

namespace Sys2Proof.Machine

/-! ### Lists of numbered objects -/

/-- Finding by number in a list in which the objects of one number were changed, their numbers kept: the changed object. -/
theorem find_map_key {α : Type} (key : α → Nat) (f : α → α) (u k : Nat) (l : List α) (hk : ∀ x, key x = u → key (f x) = u) :
    (l.map fun x => if key x = u then f x else x).find? (fun x => key x == k) =
      (l.find? fun x => key x == k).map fun x => if k = u then f x else x := by
  induction l with
  | nil => rfl
  | cons x r ih =>
    by_cases hx : key x = u
    · by_cases hku : k = u
      · subst hku; simp [hx, hk x hx]
      · have h1 : (u == k) = false := by simpa using Ne.symm hku
        rw [List.map_cons, if_pos hx, List.find?_cons, hk x hx, List.find?_cons, hx, h1]
        exact ih
    · by_cases hxk : key x = k
      · have : k ≠ u := fun h => hx (hxk.trans h)
        simp [hxk, this]
      · have h1 : (key x == k) = false := by simpa using hxk
        simp only [List.map_cons, if_neg hx, List.find?_cons, h1, ih]

/-! ### Waves and splits -/

/-- Every change of a wave that the machine makes keeps its number. -/
theorem State.wave?_modWave (s : State) (u k : Nat) (f : Wave → Wave) (h : ∀ w, w.uid = u → (f w).uid = u) :
    (s.modWave u f).wave? k = (s.wave? k).map fun w => if k = u then f w else w :=
  find_map_key Wave.uid f u k s.waves h

theorem State.wave?_uid {s : State} {u : Nat} {w : Wave} (h : s.wave? u = some w) : w.uid = u := by
  simpa using List.find?_some h

theorem Wave.split?_modSplit (w : Wave) (n k : Nat) (f : Split → Split) (h : ∀ p, p.num = n → (f p).num = n) :
    (w.modSplit n f).split? k = (w.split? k).map fun p => if k = n then f p else p :=
  find_map_key Split.num f n k w.splits h

theorem Wave.split?_num {w : Wave} {n : Nat} {p : Split} (h : w.split? n = some p) : p.num = n := by
  simpa using List.find?_some h

/-- Two changes of one wave in a row. -/
theorem State.modWave_modWave (s : State) (u : Nat) (f g : Wave → Wave) (h : ∀ w, w.uid = u → (f w).uid = u) :
    (s.modWave u f).modWave u g = s.modWave u fun w => g (f w) := by
  simp only [State.modWave, List.map_map]
  congr 1
  apply List.map_congr_left
  intro w _
  by_cases hw : w.uid = u <;> simp [hw, h w]

theorem Wave.modSplit_modSplit (w : Wave) (n : Nat) (f g : Split → Split) (h : ∀ p, p.num = n → (f p).num = n) :
    (w.modSplit n f).modSplit n g = w.modSplit n fun p => g (f p) := by
  simp only [Wave.modSplit, List.map_map]
  congr 1
  apply List.map_congr_left
  intro p _
  by_cases hp : p.num = n <;> simp [hp, h p]

/-! ### Registers -/

theorem vkey_inj {r t r' t' : Nat} (h : t < 32) (h' : t' < 32) : vkey r t = vkey r' t' ↔ r = r' ∧ t = t' := by
  unfold vkey; omega

theorem Wave.vreg_setV (w : Wave) (r t r' t' : Nat) (x : Word) (h : t < 32) (h' : t' < 32) :
    (w.setV r t x).vreg r' t' = if r' = r ∧ t' = t then x else w.vreg r' t' := by
  show sget 0 (sset 0 w.v (vkey r t) x) (vkey r' t') = _
  rw [sget_sset]
  by_cases hk : r' = r ∧ t' = t
  · rw [if_pos ((vkey_inj h' h).2 hk), if_pos hk]
  · rw [if_neg (fun e => hk ((vkey_inj h' h).1 e)), if_neg hk]; rfl

theorem Split.sreg_setS (p : Split) (r r' : Nat) (x : Word) :
    (p.setS r x).sreg r' = if r' = r then x else p.sreg r' := sget_sset 0 p.s r r' x

theorem Wave.pred_setP (w : Wave) (n k : Nat) (m v : Word) :
    (w.setP n m v).pred k = if k = n ∧ n ≠ 7 then (w.pred n &&& ~~~m) ||| (v &&& m) else w.pred k := by
  unfold Wave.setP
  by_cases h7 : n = 7
  · simp [h7]
  · rw [if_neg h7]
    by_cases hk : k = n
    · subst hk; simp [Wave.pred, h7]
    · by_cases hk7 : k = 7
      · simp [Wave.pred, hk7, Ne.symm h7]
      · simp [Wave.pred, hk7, hk, sget_sset_ne]

end Sys2Proof.Machine
end

