-- ==== Sys2Proof/Laws/Issue.lean ====
section
/-! SUPPORT. What the run of one instruction does, said once: an issued instruction answers the state in which its result is
placed; the placing of a completed instruction; and the writes of vector, predicate and scalar results. -/

namespace Sys2Proof.Machine

/-! ### The run of an instruction -/

theorem issuer_some {s : State} {w : Wave} {sp : Split} (h : issuer s = some (w, sp)) :
    s.cur = some (w.uid, sp.num) ∧ s.wave? w.uid = some w ∧ w.split? sp.num = some sp := by
  unfold issuer at h
  split at h
  · cases h
  · next u n hc =>
    split at h
    · cases h
    · next w' hw =>
      split at h
      · cases h
      · next p hp =>
        cases h
        have h1 := State.wave?_uid hw
        have h2 := Wave.split?_num hp
        subst h1 h2
        exact ⟨hc, hw, hp⟩

/-- An instruction that issues and is executed answers the state in which its meaning's result is placed. -/
theorem runInstr_next {s : State} {op : Op} {e : Enc} {w : Wave} {sp : Split} (h : Issues s op e w sp)
    (body : Issue → State → Res) :
    runInstr op e s body = .next (finish (issueOf op e w sp) (body (issueOf op e w sp) (issued op e s w sp))) := by
  have h1 := h.legal; have h2 := h.score; have h3 := h.copies; have h4 := h.sound
  unfold runInstr
  rw [h.issuing]
  dsimp only
  rw [h1]
  dsimp only
  rw [h2]
  dsimp only
  rw [h3]
  dsimp only
  rw [h4]
  rfl

theorem runOnce_next {s : State} {op : Op} {e : Enc} {w : Wave} {sp : Split} (h : Issues s op e w sp)
    (body : Issue → State → Res) (hg : (issueOf op e w sp).en ≠ 0 ∨ ignoresGuard op = true) :
    runOnce op e s body = .next (finish (issueOf op e w sp) (body (issueOf op e w sp) (issued op e s w sp))) := by
  unfold runOnce
  rw [runInstr_next h]
  have : (decide ((issueOf op e w sp).en = 0) && !ignoresGuard op) = false := by
    rcases hg with hg | hg
    · rw [decide_eq_false hg]; rfl
    · rw [hg]; simp
  simp only [this, Bool.false_eq_true, if_false]

/-- A false guard makes an instruction that executes once do nothing but advance (R28). -/
theorem runOnce_skip {s : State} {op : Op} {e : Enc} {w : Wave} {sp : Split} (h : Issues s op e w sp)
    (body : Issue → State → Res) (hg : (issueOf op e w sp).en = 0) (hi : ignoresGuard op = false) :
    runOnce op e s body = .next (finish (issueOf op e w sp) (.done (issued op e s w sp))) := by
  unfold runOnce
  rw [runInstr_next h]
  simp [hg, hi]

@[simp] theorem issueOf_op (op : Op) (e : Enc) (w : Wave) (sp : Split) : (issueOf op e w sp).op = op := rfl
@[simp] theorem issueOf_e (op : Op) (e : Enc) (w : Wave) (sp : Split) : (issueOf op e w sp).e = e := rfl
@[simp] theorem issueOf_sp (op : Op) (e : Enc) (w : Wave) (sp : Split) : (issueOf op e w sp).sp = sp := rfl
@[simp] theorem issueOf_en (op : Op) (e : Enc) (w : Wave) (sp : Split) : (issueOf op e w sp).en = enabledOf op e w sp := rfl
@[simp] theorem issueOf_uid (op : Op) (e : Enc) (w : Wave) (sp : Split) : (issueOf op e w sp).w.uid = w.uid := by
  unfold issueOf; dsimp only; split <;> rfl
@[simp] theorem issueOf_v (op : Op) (e : Enc) (w : Wave) (sp : Split) : (issueOf op e w sp).w.v = w.v := by
  unfold issueOf; dsimp only; split <;> rfl
@[simp] theorem issueOf_p (op : Op) (e : Enc) (w : Wave) (sp : Split) : (issueOf op e w sp).w.p = w.p := by
  unfold issueOf; dsimp only; split <;> rfl
@[simp] theorem issueOf_regs (op : Op) (e : Enc) (w : Wave) (sp : Split) : (issueOf op e w sp).w.regs = w.regs := by
  unfold issueOf; dsimp only; split <;> rfl
@[simp] theorem issueOf_len (op : Op) (e : Enc) (w : Wave) (sp : Split) : (issueOf op e w sp).len = e.form.words := by
  show Issue.len _ = _
  unfold Issue.len Form.words
  rfl

/-- The state that the meaning starts from: the wave has lost its latches or not. -/
theorem issued_wave {s : State} {op : Op} {e : Enc} {w : Wave} {sp : Split} (h : s.wave? w.uid = some w) :
    (issued op e s w sp).wave? w.uid = some { w with latch := latchAfter op e w sp } := by
  unfold issued latchAfter
  split
  · rw [State.wave?_modWave s w.uid _ Wave.dropLatches (fun _ hw => hw), h]; simp [Wave.dropLatches]
  · exact h

theorem issued_only (op : Op) (e : Enc) (s : State) (w : Wave) (sp : Split) : OnlyWave s (issued op e s w sp) w.uid := by
  unfold issued
  split
  · refine ⟨rfl, fun k hk => ?_, fun _ => ⟨rfl, rfl⟩⟩
    rw [State.wave?_modWave s w.uid _ Wave.dropLatches (fun _ hw => hw)]; simp [hk]
  · exact ⟨rfl, fun _ _ => rfl, fun _ => ⟨rfl, rfl⟩⟩

theorem OnlyWave.trans {s t r : State} {u : Nat} (h : OnlyWave s t u) (h' : OnlyWave t r u) : OnlyWave s r u := by
  refine ⟨?_, fun k hk => (h'.others k hk).trans (h.others k hk), fun a => ?_⟩
  · have h1 := h.rest; have h2 := h'.rest
    rw [← h2] at h1
    exact h1
  · exact ⟨(h'.memory a).1.trans (h.memory a).1, (h'.memory a).2.trans (h.memory a).2⟩

/-- Changing one wave, keeping its number, changes nothing but that wave. -/
theorem OnlyWave.modWave (s : State) (u : Nat) (f : Wave → Wave) (h : ∀ w, w.uid = u → (f w).uid = u) :
    OnlyWave s (s.modWave u f) u := by
  refine ⟨rfl, fun k hk => ?_, fun _ => ⟨rfl, rfl⟩⟩
  rw [State.wave?_modWave _ _ _ _ h]; simp [hk]

/-! ### The issue boundary -/

theorem Split.stackRun_stay {p : Split} (h : ∀ x ∈ p.stack.head?, p.pc ≠ x.ja) (n : Nat) : p.stackRun n = (p, false) := by
  cases n with
  | zero => rfl
  | succ n =>
    have : p.stackStep = none := by
      unfold Split.stackStep
      cases hs : p.stack with
      | nil => rfl
      | cons x r =>
        have := h x (by simp [hs])
        simp [this]
    simp [Split.stackRun, this]

theorem Wave.mergeAt_uid (w : Wave) (n : Nat) : (w.mergeAt n).uid = w.uid := by
  unfold Wave.mergeAt
  split
  · rfl
  · split
    · rfl
    · dsimp only
      split <;> rfl

theorem Wave.boundary_uid (w : Wave) (n : Nat) : (w.boundary n).uid = w.uid := by
  unfold Wave.boundary
  split
  · rfl
  · dsimp only
    split
    · rw [Wave.mergeAt_uid]; rfl
    · rfl

/-- With no reconvergence at its new PC a split stays as it is, and so does the rest of the wave. -/
theorem Wave.boundary_stay {w : Wave} {n : Nat} {p : Split} (hp : w.split? n = some p)
    (h : ∀ x ∈ p.stack.head?, p.pc ≠ x.ja) : w.boundary n = w.modSplit n fun _ => p := by
  unfold Wave.boundary
  rw [hp]
  simp [Split.stackRun_stay h]

/-- Placing a completed instruction (R114): the split goes past it; nothing else changes. -/
theorem finish_done {i : Issue} {s : State} {w : Wave} {p : Split} (hw : s.wave? i.w.uid = some w)
    (hp : w.split? i.sp.num = some p)
    (hj : ∀ x ∈ p.stack.head?, p.pc + BitVec.ofNat 64 (4 * i.len) ≠ x.ja) :
    OnlyWave s (finish i (.done s)) i.w.uid ∧
    ∃ w', (finish i (.done s)).wave? i.w.uid = some w' ∧ { w' with splits := w.splits } = w ∧
      OtherSplits w w' i.sp.num ∧
      w'.split? i.sp.num = some { p with pc := p.pc + BitVec.ofNat 64 (4 * i.len), st := .ready, replay := none,
                                         held := none, begun := false, also := [] } := by
  have hn := Wave.split?_num hp
  obtain ⟨q, hq⟩ : ∃ q : Split, q = { p with pc := p.pc + BitVec.ofNat 64 (4 * i.len), st := .ready, replay := none, held := none, begun := false, also := [] } := ⟨_, rfl⟩
  have hjq : ∀ x ∈ q.stack.head?, q.pc ≠ x.ja := by subst hq; exact hj
  have hnq : q.num = i.sp.num := by subst hq; exact hn
  rw [← hq]
  have hu : ∀ x : Wave, x.uid = i.w.uid →
      ((x.modSplit i.sp.num fun p => { p with st := .ready, replay := none, held := none, begun := false, also := [], pc := p.pc + BitVec.ofNat 64 (4 * i.len) }).boundary i.sp.num).uid = i.w.uid := by
    intro x hx; rw [Wave.boundary_uid]; exact hx
  refine ⟨OnlyWave.modWave s _ _ hu, ?_⟩
  show ∃ w', (s.modWave i.w.uid _).wave? i.w.uid = some w' ∧ _
  rw [State.wave?_modWave _ _ _ _ hu, hw]
  have h1 : (w.modSplit i.sp.num fun p => { p with st := .ready, replay := none, held := none, begun := false, also := [], pc := p.pc + BitVec.ofNat 64 (4 * i.len) }).split? i.sp.num = some q := by
    rw [Wave.split?_modSplit _ _ _ _ (by intro _ h; exact h), hp]; simp [hq]
  refine ⟨_, by simp only [Option.map_some, if_true]; rfl, ?_, ?_, ?_⟩
  · rw [Wave.boundary_stay h1 hjq]; rfl
  · intro k hk
    rw [Wave.boundary_stay h1 hjq, Wave.split?_modSplit _ _ _ _ (by intro _ _; exact hnq), Wave.split?_modSplit _ _ _ _ (by intro _ h; exact h)]
    simp [hk]
  · rw [Wave.boundary_stay h1 hjq, Wave.split?_modSplit _ _ _ _ (by intro _ _; exact hnq), h1]
    simp

/-- A completed instruction that changed, before it was placed, no more than its wave's registers, and the registers of its
split: the whole step. -/
theorem finish_done_completed {op : Op} {e : Enc} {s s' : State} {w w1 : Wave} {sp p : Split}
    (hs : OnlyWave s s' w.uid) (hw : s'.wave? w.uid = some w1) (hr : OnlyRegs w w1)
    (ho : OtherSplits w w1 sp.num) (hp : w1.split? sp.num = some p) (hpc : p.pc = sp.pc) (hst : p.stack = sp.stack)
    (hj : NoJoin e sp) :
    ∃ t w', finish (issueOf op e w sp) (.done s') = t ∧ Completed s t w w' sp (passed e p) ∧
      { w' with splits := w1.splits } = w1 := by
  have hj' : ∀ x ∈ p.stack.head?, p.pc + BitVec.ofNat 64 (4 * (issueOf op e w sp).len) ≠ x.ja := by
    rw [hpc, hst, issueOf_len]; exact hj
  obtain ⟨h1, w', h2, h3, h4, h5⟩ := finish_done (i := issueOf op e w sp) (s := s') (w := w1) (p := p) (by simpa using hw)
    (by simpa using hp) hj'
  rw [issueOf_uid] at h1 h2
  rw [issueOf_sp] at h4 h5
  refine ⟨_, w', rfl, ⟨hs.trans h1, h2, ⟨?_⟩, ?_, fun k hk => (h4 k hk).trans (ho k hk)⟩, h3⟩
  · have h6 := hr.rest
    rw [← h3] at h6
    exact h6
  · rw [h5, issueOf_len]; rfl

/-! ### Results -/

/-- What writing a vector result does to a wave: registers of the enabled threads, flags that grow, latches only with `LE`. -/
structure VecWrite (e : Enc) (w w' : Wave) (en : Word) (d n : Nat) : Prop where
  rest  : { w' with v := w.v, badV := w.badV, fp := w.fp, latch := w.latch } = w
  vec   : VecFrame e w w' en d n
  flags : FlagsGrow w w' en
  latch : e.le = false → w'.latch = w.latch

theorem VecWrite.refl (e : Enc) (w : Wave) (en : Word) (d n : Nat) : VecWrite e w w en d n :=
  ⟨rfl, fun _ _ _ _ => rfl, fun _ _ => ⟨fun _ => rfl, by simp⟩, fun _ => rfl⟩

theorem mem_lanesOf {m : Word} {t : Nat} : t ∈ lanesOf m ↔ t < 32 ∧ m.getLsbD t = true := by
  simp [lanesOf]

theorem VecWrite.trans {e : Enc} {w w1 w2 : Wave} {en : Word} {d n : Nat} (h : VecWrite e w w1 en d n)
    (h' : VecWrite e w1 w2 en d n) : VecWrite e w w2 en d n := by
  refine ⟨?_, fun t ht r hr => (h'.vec t ht r hr).trans (h.vec t ht r hr), fun t ht => ⟨fun hn => ?_, ?_⟩,
    fun hl => (h'.latch hl).trans (h.latch hl)⟩
  · have h1 := h.rest; have h2 := h'.rest
    rw [← h2] at h1
    exact h1
  · exact ((h'.flags t ht).1 hn).trans ((h.flags t ht).1 hn)
  · have a := (h.flags t ht).2; have b := (h'.flags t ht).2
    calc sget 0 w.fp t &&& sget 0 w2.fp t
        = (sget 0 w.fp t &&& sget 0 w1.fp t) &&& sget 0 w2.fp t := by rw [a]
      _ = sget 0 w.fp t &&& (sget 0 w1.fp t &&& sget 0 w2.fp t) := by rw [BitVec.and_assoc]
      _ = sget 0 w.fp t := by rw [b, a]

theorem VecWrite.setV {e : Enc} {w : Wave} {en : Word} {d n r t : Nat} (x : Word) (ht : t < 32) (hen : en.getLsbD t = true)
    (hnw : e.nw = false) (h1 : d ≤ r) (h2 : r < d + n) : VecWrite e w (w.setV r t x) en d n := by
  refine ⟨rfl, fun t' ht' r' hr' => ?_, fun _ _ => ⟨fun _ => rfl, BitVec.and_self⟩, fun _ => rfl⟩
  rw [Wave.vreg_setV _ _ _ _ _ _ ht ht', if_neg]
  rintro ⟨rfl, rfl⟩
  rcases hr' with h | h | h | h
  · simp [hnw] at h
  · simp [hen] at h
  · omega
  · omega

theorem VecWrite.setVW {e : Enc} {w : Wave} {en : Word} {d n t : Nat} (wide : Bool) (x : Nat) (ht : t < 32)
    (hen : en.getLsbD t = true) (hnw : e.nw = false) (hn : (if wide then 2 else 1) ≤ n) :
    VecWrite e w (w.setVW d wide t x) en d n := by
  unfold Wave.setVW
  cases wide
  · exact .setV _ ht hen hnw (Nat.le_refl _) (by simp at hn; omega)
  · exact (VecWrite.setV _ ht hen hnw (Nat.le_refl _) (by simp at hn; omega)).trans
      (.setV _ ht hen hnw (by omega) (by simp at hn; omega))

theorem VecWrite.raise {e : Enc} {w : Wave} {en : Word} {d n t : Nat} (fl : Byte) (hen : en.getLsbD t = true) :
    VecWrite e w (w.raise t fl) en d n := by
  refine ⟨rfl, fun _ _ _ _ => rfl, fun t' _ => ?_, fun _ => rfl⟩
  show (_ → sget 0 (sset 0 w.fp t _) t' = _) ∧ _ &&& sget 0 (sset 0 w.fp t _) t' = _
  rw [sget_sset]
  by_cases h : t' = t
  · subst h
    rw [if_pos rfl]
    refine ⟨fun hf => absurd hen (by simp [hf]), ?_⟩
    ext i; simp; intro h; simp [h]
  · rw [if_neg h]; exact ⟨fun _ => rfl, BitVec.and_self⟩

theorem VecWrite.setLatch {e : Enc} {w : Wave} {en : Word} {d n : Nat} (b t x : Nat) (hle : e.le = true) :
    VecWrite e w (w.setLatch b t x) en d n :=
  ⟨rfl, fun _ _ _ _ => rfl, fun _ _ => ⟨fun _ => rfl, BitVec.and_self⟩, fun h => by simp [hle] at h⟩

theorem VecWrite.openLatch {e : Enc} {w : Wave} {en : Word} {d n : Nat} (b : Nat) (hle : e.le = true) :
    VecWrite e w (w.openLatch b) en d n := by
  unfold Wave.openLatch
  split
  · exact .refl ..
  · exact ⟨rfl, fun _ _ _ _ => rfl, fun _ _ => ⟨fun _ => rfl, BitVec.and_self⟩, fun h => by simp [hle] at h⟩

/-- The latch and the flags of one thread's result. -/
theorem VecWrite.latchFlags {e : Enc} {w : Wave} {en : Word} {d n t : Nat} (b x : Nat) (fl : Byte)
    (hen : en.getLsbD t = true) :
    VecWrite e w (if fl = 0 then (if e.le then w.setLatch b t x else w)
      else (if e.le then w.setLatch b t x else w).raise t fl) en d n := by
  have h1 : VecWrite e w (if e.le then w.setLatch b t x else w) en d n := by
    split
    · next h => exact .setLatch _ _ _ h
    · exact .refl ..
  split
  · exact h1
  · exact h1.trans (.raise _ hen)

/-- Writes for the enabled threads, one after the other. -/
theorem VecWrite.forEach {e : Enc} {en : Word} {d n : Nat} (g : Wave → Nat → Wave) (l : List Nat)
    (h : ∀ w t, t ∈ l → VecWrite e w (g w t) en d n) (w : Wave) : VecWrite e w (forEach l g w) en d n := by
  unfold Machine.forEach
  induction l generalizing w with
  | nil => exact .refl ..
  | cons t r ih =>
    exact (h w t (by simp)).trans (ih (fun w' t' h' => h w' t' (by simp [h'])) _)

/-- A vector result writes no more than its destination in the enabled threads, their flags, and its latch. -/
theorem Wave.vecResult_write (w : Wave) (e : Enc) (wide : Bool) (en : Word) (f : Nat → FRes) :
    VecWrite e w (w.vecResult e wide en f) en e.d.toNat (if wide then 2 else 1) := by
  unfold Wave.vecResult
  refine VecWrite.trans (w1 := if e.le then w.openLatch e.ld.toNat else w) ?_ (VecWrite.forEach _ _ ?_ _)
  · split
    · next h => exact .openLatch _ h
    · exact .refl ..
  · intro w t ht
    obtain ⟨ht, hen⟩ := mem_lanesOf.1 ht
    refine VecWrite.trans (w1 := if e.nw then w else w.setVW e.d.toNat wide t (f t).bits) ?_ ?_
    · split
      · exact .refl ..
      · next h => exact .setVW _ _ ht hen (by simpa using h) (Nat.le_refl _)
    · exact .latchFlags _ _ _ hen

theorem Wave.multiResult_write (w : Wave) (e : Enc) (en : Word) (f : Nat → List Nat × Byte) (n : Nat)
    (hn : ∀ t, (f t).1.length ≤ n) : VecWrite e w (w.multiResult e en f) en e.d.toNat n := by
  unfold Wave.multiResult
  refine VecWrite.trans (w1 := if e.le then w.openLatch e.ld.toNat else w) ?_ (VecWrite.forEach _ _ ?_ _)
  · split
    · next h => exact .openLatch _ h
    · exact .refl ..
  · intro w t ht
    obtain ⟨ht, hen⟩ := mem_lanesOf.1 ht
    refine VecWrite.trans (w1 := if e.nw then w else ((List.range (f t).1.length).zip (f t).1).foldl
      (fun w kx => w.setV (e.d.toNat + kx.1) t (BitVec.ofNat 32 kx.2)) w) ?_ ?_
    · split
      · exact .refl ..
      · next h =>
        have key : ∀ (l : List (Nat × Nat)) (w : Wave), (∀ kx ∈ l, kx.1 < n) →
            VecWrite e w (l.foldl (fun w kx => w.setV (e.d.toNat + kx.1) t (BitVec.ofNat 32 kx.2)) w) en e.d.toNat n := by
          intro l
          induction l with
          | nil => intro w _; exact .refl ..
          | cons kx r ih =>
            intro w hl
            exact (VecWrite.setV _ ht hen (by simpa using h) (by omega) (by have := hl kx (by simp); omega)).trans
              (ih _ fun y hy => hl y (by simp [hy]))
        refine key _ _ fun kx hkx => ?_
        have := List.of_mem_zip hkx
        have h1 := List.mem_range.1 this.1
        exact Nat.lt_of_lt_of_le h1 (hn t)
    · exact .latchFlags _ _ _ hen

/-! ### Latches -/

/-- What the result of thread `t` does to the latches: its slot of `LD` takes what its destination holds; no other slot, no valid bit and
no register of another thread changes (R33, R34). -/
structure SlotWrite (e : Enc) (d n t : Nat) (w w' : Wave) : Prop where
  valid : w'.latch.valid = w.latch.valid
  slot  : e.nw = false → (latchSlot w'.latch e.ld.toNat t).toNat = vecValue w' d (n == 2) t
  slots : ∀ k, k ≠ e.ld.toNat * 32 + t → sget 0 w'.latch.slots k = sget 0 w.latch.slots k
  regs  : ∀ t' < 32, t' ≠ t → ∀ r, w'.vreg r t' = w.vreg r t'

theorem vecValue_congr {w w' : Wave} {t : Nat} (h : ∀ r, w'.vreg r t = w.vreg r t) (d : Nat) (wide : Bool) :
    vecValue w' d wide t = vecValue w d wide t := by
  unfold vecValue Wave.vpair; rw [h, h]

/-- The results of distinct threads, one after the other. -/
theorem SlotWrite.forEach {e : Enc} {d n : Nat} (g : Wave → Nat → Wave) (l : List Nat) (hd : l.Nodup) (hl : ∀ t ∈ l, t < 32)
    (h : ∀ w, ∀ t ∈ l, SlotWrite e d n t w (g w t)) (w : Wave) :
    (Machine.forEach l g w).latch.valid = w.latch.valid ∧
    (∀ k, (∀ t ∈ l, k ≠ e.ld.toNat * 32 + t) → sget 0 (Machine.forEach l g w).latch.slots k = sget 0 w.latch.slots k) ∧
    (∀ t < 32, t ∉ l → ∀ r, (Machine.forEach l g w).vreg r t = w.vreg r t) ∧
    (e.nw = false → ∀ t ∈ l, (latchSlot (Machine.forEach l g w).latch e.ld.toNat t).toNat =
      vecValue (Machine.forEach l g w) d (n == 2) t) := by
  unfold Machine.forEach
  induction l generalizing w with
  | nil => exact ⟨rfl, fun _ _ => rfl, fun _ _ _ _ => rfl, by simp⟩
  | cons t r ih =>
    obtain ⟨hd1, hd2⟩ := List.nodup_cons.1 hd
    have s1 := h w t (by simp)
    obtain ⟨i1, i2, i3, i4⟩ := ih hd2 (fun x hx => hl x (by simp [hx])) (fun w x hx => h w x (by simp [hx])) (g w t)
    refine ⟨i1.trans s1.valid, fun k hk => (i2 k fun x hx => hk x (by simp [hx])).trans (s1.slots k (hk t (by simp))),
      fun x hx hn q => (i3 x hx (fun hm => hn (by simp [hm])) q).trans (s1.regs x hx (fun e => hn (by simp [e])) q), fun hnw x hx => ?_⟩
    rcases List.mem_cons.1 hx with rfl | hx
    · have a := i2 (e.ld.toNat * 32 + x) fun y hy e => hd1 (by rwa [show x = y by omega])
      have b := vecValue_congr (i3 x (hl x (by simp)) hd1) d (n == 2)
      unfold latchSlot at *
      simp only [List.foldl_cons]
      rw [a, b]
      exact s1.slot hnw
    · exact i4 hnw x hx

/-- Writing the slot of the latch, and flags, after the destination. -/
theorem SlotWrite.ofSlot {e : Enc} {d n t x : Nat} {w w1 : Wave} (fl : Byte) (hl : w1.latch = w.latch)
    (hr : ∀ t' < 32, t' ≠ t → ∀ r, w1.vreg r t' = w.vreg r t') (hv : e.nw = false → x % 2 ^ 64 = vecValue w1 d (n == 2) t) :
    SlotWrite e d n t w (if fl = 0 then w1.setLatch e.ld.toNat t x else (w1.setLatch e.ld.toNat t x).raise t fl) := by
  have key : SlotWrite e d n t w (w1.setLatch e.ld.toNat t x) := by
    refine ⟨(show w1.latch.valid = w.latch.valid by rw [hl]), fun hnw => ?_, fun k hk => ?_, hr⟩
    · rw [show vecValue (w1.setLatch e.ld.toNat t x) d (n == 2) t = vecValue w1 d (n == 2) t from rfl, ← hv hnw]
      show (sget 0 (sset 0 w1.latch.slots (e.ld.toNat * 32 + t) _) _).toNat = _
      rw [sget_sset_self, BitVec.toNat_ofNat]
    · show sget 0 (sset 0 w1.latch.slots _ _) k = _
      rw [sget_sset_ne _ _ _ hk, hl]
  split
  · exact key
  · exact ⟨key.valid, key.slot, key.slots, key.regs⟩

theorem Wave.vecValue_setVW (w : Wave) (d t x : Nat) (wide : Bool) (ht : t < 32) :
    vecValue (w.setVW d wide t x) d wide t = if wide then x % 2 ^ 64 else x % 2 ^ 32 := by
  unfold Wave.setVW vecValue Wave.vpair
  cases wide
  · simp [Wave.vreg_setV _ _ _ _ _ _ ht ht]
  · simp only [if_true]
    rw [Wave.vreg_setV _ _ _ _ _ _ ht ht, if_pos ⟨rfl, rfl⟩, Wave.vreg_setV _ _ _ _ _ _ ht ht, if_neg (by omega),
      Wave.vreg_setV _ _ _ _ _ _ ht ht, if_pos ⟨rfl, rfl⟩, BitVec.toNat_append, ← Nat.shiftLeft_add_eq_or_of_lt (BitVec.isLt _),
      Nat.shiftLeft_eq, BitVec.toNat_ofNat, BitVec.toNat_ofNat]
    omega

theorem Wave.vreg_setVW_ne (w : Wave) (d t x t' r : Nat) (wide : Bool) (ht : t < 32) (ht' : t' < 32) (h : t' ≠ t) :
    (w.setVW d wide t x).vreg r t' = w.vreg r t' := by
  unfold Wave.setVW
  cases wide <;> simp [Wave.vreg_setV _ _ _ _ _ _ ht ht', h]

/-- What a result leaves of the latches of the wave that it is written to. -/
structure LatchResult (e : Enc) (en : Word) (d n : Nat) (w w' : Wave) : Prop where
  valid : w'.latch.valid = w.latch.valid ||| (1#4 <<< e.ld.toNat)
  slots : e.nw = false → ∀ t < 32, en.getLsbD t = true → (latchSlot w'.latch e.ld.toNat t).toNat = vecValue w' d (n == 2) t
  rest  : ∀ t < 32, en.getLsbD t = false → latchSlot w'.latch e.ld.toNat t =
    if w.latch.valid.getLsbD e.ld.toNat then latchSlot w.latch e.ld.toNat t else 0
  other : ∀ b < 4, b ≠ e.ld.toNat → ∀ t < 32, latchSlot w'.latch b t = latchSlot w.latch b t

theorem Wave.openLatch_valid (w : Wave) {b : Nat} (hb : b < 4) : (w.openLatch b).latch.valid = w.latch.valid ||| (1#4 <<< b) := by
  unfold Wave.openLatch
  split
  · next h =>
    ext k hk
    by_cases hkb : k = b
    · subst hkb; simp [← BitVec.getLsbD_eq_getElem, h]
    · have : ((1#4 <<< b : BitVec 4)[k]) = false := by
        rw [← BitVec.getLsbD_eq_getElem]
        simp [BitVec.getLsbD_shiftLeft]; omega
      simp [this]
  · rfl

theorem latchSlot_openLatch (w : Wave) (b b' t : Nat) (ht : t < 32) :
    latchSlot (w.openLatch b).latch b' t =
      if b' = b ∧ w.latch.valid.getLsbD b = false then 0 else latchSlot w.latch b' t := by
  unfold Wave.openLatch latchSlot
  split
  · next h => simp [h]
  · next h =>
    dsimp only
    rw [sget_sfilter, show (b' * 32 + t) / 32 = b' by omega]
    by_cases hb : b' = b <;> simp [hb, h]

/-- The latch of a result that is written thread by thread after the latch is opened. -/
theorem LatchResult.forEach {e : Enc} {d n : Nat} (g : Wave → Nat → Wave) (en : Word)
    (h : ∀ w, ∀ t ∈ lanesOf en, SlotWrite e d n t w (g w t)) (w : Wave) :
    LatchResult e en d n w (Machine.forEach (lanesOf en) g (w.openLatch e.ld.toNat)) := by
  obtain ⟨i1, i2, _, i4⟩ := SlotWrite.forEach g (lanesOf en) (List.nodup_range.filter _) (fun t ht => (mem_lanesOf.1 ht).1) h
    (w.openLatch e.ld.toNat)
  have hb := e.ld.isLt
  refine ⟨i1.trans (w.openLatch_valid hb), fun hn t ht he => i4 hn t (mem_lanesOf.2 ⟨ht, he⟩), fun t ht he => ?_, fun b _ hne t ht => ?_⟩
  · have a := i2 (e.ld.toNat * 32 + t) fun x hx e => by
      rw [show t = x by omega, (mem_lanesOf.1 hx).2] at he; cases he
    have c := latchSlot_openLatch w e.ld.toNat e.ld.toNat t ht
    unfold latchSlot at *
    rw [a, c]
    cases w.latch.valid.getLsbD e.ld.toNat <;> simp
  · have a := i2 (b * 32 + t) fun x hx => by have := (mem_lanesOf.1 hx).1; omega
    have c := latchSlot_openLatch w e.ld.toNat b t ht
    unfold latchSlot at *
    rw [a, c, if_neg (fun h => hne h.1)]

theorem Wave.vecResult_latch (w : Wave) (e : Enc) (wide : Bool) (en : Word) (f : Nat → FRes) (he : e.le = true) :
    LatchResult e en e.d.toNat (if wide then 2 else 1) w (w.vecResult e wide en f) := by
  unfold Wave.vecResult
  simp only [he, if_true]
  refine LatchResult.forEach _ en (fun w t ht => ?_) w
  obtain ⟨ht, _⟩ := mem_lanesOf.1 ht
  refine SlotWrite.ofSlot (f t).fl ?_ ?_ ?_
  · split
    · rfl
    · unfold Wave.setVW; split <;> rfl
  · intro t' ht' hne r
    split
    · rfl
    · exact w.vreg_setVW_ne _ _ _ _ _ _ ht ht' hne
  · intro hn
    have hw : ((if wide then 2 else 1) == 2) = wide := by cases wide <;> rfl
    simp only [hw, hn, Bool.false_eq_true, if_false, Wave.vecValue_setVW _ _ _ _ _ ht]
    cases wide <;> simp
    omega

/-- Registers written one after the other from `d`. -/
theorem Wave.vreg_foldl_setV (t : Nat) (ht : t < 32) (d : Nat) (l : List (Nat × Nat)) (w : Wave) (r t' : Nat) (ht' : t' < 32)
    (h : t' ≠ t ∨ ∀ kx ∈ l, d + kx.1 ≠ r) :
    (l.foldl (fun w kx => w.setV (d + kx.1) t (BitVec.ofNat 32 kx.2)) w).vreg r t' = w.vreg r t' := by
  induction l generalizing w with
  | nil => rfl
  | cons kx q ih =>
    refine (ih _ (h.imp_right fun h y hy => h y (by simp [hy]))).trans ?_
    rw [Wave.vreg_setV _ _ _ _ _ _ ht ht', if_neg]
    rintro ⟨rfl, rfl⟩
    rcases h with h | h
    · exact h rfl
    · exact h kx (by simp) rfl

theorem Wave.foldl_setV_latch (t d : Nat) (l : List (Nat × Nat)) (w : Wave) :
    (l.foldl (fun w kx => w.setV (d + kx.1) t (BitVec.ofNat 32 kx.2)) w).latch = w.latch := by
  induction l generalizing w with
  | nil => rfl
  | cons kx q ih => exact (ih _).trans rfl

theorem Wave.multiResult_latch (w : Wave) (e : Enc) (en : Word) (f : Nat → List Nat × Byte) (n : Nat) (h0 : 0 < n) (h2 : n ≠ 2)
    (hn : ∀ t, (f t).1.length = n) (he : e.le = true) : LatchResult e en e.d.toNat n w (w.multiResult e en f) := by
  unfold Wave.multiResult
  simp only [he, if_true]
  refine LatchResult.forEach _ en (fun w t ht => ?_) w
  obtain ⟨ht, _⟩ := mem_lanesOf.1 ht
  refine SlotWrite.ofSlot (f t).2 ?_ ?_ ?_
  · split
    · rfl
    · exact Wave.foldl_setV_latch ..
  · intro t' ht' hne r
    split
    · rfl
    · exact Wave.vreg_foldl_setV _ ht _ _ _ _ _ ht' (.inl hne)
  · intro hnw
    simp only [show (n == 2) = false by simpa using h2, hnw, Bool.false_eq_true, if_false]
    obtain ⟨x, r, hx⟩ : ∃ x r, (f t).1 = x :: r := by
      cases hf : (f t).1 with
      | nil => have := hn t; rw [hf] at this; simp at this; omega
      | cons x r => exact ⟨x, r, rfl⟩
    unfold vecValue
    rw [hx, List.length_cons, List.range_succ_eq_map, List.zip_cons_cons, List.foldl_cons,
      if_neg (by simp), Wave.vreg_foldl_setV _ ht _ _ _ _ _ ht, Wave.vreg_setV _ _ _ _ _ _ ht ht]
    · simp
      omega
    · refine .inr fun kx hkx => ?_
      have := (List.of_mem_zip hkx).1
      simp only [List.mem_map] at this
      obtain ⟨y, _, hy⟩ := this
      omega

/-- An instruction whose result is a change of its wave's registers alone. -/
theorem finish_wave {op : Op} {e : Enc} {s : State} {w : Wave} {sp : Split} (h : Issues s op e w sp) (hj : NoJoin e sp)
    (g : Wave → Wave) (hr : ∀ x, { g x with v := x.v, badV := x.badV, p := x.p, fp := x.fp, latch := x.latch } = x) :
    ∃ t w', finish (issueOf op e w sp) (.done ((issued op e s w sp).modWave w.uid g)) = t ∧
      Completed s t w w' sp (passed e sp) ∧
      { w' with splits := w.splits } = g { w with latch := latchAfter op e w sp } := by
  have hu : ∀ x, (g x).uid = x.uid := fun x => by have := congrArg Wave.uid (hr x); exact this
  have hs : ∀ x, (g x).splits = x.splits := fun x => by have := congrArg Wave.splits (hr x); exact this
  obtain ⟨_, hw, hp⟩ := issuer_some h.issuing
  have hw1 := issued_wave (op := op) (e := e) (sp := sp) hw
  obtain ⟨t, w', h1, h2, h3⟩ := finish_done_completed (op := op) (e := e) (w := w) (sp := sp) (p := sp)
    (s' := (issued op e s w sp).modWave w.uid g) (w1 := g { w with latch := latchAfter op e w sp })
    ((issued_only op e s w sp).trans (OnlyWave.modWave _ _ g fun x hx => (hu x).trans hx))
    (by rw [State.wave?_modWave _ _ _ g (fun x hx => (hu x).trans hx), hw1]; simp)
    ⟨by have := congrArg (fun y : Wave => { y with splits := w.splits, latch := w.latch }) (hr { w with latch := latchAfter op e w sp })
        exact this⟩
    (fun k _ => by unfold Wave.split?; rw [hs]) (by unfold Wave.split? at *; rw [hs]; exact hp) rfl rfl hj
  exact ⟨t, w', h1, h2, by rw [hs] at h3; exact h3⟩

/-- A vector result, complete. -/
theorem finish_vecWrite {op : Op} {e : Enc} {s : State} {w : Wave} {sp : Split} (h : Issues s op e w sp) (hj : NoJoin e sp)
    (g : Wave → Wave) (n : Nat) (hg : ∀ x, VecWrite e x (g x) (enabledOf op e w sp) e.d.toNat n)
    (hb : e.le = true → ∀ x, LatchResult e (enabledOf op e w sp) e.d.toNat n x (g x)) :
    ∃ t w', finish (issueOf op e w sp) (.done ((issued op e s w sp).modWave w.uid g)) = t ∧
      Completed s t w w' sp (passed e sp) ∧ VecResult op e w w' sp n := by
  have hx := hg { w with latch := latchAfter op e w sp }
  obtain ⟨t, w', h1, h2, h3⟩ := finish_wave h hj g fun x => by
    have h1 := (hg x).rest
    have h2 := congrArg Wave.p h1
    have h3 := congrArg (fun y : Wave => { y with p := x.p }) h1
    exact h3
  have hv : w'.v = (g { w with latch := latchAfter op e w sp }).v := by have := congrArg Wave.v h3; exact this
  have hf : w'.fp = (g { w with latch := latchAfter op e w sp }).fp := by have := congrArg Wave.fp h3; exact this
  have hp : w'.p = (g { w with latch := latchAfter op e w sp }).p := by have := congrArg Wave.p h3; exact this
  have hl : w'.latch = (g { w with latch := latchAfter op e w sp }).latch := by have := congrArg Wave.latch h3; exact this
  refine ⟨t, w', h1, h2, ?_, ?_, ?_, ?_, ?_⟩
  · intro t ht r hr
    have := hx.vec t ht r hr
    unfold Wave.vreg at this ⊢
    rw [hv]; exact this
  · rw [hp]
    have := congrArg Wave.p hx.rest
    exact this
  · intro t ht
    have := hx.flags t ht
    rw [hf]
    exact this
  · intro hle
    rw [hl]
    exact hx.latch hle
  · intro hle
    have hy := hb hle { w with latch := latchAfter op e w sp }
    have hs : ∀ b t, latchSlot (latchAfter op e w sp) b t = latchSlot w.latch b t := fun b t => by
      unfold latchAfter; split <;> rfl
    refine ⟨by rw [hl]; exact hy.valid, fun hn t ht he => ?_, fun t ht he => ?_, fun b hb' hne t ht => ?_⟩
    · have a := hy.slots hn t ht he
      rw [hl]
      unfold vecValue Wave.vpair Wave.vreg at a ⊢
      rw [hv]; exact a
    · rw [hl]; exact (hy.rest t ht he).trans (by rw [hs])
    · rw [hl]; exact (hy.other b hb' hne t ht).trans (hs b t)

theorem Issue.vec_completes {op : Op} {e : Enc} {s : State} {w : Wave} {sp : Split} (h : Issues s op e w sp)
    (hj : NoJoin e sp) (wide : Bool) (f : Nat → FRes) :
    ∃ t w', finish (issueOf op e w sp) ((issueOf op e w sp).vec (issued op e s w sp) wide f) = t ∧
      Completed s t w w' sp (passed e sp) ∧ VecResult op e w w' sp (if wide then 2 else 1) := by
  unfold Issue.vec
  rw [issueOf_uid]
  exact finish_vecWrite h hj _ _ (fun x => Wave.vecResult_write x e wide _ f) fun he x => Wave.vecResult_latch x e wide _ f he

theorem Wave.setP_rest (w : Wave) (n : Nat) (m v : Word) :
    { w.setP n m v with v := w.v, badV := w.badV, p := w.p, fp := w.fp, latch := w.latch } = w := by
  unfold Wave.setP; split <;> rfl

/-- A predicate result, complete. -/
theorem finish_pred {op : Op} {e : Enc} {s : State} {w : Wave} {sp : Split} (h : Issues s op e w sp) (hj : NoJoin e sp)
    (n : Nat) (m v : Word) :
    ∃ t w', finish (issueOf op e w sp) (.done ((issued op e s w sp).modWave w.uid fun w => w.setP n m v)) = t ∧
      Completed s t w w' sp (passed e sp) ∧ PredResult op e w w' sp n m v := by
  obtain ⟨t, w', h1, h2, h3⟩ := finish_wave h hj (fun w => w.setP n m v) fun x => x.setP_rest n m v
  have hx := Wave.setP_rest { w with latch := latchAfter op e w sp } n m v
  have hrest : ∀ x : Wave, (x.setP n m v).v = x.v ∧ (x.setP n m v).fp = x.fp ∧ (x.setP n m v).latch = x.latch := by
    intro x; unfold Wave.setP; split <;> exact ⟨rfl, rfl, rfl⟩
  have hp : ∀ k, w'.pred k = ({ w with latch := latchAfter op e w sp }.setP n m v).pred k := fun k => by
    have := congrArg (fun y : Wave => y.pred k) h3
    exact this
  have hv := congrArg Wave.v h3
  have hf := congrArg Wave.fp h3
  have hl := congrArg Wave.latch h3
  rw [(hrest _).1] at hv
  rw [(hrest _).2.1] at hf
  rw [(hrest _).2.2] at hl
  refine ⟨t, w', h1, h2, fun hn => ?_, fun k hk => ?_, hv, hf, hl⟩
  · rw [hp, Wave.pred_setP, if_pos ⟨rfl, hn⟩]; rfl
  · rw [hp, Wave.pred_setP, if_neg (by rintro ⟨a, b⟩; rcases hk with h | h <;> contradiction)]; rfl

/-- An instruction that changes its wave not at all, and its split before it goes on by `g`. -/
theorem finish_split {op : Op} {e : Enc} {s : State} {w : Wave} {sp : Split} (h : Issues s op e w sp) (hj : NoJoin e sp)
    (g : Split → Split) (hn : ∀ p, (g p).num = p.num) (hpc : (g sp).pc = sp.pc) (hst : (g sp).stack = sp.stack) :
    ∃ t w', finish (issueOf op e w sp) (.done ((issued op e s w sp).modSplit w.uid sp.num g)) = t ∧
      Completed s t w w' sp (passed e (g sp)) ∧ NoVectorEffect op e w w' sp := by
  obtain ⟨_, hw, hp⟩ := issuer_some h.issuing
  have hw1 := issued_wave (op := op) (e := e) (sp := sp) hw
  have hk : ∀ p, p.num = sp.num → (g p).num = sp.num := fun p h => (hn p).trans h
  obtain ⟨t, w', h1, h2, h3⟩ := finish_done_completed (op := op) (e := e) (w := w) (sp := sp) (p := g sp)
    (s' := (issued op e s w sp).modSplit w.uid sp.num g)
    (w1 := { w with latch := latchAfter op e w sp }.modSplit sp.num g)
    ((issued_only op e s w sp).trans (OnlyWave.modWave _ _ (fun w => w.modSplit sp.num g) fun x hx => hx))
    (by unfold State.modSplit
        rw [State.wave?_modWave _ _ _ (fun w => w.modSplit sp.num g) (fun x hx => hx), hw1]; simp)
    ⟨rfl⟩ (fun k hk' => by
      rw [Wave.split?_modSplit _ _ _ _ hk]
      show Option.map _ (w.split? k) = w.split? k
      simp [hk'])
    (by rw [Wave.split?_modSplit _ _ _ _ hk]
        show Option.map _ (w.split? sp.num) = _
        rw [hp]; simp) hpc hst hj
  have hv := congrArg Wave.v h3
  have hpp := congrArg Wave.p h3
  have hf := congrArg Wave.fp h3
  have hl := congrArg Wave.latch h3
  exact ⟨t, w', h1, h2, hv, hpp, hf, hl⟩

/-- An instruction with no effect but to advance. -/
theorem finish_nothing {op : Op} {e : Enc} {s : State} {w : Wave} {sp : Split} (h : Issues s op e w sp) (hj : NoJoin e sp) :
    ∃ t w', finish (issueOf op e w sp) (.done (issued op e s w sp)) = t ∧
      Completed s t w w' sp (passed e sp) ∧ NoVectorEffect op e w w' sp := by
  obtain ⟨_, hw, hp⟩ := issuer_some h.issuing
  have hw1 := issued_wave (op := op) (e := e) (sp := sp) hw
  obtain ⟨t, w', h1, h2, h3⟩ := finish_done_completed (op := op) (e := e) (w := w) (sp := sp) (p := sp)
    (s' := issued op e s w sp) (w1 := { w with latch := latchAfter op e w sp }) (issued_only op e s w sp) hw1
    ⟨rfl⟩ (fun _ _ => rfl) hp rfl rfl hj
  have hv := congrArg Wave.v h3
  have hpp := congrArg Wave.p h3
  have hf := congrArg Wave.fp h3
  have hl := congrArg Wave.latch h3
  exact ⟨t, w', h1, h2, hv, hpp, hf, hl⟩

/-- Writing a scalar register or pair. -/
theorem Split.setSW_write (p : Split) (d : Nat) (wide : Bool) (x : Nat) : ScalarWrite p (p.setSW d wide x) d wide x := by
  cases wide
  · exact ⟨by simp [Split.setSW, Split.sreg_setS], fun h => by simp at h,
      fun r hr _ => by simp [Split.setSW, Split.sreg_setS, hr], rfl⟩
  · refine ⟨by simp [Split.setSW, Split.sreg_setS], fun _ => by simp [Split.setSW, Split.sreg_setS], fun r hr h => ?_, rfl⟩
    rcases h with h | h
    · simp at h
    · simp [Split.setSW, Split.sreg_setS, hr, h]

/-- A scalar result, complete. -/
theorem Issue.sca_completes {op : Op} {e : Enc} {s : State} {w : Wave} {sp : Split} (h : Issues s op e w sp)
    (hj : NoJoin e sp) (wide : Bool) (x : Nat) :
    ∃ t w' p, finish (issueOf op e w sp) ((issueOf op e w sp).sca (issued op e s w sp) wide x) = t ∧
      Completed s t w w' sp (passed e p) ∧ NoVectorEffect op e w w' sp ∧ ScalarWrite sp p e.d.toNat wide x := by
  unfold Issue.sca
  rw [issueOf_uid, issueOf_sp, issueOf_e]
  have hw := sp.setSW_write e.d.toNat wide x
  have h1 := congrArg Split.pc hw.rest
  have h2 := congrArg Split.stack hw.rest
  obtain ⟨t, w', h3, h4, h5⟩ := finish_split h hj (fun p => p.setSW e.d.toNat wide x)
    (fun p => by have := congrArg Split.num (p.setSW_write e.d.toNat wide x).rest; exact this) h1 h2
  exact ⟨t, w', _, h3, h4, h5, hw⟩

/-! ### Instructions by the shape of their result -/

/-- An instruction whose result is a vector register or pair. -/
theorem runInstr_vec {op : Op} {e : Enc} {s : State} {w : Wave} {sp : Split} (h : Issues s op e w sp) (hj : NoJoin e sp)
    (n : Nat) {body : Issue → State → Res} (wide : Bool) (f : Nat → FRes)
    (hb : body (issueOf op e w sp) (issued op e s w sp) = (issueOf op e w sp).vec (issued op e s w sp) wide f)
    (hn : n = if wide then 2 else 1) :
    ∃ t w', runInstr op e s body = .next t ∧ Completed s t w w' sp (passed e sp) ∧ VecResult op e w w' sp n := by
  subst hn
  rw [runInstr_next h, hb]
  obtain ⟨t, w', h1, h2, h3⟩ := Issue.vec_completes h hj wide f
  exact ⟨t, w', by rw [h1], h2, h3⟩

/-- An instruction whose result is several vector registers. -/
theorem runInstr_multi {op : Op} {e : Enc} {s : State} {w : Wave} {sp : Split} (h : Issues s op e w sp) (hj : NoJoin e sp)
    (n : Nat) {body : Issue → State → Res} (f : Nat → List Nat × Byte)
    (hb : body (issueOf op e w sp) (issued op e s w sp) =
      .done ((issued op e s w sp).modWave (issueOf op e w sp).w.uid fun y => y.multiResult e (issueOf op e w sp).en f))
    (h0 : 0 < n) (h2 : n ≠ 2) (hn : ∀ t, (f t).1.length = n) :
    ∃ t w', runInstr op e s body = .next t ∧ Completed s t w w' sp (passed e sp) ∧ VecResult op e w w' sp n := by
  rw [runInstr_next h, hb, issueOf_uid]
  obtain ⟨t, w', h1, h2, h3⟩ := finish_vecWrite h hj (fun y => y.multiResult e (issueOf op e w sp).en f) n
    (fun x => Wave.multiResult_write x e _ f n fun t => Nat.le_of_eq (hn t)) fun he x => Wave.multiResult_latch x e _ f n h0 h2 hn he
  exact ⟨t, w', by rw [← h1], h2, h3⟩

/-- An instruction whose result is a predicate. -/
theorem runInstr_pred {op : Op} {e : Enc} {s : State} {w : Wave} {sp : Split} (h : Issues s op e w sp) (hj : NoJoin e sp)
    {body : Issue → State → Res} (n : Nat) (m v : Word)
    (hb : body (issueOf op e w sp) (issued op e s w sp) =
      .done ((issued op e s w sp).modWave (issueOf op e w sp).w.uid fun y => y.setP n m v)) :
    ∃ t w', runInstr op e s body = .next t ∧ Completed s t w w' sp (passed e sp) ∧ PredResult op e w w' sp n m v := by
  rw [runInstr_next h, hb, issueOf_uid]
  obtain ⟨t, w', h1, h2, h3⟩ := finish_pred h hj n m v
  exact ⟨t, w', by rw [h1], h2, h3⟩

/-- An instruction that executes once for the split and whose result is a scalar register or pair. -/
theorem runOnce_sca {op : Op} {e : Enc} {s : State} {w : Wave} {sp : Split} (h : Issues s op e w sp) (hj : NoJoin e sp)
    (hg : Enabled op e w sp) {body : Issue → State → Res} (wide : Bool) (x : Nat)
    (hb : body (issueOf op e w sp) (issued op e s w sp) = (issueOf op e w sp).sca (issued op e s w sp) wide x) :
    ∃ t w' p, runOnce op e s body = .next t ∧ Completed s t w w' sp (passed e p) ∧ NoVectorEffect op e w w' sp ∧
      ScalarWrite sp p e.d.toNat wide x := by
  rw [runOnce_next h _ (.inl hg), hb]
  obtain ⟨t, w', p, h1, h2, h3, h4⟩ := Issue.sca_completes h hj wide x
  exact ⟨t, w', p, by rw [h1], h2, h3, h4⟩

/-- An instruction that executes once for the split, when its guard is true for no active thread. -/
theorem runOnce_disabled {op : Op} {e : Enc} {s : State} {w : Wave} {sp : Split} (h : Issues s op e w sp) (hj : NoJoin e sp)
    (hg : ¬ Enabled op e w sp) (hi : ignoresGuard op = false) {body : Issue → State → Res} :
    ∃ t w', runOnce op e s body = .next t ∧ Completed s t w w' sp (passed e sp) ∧ NoVectorEffect op e w w' sp := by
  rw [runOnce_skip h _ (by simpa [Enabled] using hg) hi]
  obtain ⟨t, w', h1, h2, h3⟩ := finish_nothing h hj
  exact ⟨t, w', by rw [h1], h2, h3⟩

/-- A trap of an executed instruction (R336). -/
theorem runOnce_trap {op : Op} {e : Enc} {s : State} {w : Wave} {sp : Split} (h : Issues s op e w sp)
    (hg : Enabled op e w sp) {body : Issue → State → Res} (ti : TrapInfo)
    (hb : body (issueOf op e w sp) (issued op e s w sp) = .trap ti (issued op e s w sp)) :
    runOnce op e s body = .next (finish (issueOf op e w sp) (.trap ti (issued op e s w sp))) := by
  rw [runOnce_next h _ (.inl hg), hb]

/-! ### Operands are numbers of their width -/

theorem wrapInt_lt (n : Nat) (x : Int) : wrapInt n x < 2 ^ n := by
  have h : (0 : Int) < (2 ^ n : Nat) := by exact_mod_cast Nat.two_pow_pos n
  have h1 := Int.emod_nonneg x (Int.ne_of_gt h)
  have h2 := Int.emod_lt_of_pos x h
  unfold wrapInt
  omega

/-- A source is a number of 32 or 64 bits when its immediate is. -/
theorem Issue.src_lt (i : Issue) (k : Kind) (n : BitVec 8) (wide : Bool) (imm t : Nat)
    (h : imm < 2 ^ (if wide then 64 else 32)) : i.src k n wide imm t < 2 ^ (if wide then 64 else 32) := by
  cases k <;> cases wide <;> simp only [Issue.src, Bool.false_eq_true, if_false, if_true] at h ⊢
  all_goals first
    | exact h
    | exact BitVec.isLt _
    | exact Nat.mod_lt _ (by decide)

end Sys2Proof.Machine
end

