-- ==== Sys2Proof/Laws/Memory.lean ====
section
/-! SUPPORT. Every memory operation keeps the canonical form of both memories. -/

namespace Sys2Proof.Machine

/-- A state whose memories are those of one in canonical form. -/
theorem MemInv.congr {s t : State} (h : MemInv s) (hm : t.mem = s.mem) (hh : t.hostMem = s.hostMem) : MemInv t := by
  unfold MemInv at *
  rwa [hm, hh]

theorem MemInv.setBackByte {s : State} (h : MemInv s) (pa : Nat) (b : Byte) : MemInv (s.setBackByte pa b) := by
  unfold State.setBackByte
  split
  · exact ⟨h.1, wf_setByte _ _ _ h.2⟩
  · exact ⟨wf_setByte _ _ _ h.1, h.2⟩

theorem MemInv.setPlaceByte {s : State} (h : MemInv s) (p : Place) (k : Nat) (b : Byte) : MemInv (s.setPlaceByte p k b) := by
  cases p with
  | phys pa => exact ⟨wf_setByte _ _ _ h.1, h.2⟩
  | host pa => exact ⟨h.1, wf_setByte _ _ _ h.2⟩
  | det g va pa => exact h.setBackByte _ _
  | spd g off => exact h.congr rfl rfl
  | grp => exact h
  | reg => exact h.congr rfl rfl

/-- A write of any place, of any size. -/
theorem MemInv.writePlace {s : State} (h : MemInv s) (p : Place) (v n : Nat) : MemInv (s.writePlace p v n) := by
  induction n with
  | zero => exact h
  | succ n ih => exact ih.setPlaceByte _ _ _

theorem fillSector_mem (s : State) (src pa n : Nat) :
    (s.fillSector src pa n).mem = s.mem ∧ (s.fillSector src pa n).hostMem = s.hostMem := by
  unfold State.fillSector
  dsimp only
  by_cases hb : (!s.badSectors.contains (pa / 64)) = true
  · rw [if_pos hb]; exact ⟨rfl, rfl⟩
  · rw [if_neg hb]
    generalize ((match s.badFill.find? fun f => f.1 == pa / 64 && f.2.1 == src with
      | some f => f.2.2
      | none => 0) ||| (2 ^ n - 1) * 2 ^ (pa % 64)) = m
    by_cases hm : m % 2 ^ 64 = 2 ^ 64 - 1
    · rw [if_pos hm]; exact ⟨rfl, rfl⟩
    · rw [if_neg hm]; exact ⟨rfl, rfl⟩

theorem fillSectors_mem (s : State) (src pa n : Nat) :
    (s.fillSectors src pa n).mem = s.mem ∧ (s.fillSectors src pa n).hostMem = s.hostMem := by
  unfold State.fillSectors
  generalize List.range ((pa % 64 + n + 63) / 64) = l
  induction l generalizing s with
  | nil => exact ⟨rfl, rfl⟩
  | cons j l ih =>
    rw [List.foldl_cons]
    have hj := fillSector_mem s src (max pa (64 * (pa / 64 + j)))
      (min (pa + n) (64 * (pa / 64 + j + 1)) - max pa (64 * (pa / 64 + j)))
    exact ⟨(ih _).1.trans hj.1, (ih _).2.trans hj.2⟩

/-- A store of an agent. -/
theorem MemInv.store {s : State} (h : MemInv s) (src : Nat) (p : Place) (v n : Nat) : MemInv (s.store src p v n) := by
  have hw := h.writePlace p v n
  cases p <;> first | exact hw | exact hw.congr (fillSectors_mem _ _ _ _).1 (fillSectors_mem _ _ _ _).2

/-- A write by firmware. -/
theorem MemInv.poke {s : State} (h : MemInv s) (pa n v : Nat) : MemInv (s.poke pa n v) := ⟨wf_writeLe _ _ _ _ h.1, h.2⟩

theorem wf_copyCells (src dst : Sparse Byte) (a b n : Nat) (h : Memory.wf dst = true) : Memory.wf (copyCells src dst a b n) = true := by
  unfold copyCells
  dsimp only
  generalize (src.filter fun kv => decide (a ≤ kv.1) && decide (kv.1 < a + n)) = l
  have h0 : Memory.wf (sfilter (fun k => !(decide (b ≤ k) && decide (k < b + n))) dst) = true := swf_sfilter _ _ _ h
  generalize sfilter (fun k => !(decide (b ≤ k) && decide (k < b + n))) dst = m at h0
  induction l generalizing m with
  | nil => exact h0
  | cons x l ih => exact ih _ (wf_setByte _ _ _ h0)

/-- The copy of a frame at a migration. -/
theorem MemInv.copyFrame {s : State} (h : MemInv s) (a b n : Nat) : MemInv (s.copyFrame a b n) := by
  unfold State.copyFrame
  dsimp only
  split
  · exact ⟨wf_copyCells _ _ _ _ _ h.1, h.2⟩
  · exact ⟨h.1, wf_copyCells _ _ _ _ _ h.2⟩

theorem wf_placeTables (m : Sparse Byte) (h : Memory.wf m = true) : Memory.wf (placeTables m) = true := by
  unfold placeTables
  exact wf_writeLe _ _ _ _ (wf_writeLe _ _ _ _ (wf_writeLe _ _ _ _ (wf_writeLe _ _ _ _ (wf_writeLe _ _ _ _ h))))

/-- The placing of an instruction. -/
theorem MemInv.placeWord {s : State} (h : MemInv s) (nbits w : Nat) : MemInv (placeWord s nbits w) :=
  ⟨wf_writeLe _ _ _ _ (wf_placeTables _ h.1), h.2⟩

end Sys2Proof.Machine
end

