-- ==== Sys2Proof/Laws/PerInstr.lean ====
section
/-! SUPPORT. What is proved per constructor of `Instr`: an instruction is made again of its opcode and fields. -/

namespace Sys2Proof.Laws.PartsRoundTrip

/-- An instruction word is `Instr.ofOp` of its own parts. -/
def Statement (i : Instr) : Prop := ∀ op e, i.parts = some (op, e) → Instr.ofOp e op = i

/-- A step of another agent has no parts. -/
theorem of_none {i : Instr} (h : i.parts = none) : Statement i := fun _ _ h2 => by rw [h] at h2; cases h2

/-- An instruction word with its parts known. -/
theorem of_some {i : Instr} {p : Op} {f : Enc} (h : i.parts = some (p, f)) (h2 : Instr.ofOp f p = i) : Statement i :=
  fun _ _ h3 => by rw [h] at h3; cases h3; exact h2

theorem nop (e : Enc) : Statement (.nop e) := of_some rfl rfl
theorem iadd (e : Enc) : Statement (.iadd e) := of_some rfl rfl
theorem isub (e : Enc) : Statement (.isub e) := of_some rfl rfl
theorem imul (e : Enc) : Statement (.imul e) := of_some rfl rfl
theorem imulh (e : Enc) : Statement (.imulh e) := of_some rfl rfl
theorem imad (e : Enc) : Statement (.imad e) := of_some rfl rfl
theorem imin (e : Enc) : Statement (.imin e) := of_some rfl rfl
theorem imax (e : Enc) : Statement (.imax e) := of_some rfl rfl
theorem iabs (e : Enc) : Statement (.iabs e) := of_some rfl rfl
theorem ineg (e : Enc) : Statement (.ineg e) := of_some rfl rfl
theorem and (e : Enc) : Statement (.and e) := of_some rfl rfl
theorem or (e : Enc) : Statement (.or e) := of_some rfl rfl
theorem xor (e : Enc) : Statement (.xor e) := of_some rfl rfl
theorem not (e : Enc) : Statement (.not e) := of_some rfl rfl
theorem andn (e : Enc) : Statement (.andn e) := of_some rfl rfl
theorem shl (e : Enc) : Statement (.shl e) := of_some rfl rfl
theorem shr (e : Enc) : Statement (.shr e) := of_some rfl rfl
theorem sar (e : Enc) : Statement (.sar e) := of_some rfl rfl
theorem bfe (e : Enc) : Statement (.bfe e) := of_some rfl rfl
theorem bfi (e : Enc) : Statement (.bfi e) := of_some rfl rfl
theorem popc (e : Enc) : Statement (.popc e) := of_some rfl rfl
theorem clz (e : Enc) : Statement (.clz e) := of_some rfl rfl
theorem ctz (e : Enc) : Statement (.ctz e) := of_some rfl rfl
theorem brev (e : Enc) : Statement (.brev e) := of_some rfl rfl
theorem bperm (e : Enc) : Statement (.bperm e) := of_some rfl rfl
theorem icmp (e : Enc) : Statement (.icmp e) := of_some rfl rfl
theorem sel (e : Enc) : Statement (.sel e) := of_some rfl rfl
theorem mov (e : Enc) : Statement (.mov e) := of_some rfl rfl
theorem dp4 (e : Enc) : Statement (.dp4 e) := of_some rfl rfl
theorem xset (e : Enc) : Statement (.xset e) := of_some rfl rfl
theorem ldx (e : Enc) : Statement (.ldx e) := of_some rfl rfl
theorem stx (e : Enc) : Statement (.stx e) := of_some rfl rfl
theorem fadd (e : Enc) : Statement (.fadd e) := of_some rfl rfl
theorem fsub (e : Enc) : Statement (.fsub e) := of_some rfl rfl
theorem fmul (e : Enc) : Statement (.fmul e) := of_some rfl rfl
theorem ffma (e : Enc) : Statement (.ffma e) := of_some rfl rfl
theorem fmin (e : Enc) : Statement (.fmin e) := of_some rfl rfl
theorem fmax (e : Enc) : Statement (.fmax e) := of_some rfl rfl
theorem fcmp (e : Enc) : Statement (.fcmp e) := of_some rfl rfl
theorem fclass (e : Enc) : Statement (.fclass e) := of_some rfl rfl
theorem frnd (e : Enc) : Statement (.frnd e) := of_some rfl rfl
theorem fscl (e : Enc) : Statement (.fscl e) := of_some rfl rfl
theorem fexp (e : Enc) : Statement (.fexp e) := of_some rfl rfl
theorem faddp (e : Enc) : Statement (.faddp e) := of_some rfl rfl
theorem fsubp (e : Enc) : Statement (.fsubp e) := of_some rfl rfl
theorem fmulp (e : Enc) : Statement (.fmulp e) := of_some rfl rfl
theorem ffmap (e : Enc) : Statement (.ffmap e) := of_some rfl rfl
theorem fminp (e : Enc) : Statement (.fminp e) := of_some rfl rfl
theorem fmaxp (e : Enc) : Statement (.fmaxp e) := of_some rfl rfl
theorem fcmpp (e : Enc) : Statement (.fcmpp e) := of_some rfl rfl
theorem cvt (e : Enc) : Statement (.cvt e) := of_some rfl rfl
theorem pkmx (e : Enc) : Statement (.pkmx e) := of_some rfl rfl
theorem upmx (e : Enc) : Statement (.upmx e) := of_some rfl rfl
theorem pkq4 (e : Enc) : Statement (.pkq4 e) := of_some rfl rfl
theorem upq4 (e : Enc) : Statement (.upq4 e) := of_some rfl rfl
theorem sfq (e : Enc) : Statement (.sfq e) := of_some rfl rfl
theorem waitk (e : Enc) : Statement (.waitk e) := of_some rfl rfl
theorem shfl (e : Enc) : Statement (.shfl e) := of_some rfl rfl
theorem vote (e : Enc) : Statement (.vote e) := of_some rfl rfl
theorem ballot (e : Enc) : Statement (.ballot e) := of_some rfl rfl
theorem redw (e : Enc) : Statement (.redw e) := of_some rfl rfl
theorem scanw (e : Enc) : Statement (.scanw e) := of_some rfl rfl
theorem matchT (e : Enc) : Statement (.matchT e) := of_some rfl rfl
theorem movs (e : Enc) : Statement (.movs e) := of_some rfl rfl
theorem sadd (e : Enc) : Statement (.sadd e) := of_some rfl rfl
theorem ssub (e : Enc) : Statement (.ssub e) := of_some rfl rfl
theorem smul (e : Enc) : Statement (.smul e) := of_some rfl rfl
theorem smulh (e : Enc) : Statement (.smulh e) := of_some rfl rfl
theorem sand (e : Enc) : Statement (.sand e) := of_some rfl rfl
theorem sor (e : Enc) : Statement (.sor e) := of_some rfl rfl
theorem sxor (e : Enc) : Statement (.sxor e) := of_some rfl rfl
theorem snot (e : Enc) : Statement (.snot e) := of_some rfl rfl
theorem sshl (e : Enc) : Statement (.sshl e) := of_some rfl rfl
theorem sshr (e : Enc) : Statement (.sshr e) := of_some rfl rfl
theorem ssar (e : Enc) : Statement (.ssar e) := of_some rfl rfl
theorem smin (e : Enc) : Statement (.smin e) := of_some rfl rfl
theorem smax (e : Enc) : Statement (.smax e) := of_some rfl rfl
theorem scmp (e : Enc) : Statement (.scmp e) := of_some rfl rfl
theorem ssel (e : Enc) : Statement (.ssel e) := of_some rfl rfl
theorem smov (e : Enc) : Statement (.smov e) := of_some rfl rfl
theorem sbfe (e : Enc) : Statement (.sbfe e) := of_some rfl rfl
theorem spopc (e : Enc) : Statement (.spopc e) := of_some rfl rfl
theorem sclz (e : Enc) : Statement (.sclz e) := of_some rfl rfl
theorem srdl (e : Enc) : Statement (.srdl e) := of_some rfl rfl
theorem pand (e : Enc) : Statement (.pand e) := of_some rfl rfl
theorem por (e : Enc) : Statement (.por e) := of_some rfl rfl
theorem pxor (e : Enc) : Statement (.pxor e) := of_some rfl rfl
theorem pnot (e : Enc) : Statement (.pnot e) := of_some rfl rfl
theorem pmov (e : Enc) : Statement (.pmov e) := of_some rfl rfl
theorem segw (e : Enc) : Statement (.segw e) := of_some rfl rfl
theorem actm (e : Enc) : Statement (.actm e) := of_some rfl rfl
theorem bra (e : Enc) : Statement (.bra e) := of_some rfl rfl
theorem brc (e : Enc) : Statement (.brc e) := of_some rfl rfl
theorem brx (e : Enc) : Statement (.brx e) := of_some rfl rfl
theorem join (e : Enc) : Statement (.join e) := of_some rfl rfl
theorem call (e : Enc) : Statement (.call e) := of_some rfl rfl
theorem callx (e : Enc) : Statement (.callx e) := of_some rfl rfl
theorem ret (e : Enc) : Statement (.ret e) := of_some rfl rfl
theorem exit (e : Enc) : Statement (.exit e) := of_some rfl rfl
theorem yield (e : Enc) : Statement (.yield e) := of_some rfl rfl
theorem loop (e : Enc) : Statement (.loop e) := of_some rfl rfl
theorem trap (e : Enc) : Statement (.trap e) := of_some rfl rfl
theorem eret (e : Enc) : Statement (.eret e) := of_some rfl rfl
theorem bkpt (e : Enc) : Statement (.bkpt e) := of_some rfl rfl
theorem csrrd (e : Enc) : Statement (.csrrd e) := of_some rfl rfl
theorem csrwr (e : Enc) : Statement (.csrwr e) := of_some rfl rfl
theorem halt (e : Enc) : Statement (.halt e) := of_some rfl rfl
theorem ld (e : Enc) : Statement (.ld e) := of_some rfl rfl
theorem st (e : Enc) : Statement (.st e) := of_some rfl rfl
theorem ldfe (e : Enc) : Statement (.ldfe e) := of_some rfl rfl
theorem stfe (e : Enc) : Statement (.stfe e) := of_some rfl rfl
theorem stn4 (e : Enc) : Statement (.stn4 e) := of_some rfl rfl
theorem atom (e : Enc) : Statement (.atom e) := of_some rfl rfl
theorem red (e : Enc) : Statement (.red e) := of_some rfl rfl
theorem pref (e : Enc) : Statement (.pref e) := of_some rfl rfl
theorem cinv (e : Enc) : Statement (.cinv e) := of_some rfl rfl
theorem cwb (e : Enc) : Statement (.cwb e) := of_some rfl rfl
theorem fence (e : Enc) : Statement (.fence e) := of_some rfl rfl
theorem fencesc (e : Enc) : Statement (.fencesc e) := of_some rfl rfl
theorem sld (e : Enc) : Statement (.sld e) := of_some rfl rfl
theorem sst (e : Enc) : Statement (.sst e) := of_some rfl rfl
theorem cpy (e : Enc) : Statement (.cpy e) := of_some rfl rfl
theorem cpyq (e : Enc) : Statement (.cpyq e) := of_some rfl rfl
theorem gath (e : Enc) : Statement (.gath e) := of_some rfl rfl
theorem tlwait (e : Enc) : Statement (.tlwait e) := of_some rfl rfl
theorem tlrd (e : Enc) : Statement (.tlrd e) := of_some rfl rfl
theorem xlate (e : Enc) : Statement (.xlate e) := of_some rfl rfl
theorem phint (e : Enc) : Statement (.phint e) := of_some rfl rfl
theorem twflush (e : Enc) : Statement (.twflush e) := of_some rfl rfl
theorem acq (e : Enc) : Statement (.acq e) := of_some rfl rfl
theorem grel (e : Enc) : Statement (.grel e) := of_some rfl rfl
theorem binit (e : Enc) : Statement (.binit e) := of_some rfl rfl
theorem barv (e : Enc) : Statement (.barv e) := of_some rfl rfl
theorem bwait (e : Enc) : Statement (.bwait e) := of_some rfl rfl
theorem barw (e : Enc) : Statement (.barw e) := of_some rfl rfl
theorem bxpct (e : Enc) : Statement (.bxpct e) := of_some rfl rfl
theorem btest (e : Enc) : Statement (.btest e) := of_some rfl rfl
theorem bdl (e : Enc) : Statement (.bdl e) := of_some rfl rfl
theorem tnow (e : Enc) : Statement (.tnow e) := of_some rfl rfl
theorem twait (e : Enc) : Statement (.twait e) := of_some rfl rfl
theorem setdl (e : Enc) : Statement (.setdl e) := of_some rfl rfl
theorem dlget (e : Enc) : Statement (.dlget e) := of_some rfl rfl
theorem mpost (e : Enc) : Statement (.mpost e) := of_some rfl rfl
theorem aclr (e : Enc) : Statement (.aclr e) := of_some rfl rfl
theorem acld (e : Enc) : Statement (.acld e) := of_some rfl rfl
theorem acst (e : Enc) : Statement (.acst e) := of_some rfl rfl
theorem mstat (e : Enc) : Statement (.mstat e) := of_some rfl rfl
theorem mcncl (e : Enc) : Statement (.mcncl e) := of_some rfl rfl
theorem seedscan (e : Enc) : Statement (.seedscan e) := of_some rfl rfl
theorem seedgen (e : Enc) : Statement (.seedgen e) := of_some rfl rfl
theorem rsvi (e : Enc) : Statement (.rsvi e) := of_some rfl rfl
theorem rsvu (e : Enc) : Statement (.rsvu e) := of_some rfl rfl
theorem rsvm (e : Enc) : Statement (.rsvm e) := of_some rfl rfl
theorem rsvf (e : Enc) : Statement (.rsvf e) := of_some rfl rfl
theorem rsvget (e : Enc) : Statement (.rsvget e) := of_some rfl rfl
theorem rsvset (e : Enc) : Statement (.rsvset e) := of_some rfl rfl
theorem trace (e : Enc) : Statement (.trace e) := of_some rfl rfl
theorem beam (e : Enc) : Statement (.beam e) := of_some rfl rfl
theorem hitld (e : Enc) : Statement (.hitld e) := of_some rfl rfl
theorem pxl (e : Enc) : Statement (.pxl e) := of_some rfl rfl
theorem pxs (e : Enc) : Statement (.pxs e) := of_some rfl rfl
theorem frmacq (e : Enc) : Statement (.frmacq e) := of_some rfl rfl
theorem fpres (e : Enc) : Statement (.fpres e) := of_some rfl rfl
theorem frmst (e : Enc) : Statement (.frmst e) := of_some rfl rfl
theorem qpost (e : Enc) : Statement (.qpost e) := of_some rfl rfl
theorem qwait (e : Enc) : Statement (.qwait e) := of_some rfl rfl
theorem qstat (e : Enc) : Statement (.qstat e) := of_some rfl rfl
theorem kstat (e : Enc) : Statement (.kstat e) := of_some rfl rfl
theorem rwr (e : Enc) : Statement (.rwr e) := of_some rfl rfl
theorem rrd (e : Enc) : Statement (.rrd e) := of_some rfl rfl
theorem rwrf (e : Enc) : Statement (.rwrf e) := of_some rfl rfl
theorem ratm (e : Enc) : Statement (.ratm e) := of_some rfl rfl
theorem lred (e : Enc) : Statement (.lred e) := of_some rfl rfl
theorem rdva (e : Enc) : Statement (.rdva e) := of_some rfl rfl
theorem rdvw (e : Enc) : Statement (.rdvw e) := of_some rfl rfl
theorem lstat (e : Enc) : Statement (.lstat e) := of_some rfl rfl
theorem unassignedOpcode (op : BitVec 8) (len : BitVec 2) : Statement (.unassignedOpcode op len) := of_none rfl
theorem homeSlicePerform (seq : Nat) : Statement (.homeSlicePerform seq) := of_none rfl
theorem loadReturn (w seq : Nat) (threads : Word) : Statement (.loadReturn w seq threads) := of_none rfl
theorem sfqRequestComplete (w seq thread : Nat) : Statement (.sfqRequestComplete w seq thread) := of_none rfl
theorem ldfeServe (w sp : Nat) : Statement (.ldfeServe w sp) := of_none rfl
theorem scDrainDone (w sp : Nat) : Statement (.scDrainDone w sp) := of_none rfl
theorem deviceHeartbeatTick : Statement .deviceHeartbeatTick := of_none rfl
theorem ptTick : Statement .ptTick := of_none rfl
theorem twaitRelease (w sp : Nat) : Statement (.twaitRelease w sp) := of_none rfl
theorem gathReturn (w seq : Nat) : Statement (.gathReturn w seq) := of_none rfl
theorem copyOperationComplete (op : Nat) : Statement (.copyOperationComplete op) := of_none rfl
theorem regwinHeldWrite (op : Nat) : Statement (.regwinHeldWrite op) := of_none rfl
theorem barrierDeadline (g b : Nat) : Statement (.barrierDeadline g b) := of_none rfl
theorem faultRecordDeferred (slot : Nat) : Statement (.faultRecordDeferred slot) := of_none rfl
theorem priRequestRelease : Statement .priRequestRelease := of_none rfl
theorem invalidationComplete (id : Nat) : Statement (.invalidationComplete id) := of_none rfl
theorem convoyReserve (part : Nat) : Statement (.convoyReserve part) := of_none rfl
theorem acqGrant (core : Nat) : Statement (.acqGrant core) := of_none rfl
theorem grelComplete (w sp : Nat) : Statement (.grelComplete w sp) := of_none rfl
theorem convoyRetire (c : Nat) : Statement (.convoyRetire c) := of_none rfl
theorem parameterRead (k : Nat) : Statement (.parameterRead k) := of_none rfl
theorem kernelFinish (k : Nat) : Statement (.kernelFinish k) := of_none rfl
theorem packetDispatch (q : Nat) : Statement (.packetDispatch q) := of_none rfl
theorem packetLaunch (q index : Nat) : Statement (.packetLaunch q index) := of_none rfl
theorem packetCopy (q index : Nat) : Statement (.packetCopy q index) := of_none rfl
theorem copyPacketComplete (op : Nat) : Statement (.copyPacketComplete op) := of_none rfl
theorem packetSignal (q index : Nat) : Statement (.packetSignal q index) := of_none rfl
theorem packetWait (q index : Nat) : Statement (.packetWait q index) := of_none rfl
theorem waitConditionMet (q : Nat) : Statement (.waitConditionMet q) := of_none rfl
theorem frameArm (q index : Nat) : Statement (.frameArm q index) := of_none rfl
theorem framePresent (q index : Nat) : Statement (.framePresent q index) := of_none rfl
theorem packetRdv (q index : Nat) : Statement (.packetRdv q index) := of_none rfl
theorem headHeaderTimeout (q : Nat) : Statement (.headHeaderTimeout q) := of_none rfl
theorem queueEvict (q : Nat) : Statement (.queueEvict q) := of_none rfl
theorem queueReload (q : Nat) : Statement (.queueReload q) := of_none rfl
theorem partitionHalted (slot : Nat) : Statement (.partitionHalted slot) := of_none rfl
theorem hamperExchangeComplete (slot : Nat) : Statement (.hamperExchangeComplete slot) := of_none rfl
theorem hamperImageDisplace (slot : Nat) : Statement (.hamperImageDisplace slot) := of_none rfl
theorem rollCallFullServe (cl : Nat) : Statement (.rollCallFullServe cl) := of_none rfl
theorem tileBind (cl : Nat) : Statement (.tileBind cl) := of_none rfl
theorem matrixPass (cl : Nat) : Statement (.matrixPass cl) := of_none rfl
theorem matrixStepComplete (cl : Nat) : Statement (.matrixStepComplete cl) := of_none rfl
theorem matrixClassOwed (cl cls : Nat) : Statement (.matrixClassOwed cl cls) := of_none rfl
theorem matrixOperandAvailable (cl task : Nat) : Statement (.matrixOperandAvailable cl task) := of_none rfl
theorem rayComplete (w seq thread : Nat) : Statement (.rayComplete w seq thread) := of_none rfl
theorem beamComplete (op : Nat) : Statement (.beamComplete op) := of_none rfl
theorem frameDeadline (f : Nat) : Statement (.frameDeadline f) := of_none rfl
theorem framePresentation (f : Nat) : Statement (.framePresentation f) := of_none rfl
theorem rtpPacketTransmit (f : Nat) : Statement (.rtpPacketTransmit f) := of_none rfl
theorem pxlReturn (w seq thread : Nat) : Statement (.pxlReturn w seq thread) := of_none rfl
theorem fpresApply (id : Nat) : Statement (.fpresApply id) := of_none rfl
theorem rdvGuard (r : Nat) : Statement (.rdvGuard r) := of_none rfl
theorem rdvHalfGuard (r : Nat) : Statement (.rdvHalfGuard r) := of_none rfl
theorem rdvInstant (r : Nat) (doff : Int) : Statement (.rdvInstant r doff) := of_none rfl
theorem rdvRecordDeadline (r : Nat) : Statement (.rdvRecordDeadline r) := of_none rfl
theorem backwardStep : Statement .backwardStep := of_none rfl
theorem sectorOwedIssue (core sector cls : Nat) : Statement (.sectorOwedIssue core sector cls) := of_none rfl
theorem rotationLimit (w sp : Nat) : Statement (.rotationLimit w sp) := of_none rfl
theorem waveFree (w : Nat) : Statement (.waveFree w) := of_none rfl
theorem contextPreempt (slot : Nat) : Statement (.contextPreempt slot) := of_none rfl
theorem queueDoorbell (q index : Nat) : Statement (.queueDoorbell q index) := of_none rfl
theorem migrationCommit (slot va : Nat) : Statement (.migrationCommit slot va) := of_none rfl
theorem ptpAnnounce (port : Nat) (selected : Bool) : Statement (.ptpAnnounce port selected) := of_none rfl
theorem onePpsEdge : Statement .onePpsEdge := of_none rfl
theorem syncMeasurement (offset : Int) : Statement (.syncMeasurement offset) := of_none rfl
theorem announceTimeout : Statement .announceTimeout := of_none rfl
theorem ptsetWrite (v : DWord) : Statement (.ptsetWrite v) := of_none rfl
theorem ptpenWrite (v : DWord) : Statement (.ptpenWrite v) := of_none rfl
theorem faultResponseRetry (slot seq : Nat) : Statement (.faultResponseRetry slot seq) := of_none rfl
theorem faultResponseFail (slot seq : Nat) : Statement (.faultResponseFail slot seq) := of_none rfl
theorem atsTranslationCompletion (slot va : Nat) (ans : AtsAnswer) : Statement (.atsTranslationCompletion slot va ans) := of_none rfl
theorem prgResponseSuccess (slot va : Nat) : Statement (.prgResponseSuccess slot va) := of_none rfl
theorem prgResponseInvalidRequest (slot va : Nat) : Statement (.prgResponseInvalidRequest slot va) := of_none rfl
theorem prgResponseFailure (slot va : Nat) : Statement (.prgResponseFailure slot va) := of_none rfl
theorem priReenable (alloc : Nat) : Statement (.priReenable alloc) := of_none rfl
theorem atsInvalidateRequest (slot va len : Nat) : Statement (.atsInvalidateRequest slot va len) := of_none rfl
theorem invalidationStart (slot : Nat) : Statement (.invalidationStart slot) := of_none rfl
theorem migrationStart (slot va frame : Nat) : Statement (.migrationStart slot va frame) := of_none rfl
theorem placementEpoch (pool : Nat) : Statement (.placementEpoch pool) := of_none rfl
theorem queueResume (q index : Nat) : Statement (.queueResume q index) := of_none rfl
theorem queueDisable (q : Nat) : Statement (.queueDisable q) := of_none rfl
theorem queueBind (v : DWord) : Statement (.queueBind v) := of_none rfl
theorem queueUnbind (v : DWord) : Statement (.queueUnbind v) := of_none rfl
theorem contextLoad (slot : Nat) : Statement (.contextLoad slot) := of_none rfl
theorem contextRun (slot : Nat) : Statement (.contextRun slot) := of_none rfl
theorem contextSwapout (slot : Nat) : Statement (.contextSwapout slot) := of_none rfl
theorem contextResume (slot : Nat) : Statement (.contextResume slot) := of_none rfl
theorem contextSwitch (slot b : Nat) : Statement (.contextSwitch slot b) := of_none rfl
theorem contextTerminate (slot : Nat) : Statement (.contextTerminate slot) := of_none rfl
theorem contextUnload (slot : Nat) : Statement (.contextUnload slot) := of_none rfl
theorem rtpPacketReceive (flow : Nat) (pkt : RtpPacket) : Statement (.rtpPacketReceive flow pkt) := of_none rfl
theorem flowEnable (flow : Nat) (v : Word) : Statement (.flowEnable flow v) := of_none rfl
theorem flowDisable (flow : Nat) (v : Word) : Statement (.flowDisable flow v) := of_none rfl
theorem linkEnable (l : Nat) : Statement (.linkEnable l) := of_none rfl
theorem linkDrain (l : Nat) : Statement (.linkDrain l) := of_none rfl
theorem linkReset (l : Nat) : Statement (.linkReset l) := of_none rfl
theorem linkHandshake (l : Nat) (ans : LinkAnswer) : Statement (.linkHandshake l ans) := of_none rfl
theorem linkDegrade (l : Nat) : Statement (.linkDegrade l) := of_none rfl
theorem linkRecover (l : Nat) : Statement (.linkRecover l) := of_none rfl
theorem portDown (p : Nat) : Statement (.portDown p) := of_none rfl
theorem nraRetransmit (l seq : Nat) : Statement (.nraRetransmit l seq) := of_none rfl
theorem nraOperationReceive (l : Nat) (op : NraOp) : Statement (.nraOperationReceive l op) := of_none rfl
theorem nraAck (l seq : Nat) : Statement (.nraAck l seq) := of_none rfl
theorem nraReceiverNotReady (l seq : Nat) : Statement (.nraReceiverNotReady l seq) := of_none rfl
theorem nraFinalNack (l seq : Nat) : Statement (.nraFinalNack l seq) := of_none rfl
theorem nraReadResponse (l seq : Nat) (data : List DWord) : Statement (.nraReadResponse l seq data) := of_none rfl
theorem rdvReadyMessage (r inst member : Nat) : Statement (.rdvReadyMessage r inst member) := of_none rfl
theorem rdvReport (r inst member : Nat) (rep : RdvReport) : Statement (.rdvReport r inst member rep) := of_none rfl
theorem rdvDetach (slot va : Nat) : Statement (.rdvDetach slot va) := of_none rfl
theorem partnWrite (v : DWord) : Statement (.partnWrite v) := of_none rfl
theorem pwrcapWrite (v : DWord) : Statement (.pwrcapWrite v) := of_none rfl
theorem clockAdjust (mhz : Nat) : Statement (.clockAdjust mhz) := of_none rfl
theorem stglenWrite (v : DWord) : Statement (.stglenWrite v) := of_none rfl
theorem bclrWrite (v : DWord) : Statement (.bclrWrite v) := of_none rfl
theorem attnWrite (v : DWord) : Statement (.attnWrite v) := of_none rfl
theorem rwdataRead (slot size : Nat) : Statement (.rwdataRead slot size) := of_none rfl
theorem rwdataWrite (slot size : Nat) (v : DWord) : Statement (.rwdataWrite slot size v) := of_none rfl
theorem apertureRead (off size : Nat) : Statement (.apertureRead off size) := of_none rfl
theorem apertureWrite (off size : Nat) (v : DWord) : Statement (.apertureWrite off size v) := of_none rfl
theorem registerWrite (off size : Nat) (v : DWord) : Statement (.registerWrite off size v) := of_none rfl
theorem powerUp (outcomes : List StepOutcome) : Statement (.powerUp outcomes) := of_none rfl
theorem d3hotEntry : Statement .d3hotEntry := of_none rfl
theorem d0Return : Statement .d0Return := of_none rfl
theorem powerLoss : Statement .powerLoss := of_none rfl
theorem portUp (p : Nat) : Statement (.portUp p) := of_none rfl
theorem attestationReportReady (answer : DWord) : Statement (.attestationReportReady answer) := of_none rfl
theorem imageVerificationDone (pass : Bool) : Statement (.imageVerificationDone pass) := of_none rfl

end Sys2Proof.Laws.PartsRoundTrip
end

