-- ==== Sys2Proof/Tests/Slice0.lean ====
section
/-! SUPPORT. Named tests: words of the spec that decode, terms that `WellFormed` refuses, single steps, and for every statement
states and operands that meet its hypotheses. -/

open Sys2Proof Sys2Proof.Machine

namespace Sys2Proof.Tests

set_option Elab.async false

/-! ### Decoding: words written out from the spec's worked encodings -/

/-- The opcode and fields that words decode to. -/
def fieldsAt (ws : List Word) : Option (Op × Enc) :=
  match decodeWords ws with
  | .ok i => i.parts
  | .error _ => none

/-- Opcode, the numbers `D`, `A`, `B`, `C` and the kinds of the sources. -/
def shape (ws : List Word) : Option (Op × List Nat × List Kind) :=
  (fieldsAt ws).map fun x => (x.1, [x.2.d.toNat, x.2.a.toNat, x.2.b.toNat, x.2.c.toNat], [x.2.ak, x.2.bk, x.2.ck])

/-- What the decoder refuses words for. -/
def refusal (ws : List Word) : Option DecodeErr := match decodeWords ws with | .ok _ => none | .error r => some r

/-- `IADD v5, v1, v2` and `IADD.s64 v6, v2, 0x1_0000_0000` (02). -/
theorem test_decode_iadd : shape [0x04041404] = some (.iadd, [5, 1, 2, 0], [.vec, .vec, .vec]) := by decide
theorem test_decode_iadd_literal : (fieldsAt [0x04081805, 0, 1]).map (fun x => (x.1, x.2.d.toNat, x.2.a.toNat, x.2.ty.toNat, x.2.lit)) =
    some (.iadd, 6, 2, 2, 0x100000000) := by decide
/-- `(!p2) FFMA.rz v8|b1, v3, s7, v9` (02). -/
theorem test_decode_ffma : shape [0x0E0C208E, 0x206A0908, 0] = some (.ffma, [8, 3, 7, 9], [.vec, .sca, .vec]) := by decide
theorem test_decode_ffma_fields : (fieldsAt [0x0E0C208E, 0x206A0908, 0]).map (fun x => (x.2.rnd, x.2.le, x.2.ld.toNat, x.2.pg.toNat, x.2.pn)) =
    some (.tz, true, 1, 2, true) := by decide
/-- `BRC p0` and `BRA` (06). -/
theorem test_decode_brc : (fieldsAt [0x001405C4]).map (·.1) = some .brc := by decide
theorem test_decode_bra : (fieldsAt [0x000011C0]).map (·.1) = some .bra := by decide
/-- `CVT.f16.f32 v4, v1, v2` (07). -/
theorem test_decode_cvt : shape [0x040410CA, 0x18070000, 1] = some (.cvt, [4, 1, 2, 0], [.vec, .vec, .vec]) := by decide
/-- `SHFL` (23). -/
theorem test_decode_shfl : (fieldsAt [0x34080D02, 0x03070708, 0]).map (fun x => (x.1, x.2.opx.toNat)) = some (.shfl, 3) := by decide
/-- `SSEL s56, s57, s56, p1` and `SLD.s64 s42, s16, 8` (24, 25; log 82). -/
theorem test_decode_ssel : shape [0x70E4E17A, 0x00070109, 0] = some (.ssel, [56, 57, 56, 1], [.sca, .sca, .vec]) := by decide
theorem test_decode_sld : (fieldsAt [0x0040AA32, 0x00070019, 0x00020002]).map (fun x => (x.1, x.2.d.toNat, x.2.a.toNat, x.2.imm.toNat)) =
    some (.sld, 42, 16, 8) := by decide
/-- `QSTAT` (24), `(p1) ST.glb v2, v6, s48` (25). -/
theorem test_decode_qstat : (fieldsAt [0x2C00A36A, 0x01070008, 0]).map (fun x => (x.1, x.2.opx.toNat, x.2.b.toNat)) =
    some (.qstat, 1, 22) := by decide
theorem test_decode_st : shape [0x0C080206, 0x00013040, 0] = some (.st, [0, 2, 6, 48], [.vec, .vec, .sca]) := by decide
/-- `SETDL` and `TNOW s10` (05), `XLATE` (10), `TRAP` and `ERET` (15), `RSVM q1, q0, v4, v6` (18), `RWRF` (21). -/
theorem test_decode_setdl : (fieldsAt [0x001002AE, 0x02070001, 0]).map (fun x => (x.1, x.2.a.toNat, x.2.opx.toNat)) =
    some (.setdl, 4, 2) := by decide
theorem test_decode_tnow : (fieldsAt [0x00002AA4]).map (fun x => (x.1, x.2.d.toNat)) = some (.tnow, 10) := by decide
theorem test_decode_xlate : (fieldsAt [0x0020524E, 0x00070019, 0]).map (·.1) = some .xlate := by decide
theorem test_decode_trap : (fieldsAt [0x048C01E8]).map (·.1) = some .trap := by decide
theorem test_decode_eret : (fieldsAt [0x000001EC]).map (·.1) = some .eret := by decide
theorem test_decode_rsvm : shape [0x0800070A, 0x00070600, 0] = some (.rsvm, [1, 0, 4, 6], [.vec, .vec, .vec]) := by decide
theorem test_decode_rwrf : (fieldsAt [0x0C10038A, 0x00070000, 0x00000540]).map (·.1) = some .rwrf := by decide
/-- 0x39 is unassigned (R58); a stream that ends early decodes to nothing; base form is not for `FFMA` (R17). -/
theorem test_decode_unassigned : (decodeWords [0xE6, 0, 0]).toOption = some (.unassignedOpcode 0x39 2) := by decide
theorem test_decode_truncated : refusal [0x04081805, 0] = some .truncated := by decide
theorem test_decode_base_ffma : refusal [0x0E0C208C] = some .badLen := by decide
theorem test_decode_reserved_rnd : refusal [0x0E0C208E, 0xA06A0908, 0] = some .badRnd := by decide
theorem test_encode_ffma : (fieldsAt [0x0E0C208E, 0x206A0908, 0]).map (fun x => encode (Instr.ofOp x.2 x.1)) =
    some [0x0E0C208E, 0x206A0908, 0] := by decide

/-! ### Terms that `WellFormed` refuses -/

/-- An extended instruction without operands. -/
def e0 : Enc :=
  { form := .extended, d := 0, a := 0, ak := .vec, b := 0, bk := .vec, c := 0, ck := .vec, ty := 0, rnd := .ne, sat := false,
    opx := 0, mod := 0, le := false, ld := 0, nw := false, pg := 7, pn := false, imm := 0, lit := 0, p0 := 0, p1 := 0, p2 := 0,
    p3 := 0 }

theorem test_wf_iadd : WellFormed (.iadd e0) = true := by decide
theorem test_wf_form : encErr .iadd { e0 with form := .block } = some .badLen := by decide
theorem test_wf_type : encErr .iadd { e0 with ty := 15 } = some .badType := by decide
theorem test_wf_rnd : encErr .iadd { e0 with rnd := .tz } = some .badRnd := by decide
theorem test_wf_sat : encErr .imulh { e0 with sat := true } = some .badSat := by decide
theorem test_wf_opx : encErr .iadd { e0 with opx := 1 } = some .badOpx := by decide
theorem test_wf_mod : encErr .iadd { e0 with mod := 1 } = some .badMod := by decide
theorem test_wf_kind : encErr .iadd { e0 with ck := .sca } = some .badKind := by decide
theorem test_wf_number : encErr .tnow { e0 with d := 200 } = some .badNumber := by decide
theorem test_wf_pair : encErr .tnow { e0 with d := 3 } = some .oddPair := by decide
theorem test_wf_latch : encErr .iadd { e0 with nw := true } = some .badLatch := by decide
theorem test_wf_imm : encErr .bra { e0 with imm := 0x20000, a := 1 } ≠ none := by decide
theorem test_wf_field : encErr .rsvget { e0 with d := 2 } = some .badField := by decide
theorem test_wf_base_fields : WellFormed (.iadd { e0 with form := .base, imm := 1 }) = false := by decide
theorem test_wf_block : WellFormed (.iadd { e0 with p0 := 1 }) = false := by decide
theorem test_wf_literal : WellFormed (.iadd { e0 with form := .literal, bk := .imm, lit := 0x100000000 }) = false := by decide
theorem test_wf_unassigned : WellFormed (.unassignedOpcode 1 0) = false := by decide
theorem test_wf_thread : WellFormed (.rayComplete 0 0 32) = false := by decide
theorem test_wf_class : WellFormed (.matrixClassOwed 0 4) = false := by decide
theorem test_wf_size : WellFormed (.rwdataRead 0 3) = false := by decide

/-! ### States and operands that meet the hypotheses of the statements

`s0` is `State.reset` with a placed instruction: one wave of 32 threads issues, in supervisor mode, with a handler and one mapped
page; the witnesses change what they need. -/

def s0 : State := State.reset.withFetchWord 32 0

/-- The issuing wave and split. -/
def iss (s : State) : Wave × Split := (issuer s).getD (placeWave 0, freshSplit 0 0 0)

/-- `Issues` as a test, with an empty stack. -/
def ready (s : State) (op : Op) (e : Enc) : Bool :=
  (issuer s).isSome && (earlyTrap s (issueOf op e (iss s).1 (iss s).2)).isNone &&
  (scoreHeld (issueOf op e (iss s).1 (iss s).2) (iss s).1).isEmpty && (copyHeld (issueOf op e (iss s).1 (iss s).2) (iss s).1).isEmpty &&
  !eccBad (issueOf op e (iss s).1 (iss s).2) && (iss s).2.stack.isEmpty

theorem issuer_iss {s : State} (h : (issuer s).isSome = true) : issuer s = some ((iss s).1, (iss s).2) := by
  unfold iss
  cases hi : issuer s with
  | none => simp [hi] at h
  | some x => simp

theorem issues_of_ready {s : State} {op : Op} {e : Enc} (h : ready s op e = true) :
    Issues s op e (iss s).1 (iss s).2 ∧ NoJoin e (iss s).2 := by
  simp only [ready, Bool.and_eq_true, Bool.not_eq_true', List.isEmpty_iff, Option.isNone_iff_eq_none] at h
  obtain ⟨⟨⟨⟨⟨h1, h2⟩, h3⟩, h4⟩, he⟩, h5⟩ := h
  refine ⟨⟨issuer_iss h1, h2, h3, h4, he⟩, ?_⟩
  simp [NoJoin, h5]

/-- Some split issues the opcode, and its state and operands meet `P`. -/
def Meets (op : Op) (P : State → Enc → Wave → Split → Prop) : Prop :=
  ∃ s e w sp, Issues s op e w sp ∧ NoJoin e sp ∧ P s e w sp

theorem meets {op : Op} {P : State → Enc → Wave → Split → Prop} (s : State) (e : Enc) (h : ready s op e = true)
    (p : P s e (iss s).1 (iss s).2) : Meets op P :=
  ⟨s, e, _, _, (issues_of_ready h).1, (issues_of_ready h).2, p⟩

/-- Nothing more is asked. -/
def Any : State → Enc → Wave → Split → Prop := fun _ _ _ _ => True

/-- Changes of the issuing wave, its split, scalar registers, and a vector register of thread 0. -/
def onWave (f : Wave → Wave) (s : State) : State := s.modWave 0 f
def onSplit (f : Split → Split) (s : State) : State := s.modSplit 0 0 f
def withS (l : List (Nat × Word)) (s : State) : State := onSplit (fun p => { p with s := l.foldl (fun m x => sset 0 m x.1 x.2) p.s }) s
def withV (r : Nat) (v : Word) (s : State) : State := onWave (fun w => w.setV r 0 v) s

/-- Extended forms with registers `D`, `A`, `B` and `C`. -/
def vA : Enc := { e0 with d := 8, a := 16 }
def vAB : Enc := { e0 with d := 8, a := 16, b := 24 }
def vABC : Enc := { e0 with d := 8, a := 16, b := 24, c := 32 }
def sA : Enc := { e0 with d := 8, a := 16, ak := .sca }
def sAB : Enc := { sA with b := 24, bk := .sca }
def sB : Enc := { e0 with d := 8, b := 24, bk := .sca }

/-- A plain form of each opcode that this table names. -/
def plain : Op → Enc
  | .iabs | .ineg | .not | .popc | .clz | .ctz | .brev | .fclass | .frnd | .fexp | .cvt | .redw | .scanw | .matchT | .sfq | .pxl => vA
  | .imad | .bfi | .bperm | .ffma => vABC
  | .dp4 => { vABC with ty := 6 }
  | .faddp | .fsubp | .fmulp | .fminp | .fmaxp | .fcmpp => { vAB with ty := 1 }
  | .ffmap => { vABC with ty := 1 }
  | .mov | .ldx => { e0 with d := 8, b := 24 }
  | .movs | .rsvf | .rsvget | .ballot | .actm | .tnow | .dlget | .frmst | .loop | .call | .aclr => { e0 with d := 8 }
  | .icmp | .fcmp | .stx | .xset | .stn4 | .red | .pref | .cinv | .cwb | .pxs => { vAB with d := 0 }
  | .vote | .pand | .por | .pxor | .pnot | .pmov | .waitk | .rsvi | .nop | .bra | .join | .exit | .yield | .trap | .eret | .bkpt
  | .halt | .acq | .fpres => e0
  | .csrrd => { e0 with d := 8, a := 16 }
  | .csrwr => { e0 with d := 8, a := 0x60 }
  | .snot | .spopc | .sclz | .callx => sA
  | .segw | .brx | .ret | .twait | .setdl => { sA with d := 0 }
  | .srdl => { e0 with d := 8, a := 16, b := 24, bk := .sca }
  | .sadd | .ssub | .smul | .smulh | .sand | .sor | .sxor | .sshl | .sshr | .ssar | .smin | .smax | .ssel | .sbfe | .sld
  | .xlate => sAB
  | .scmp | .sst | .tlwait | .twflush | .grel | .qwait | .rdva => { sAB with d := 0 }
  | .smov | .tlrd | .acld | .mstat | .qstat | .kstat | .lstat | .frmacq => sB
  | .acst | .mcncl => { sB with d := 0 }
  | .rsvu => { vABC with d := 0 }
  | .rsvm => { e0 with b := 24, c := 32 }
  | .rsvset => { e0 with a := 16 }
  | .phint => { e0 with a := 16 }
  | .trace => { vAB with bk := .sca }
  | .rdvw => { sAB with c := 32, ck := .sca }
  | .brc => vAB
  | .fence => { e0 with mod := 1 }
  | .fencesc => { e0 with mod := 4 }
  | .binit | .bxpct | .btest | .bdl => { sAB with d := 0, mod := 8 }
  | .barv | .bwait | .barw => { sA with d := 0, mod := 8 }
  | .qpost => { sAB with d := 0, mod := 24 }
  | .rwr => { vAB with d := 0, mod := 40 }
  | .rrd => { vA with mod := 40 }
  | .rwrf => { vAB with d := 0, mod := 42 }
  | .ratm => { vAB with mod := 40 }
  | .lred => { sAB with d := 0, c := 32, ck := .sca, mod := 40 }
  | _ => vAB

theorem ready_vector : ∀ op ∈ vectorOps, ready s0 op (plain op) = true := by decide
theorem test_vector : ∀ op ∈ vectorOps, Meets op Any := fun op h => meets s0 (plain op) (ready_vector op h) trivial

/-- With `LE`, and with `LE` and `NW`: the slot of thread 0 in b1 holds the sum, and b1 alone is valid. -/
theorem test_latched : ∀ nw ∈ [false, true], Meets .iadd fun _ e _ _ => e.le = true ∧ e.nw = nw := by
  have h : ∀ nw ∈ [false, true], ready s0 .iadd { vAB with le := true, ld := 1, nw, d := if nw then 0 else 8 } = true := by decide
  exact fun nw hn => meets s0 _ (h nw hn) ⟨rfl, rfl⟩
theorem test_latch_value : ((nextOf (exec (.iadd { vAB with le := true, ld := 1, nw := true, d := 0 }) (withV 24 2 (withV 16 3 s0)))).bind
    fun t => t.wave? 0).map (fun w => (w.latch.valid, latchSlot w.latch 1 0, w.vreg 0 0)) = some (2, 5, 0) := by decide
theorem test_wrapped : ∀ op ∈ [Op.iadd, .isub, .imul, .imulh, .imad, .imin, .imax, .iabs, .ineg],
    Meets op fun _ e _ _ => e.sat = false ∧ e.nw = false := by
  have h : ∀ op ∈ [Op.iadd, .isub, .imul, .imulh, .imad, .imin, .imax, .iabs, .ineg],
    ready s0 op (plain op) = true ∧ (plain op).sat = false ∧ (plain op).nw = false := by decide
  exact fun op hm => meets s0 (plain op) (h op hm).1 (h op hm).2

/-- The largest signed element plus 1 saturates and raises `IS`. -/
def satAdd : State := withV 24 1 (withV 16 0x7FFFFFFF s0)
theorem test_saturated : ∀ op ∈ [Op.iadd, .isub], Meets op fun _ e _ _ => e.sat = true ∧ e.nw = false := by
  have h : ∀ op ∈ [Op.iadd, .isub], ready satAdd op { vAB with sat := true } = true := by decide
  exact fun op hm => meets satAdd { vAB with sat := true } (h op hm) ⟨rfl, rfl⟩
theorem test_saturated_value : ((nextOf (exec (.iadd { vAB with sat := true }) satAdd)).bind fun t => t.wave? 0).map
    (fun w => (w.vreg 8 0, sget 0 w.fp 0)) = some (0x7FFFFFFF, flIS) := by decide

theorem test_float : ∀ op ∈ [Op.fadd, .fsub, .fmul, .ffma, .faddp, .fsubp, .fmulp, .ffmap, .fmin, .fmax, .fminp, .fmaxp, .fcmpp], Meets op Any := by
  have h : ∀ op ∈ [Op.fadd, .fsub, .fmul, .ffma, .faddp, .fsubp, .fmulp, .ffmap, .fmin, .fmax, .fminp, .fmaxp, .fcmpp],
    ready s0 op (plain op) = true := by decide
  exact fun op hm => meets s0 (plain op) (h op hm) trivial
/-- 1 + 2^−24 is a tie, which goes to the even 1 and is inexact (R76). -/
theorem test_fadd_rounds : ((nextOf (exec (.fadd vAB) (withV 24 0x33800000 (withV 16 0x3F800000 s0)))).bind fun t => t.wave? 0).map
    (fun w => (w.vreg 8 0, sget 0 w.fp 0)) = some (0x3F800000, flNX) := by decide +kernel
theorem test_bitwise : ∀ op ∈ [Op.and, .or, .xor, .not, .andn, .mov], Meets op fun _ e _ _ => e.nw = false := by
  have h : ∀ op ∈ [Op.and, .or, .xor, .not, .andn, .mov], ready s0 op (plain op) = true ∧ (plain op).nw = false := by decide
  exact fun op hm => meets s0 (plain op) (h op hm).1 (h op hm).2
theorem test_shifts : ∀ op ∈ [Op.shl, .shr, .sar], Meets op fun _ e _ _ => e.sat = false ∧ e.nw = false := by
  have h : ∀ op ∈ [Op.shl, .shr, .sar], ready s0 op (plain op) = true := by decide
  exact fun op hm => meets s0 (plain op) (h op hm) (by revert op; decide)
/-- The digest of the three bytes "abc", as FIPS 180-4 works it out. -/
theorem test_sha512 : (sha512 3 [(0, 0x61), (1, 0x62), (2, 0x63)]).take 8 = [0xDD, 0xAF, 0x35, 0xA1, 0x93, 0x61, 0x7A, 0xBA] := by
  decide +kernel
/-- EXP2.fast of 128 overflows to +Inf, whatever the implementation's choice (R76, R77, R90, R91). -/
theorem test_exp2_fast_overflow : sfqResult 20 0x43000000 0 = ⟨0x7F800000, flOF ||| flNX⟩ := by decide +kernel
/-- A shift by the whole width gives 0 (R149). -/
theorem test_shift_by_width : ((nextOf (exec (.shl vAB) (withV 24 32 (withV 16 1 s0)))).bind fun t => t.wave? 0).map
    (fun w => w.vreg 8 0) = some 0 := by decide

theorem test_nop : Meets .nop Any := meets s0 e0 (by decide) trivial
theorem test_kinds : ∀ op ∈ integerOps ++ floatOps, ∀ k ∈ [Kind.vec, .sca, .lat, .imm], ∃ i : Issue, i.op = op ∧ i.e.ak = k ∧ i.e.bk = k ∧ i.e.ck = k :=
  fun op _ k _ => ⟨issueOf op { vAB with ak := k, bk := k, ck := k } (iss s0).1 (iss s0).2, rfl, rfl, rfl, rfl⟩
theorem test_kind_latch : ∃ i : Issue, i.e.ak = .lat := ⟨issueOf .iadd { vAB with a := 0, ak := .lat } (iss s0).1 (iss s0).2, rfl⟩
theorem test_guard : ∃ (op : Op) (sp : Split), op ≠ .nop ∧ sp.replay = none := ⟨.iadd, freshSplit 0 0 32, by decide, rfl⟩

theorem test_icmp : Meets .icmp Any := meets s0 (plain .icmp) (by decide) trivial
theorem test_fcmp : Meets .fcmp Any := meets s0 (plain .fcmp) (by decide) trivial
theorem test_predicates : ∀ op ∈ [Op.pand, .por, .pxor, .pnot, .pmov], Meets op Any := by
  have h : ∀ op ∈ [Op.pand, .por, .pxor, .pnot, .pmov], ready s0 op (plain op) = true := by decide
  exact fun op hm => meets s0 (plain op) (h op hm) trivial
theorem test_vote : Meets .vote fun _ e _ sp => e.opx = 2 ∧ 0 < sp.segw := meets s0 { e0 with opx := 2 } (by decide) (by decide)
theorem test_shfl : Meets .shfl fun _ e _ _ => e.nw = false ∧ e.form ≠ .base ∧ e.c.toNat ≠ 7 := meets s0 vAB (by decide) (by decide)

theorem test_scalar : ∀ op ∈ scalarOps, Meets op fun _ e w sp => Enabled op e w sp := by
  have h : ∀ op ∈ scalarOps, ready s0 op (plain op) = true ∧ enabledOf op (plain op) (iss s0).1 (iss s0).2 ≠ 0 := by decide
  exact fun op hm => meets s0 (plain op) (h op hm).1 (h op hm).2
/-- A guard that is false for every thread: `!p7`. -/
theorem test_false_guard :
    ∀ op ∈ scalarOps ++ [Op.ssel, .sbfe, .spopc, .sclz, .srdl, .scmp, .segw, .actm, .csrwr, .halt, .bra, .yield],
    Meets op fun _ e w sp => ¬ Enabled op e w sp := by
  have h : ∀ op ∈ scalarOps ++ [Op.ssel, .sbfe, .spopc, .sclz, .srdl, .scmp, .segw, .actm, .csrwr, .halt, .bra, .yield],
      ready s0 op { plain op with pn := true } = true ∧
      ¬ enabledOf op { plain op with pn := true } (iss s0).1 (iss s0).2 ≠ 0 := by decide
  exact fun op hm => meets s0 { plain op with pn := true } (h op hm).1 (h op hm).2
/-- `JOIN` takes no guard (R132); a split without threads enables none. -/
theorem test_false_join : Meets .join fun _ e w sp => ¬ Enabled .join e w sp :=
  meets (onSplit (fun p => { p with mask := 0 }) s0) e0 (by decide) (by unfold Enabled; decide)
theorem test_scalar_reads : ∀ op ∈ [Op.ssel, .sbfe, .spopc, .sclz, .srdl, .actm, .ballot], Meets op fun _ e w sp => Enabled op e w sp := by
  have h : ∀ op ∈ [Op.ssel, .sbfe, .spopc, .sclz, .srdl, .actm, .ballot],
      ready s0 op (plain op) = true ∧ enabledOf op (plain op) (iss s0).1 (iss s0).2 ≠ 0 := by decide
  exact fun op hm => meets s0 (plain op) (h op hm).1 (h op hm).2
theorem test_scmp : Meets .scmp fun _ e w sp => Enabled .scmp e w sp := meets s0 (plain .scmp) (by decide) (by unfold Enabled; decide)

theorem test_xset : Meets .xset fun _ e w sp => Enabled .xset e w sp := meets s0 (plain .xset) (by decide) (by unfold Enabled; decide)
theorem test_ldx : Meets .ldx fun _ e w sp => (issueOf .ldx e w sp).indexFails = 0 ∧ e.nw = false :=
  meets (onSplit (fun p => { p with x := [(0, 0x0810)] }) s0) (plain .ldx) (by decide) (by decide)
theorem test_stx : Meets .stx fun _ e w sp => (issueOf .stx e w sp).indexFails = 0 :=
  meets (onSplit (fun p => { p with x := [(0, 0x0810)] }) s0) (plain .stx) (by decide) (by decide)
/-- An index at the length of the array fails. -/
theorem test_index_fails : ∀ op ∈ [Op.ldx, .stx], Meets op fun _ e w sp => (issueOf op e w sp).indexFails ≠ 0 := by
  have h : ∀ op ∈ [Op.ldx, .stx], ready (withV 24 8 (onSplit (fun p => { p with x := [(0, 0x0810)] }) s0)) op (plain op) = true ∧
    (issueOf op (plain op) (iss (withV 24 8 (onSplit (fun p => { p with x := [(0, 0x0810)] }) s0))).1
      (iss (withV 24 8 (onSplit (fun p => { p with x := [(0, 0x0810)] }) s0))).2).indexFails ≠ 0 := by decide
  exact fun op hm => meets _ (plain op) (h op hm).1 (h op hm).2
theorem test_segw : Meets .segw fun _ e w sp => Enabled .segw e w sp ∧ segwOk ((issueOf .segw e w sp).sA false) = true :=
  meets (withS [(16, 8)] s0) (plain .segw) (by decide) ⟨by unfold Enabled; decide, by decide⟩
theorem test_segw_illegal : Meets .segw fun _ e w sp => Enabled .segw e w sp ∧ segwOk ((issueOf .segw e w sp).sA false) = false :=
  meets (withS [(16, 3)] s0) (plain .segw) (by decide) ⟨by unfold Enabled; decide, by decide⟩

/-! Control -/

theorem test_transfers : ∀ op ∈ [Op.bra, .brx, .ret, .call, .callx], Meets op fun _ e w sp =>
    Enabled op e w sp ∧ targetBad (controlTarget op (issueOf op e w sp)) = none ∧ w.splits = [sp] ∧ sp.stack = [] := by
  have h : ∀ op ∈ [Op.bra, .brx, .ret, .call, .callx], ready s0 op (plain op) = true ∧ enabledOf op (plain op) (iss s0).1 (iss s0).2 ≠ 0 ∧
    targetBad (controlTarget op (issueOf op (plain op) (iss s0).1 (iss s0).2)) = none ∧ (iss s0).1.splits = [(iss s0).2] ∧
    (iss s0).2.stack = [] := by decide
  exact fun op hm => meets s0 (plain op) (h op hm).1 (h op hm).2
/-- Targets of `BRX`: bit 1 set; and 2^57, the first address beyond the virtual space. -/
theorem test_target_align : Meets .brx fun _ e w sp => Enabled .brx e w sp ∧
    (controlTarget .brx (issueOf .brx e w sp)).toNat % 4 ≠ 0 :=
  meets (withS [(16, 2)] s0) (plain .brx) (by decide) ⟨by unfold Enabled; decide, by decide⟩
theorem test_target_space : Meets .brx fun _ e w sp => Enabled .brx e w sp ∧
    (controlTarget .brx (issueOf .brx e w sp)).toNat % 4 = 0 ∧ 2 ^ 57 ≤ (controlTarget .brx (issueOf .brx e w sp)).toNat :=
  meets (withS [(17, 0x02000000)] s0) (plain .brx) (by decide) ⟨by unfold Enabled; decide, by decide, by decide⟩
theorem test_loop_ends : Meets .loop fun _ e w sp => Enabled .loop e w sp ∧ sp.sreg e.d.toNat - 1 = 0 :=
  meets (withS [(8, 1)] s0) (plain .loop) (by decide) ⟨by unfold Enabled; decide, by decide⟩
theorem test_loop_goes_on : Meets .loop fun _ e w sp => Enabled .loop e w sp ∧ sp.sreg e.d.toNat - 1 ≠ 0 ∧
    targetBad (issueOf .loop e w sp).target14 = none ∧ w.splits = [sp] ∧ sp.stack = [] :=
  meets s0 (plain .loop) (by decide) ⟨by unfold Enabled; decide, by decide, by decide, by decide, by decide⟩

/-- `BRC` on p0 with a target 64 words ahead and a join 72 words ahead. -/
def brc : Enc := { e0 with imm := 64, a := 72 }
/-- p0 of the first `n` threads. -/
def withP0 (m : Word) (s : State) : State := onWave (fun w => { w with p := sset 0 w.p 0 m }) s
def brcMeets (f : Word → Prop) (n : Nat := 1) : Prop := Meets .brc fun _ e w sp => Enabled .brc e w sp ∧ (w.splits.map Split.num).Nodup ∧
    w.splits.length = n ∧ (∀ q ∈ w.splits, q.num ≠ sp.num → q.pc ≠ (issueOf .brc e w sp).target14) ∧ targetBad (issueOf .brc e w sp).target14 = none ∧ (issueOf .brc e w sp).target14 ≠ sp.pc + BitVec.ofNat 64 (4 * e.form.words) ∧
    (issueOf .brc e w sp).target14 ≠ (issueOf .brc e w sp).joinAddr ∧ sp.stack = [] ∧
    f (sp.mask &&& (if e.d.getLsbD 3 then ~~~(w.pred (e.d.toNat % 8)) else w.pred (e.d.toNat % 8)))
theorem test_brc_none : brcMeets fun m => m = 0 :=
  meets s0 brc (by decide) ⟨by unfold Enabled; decide, by decide, by decide, by decide, by decide, by decide, by decide, by decide, by decide⟩
theorem test_brc_all : brcMeets fun m => m = 0xFFFFFFFF#32 :=
  meets (withP0 0xFFFFFFFF s0) brc (by decide)
    ⟨by unfold Enabled; decide, by decide, by decide, by decide, by decide, by decide, by decide, by decide, by decide⟩
theorem test_brc_some : brcMeets fun m => m ≠ 0 ∧ m ≠ 0xFFFFFFFF#32 :=
  meets (withP0 1 s0) brc (by decide)
    ⟨by unfold Enabled; decide, by decide, by decide, by decide, by decide, by decide, by decide, by decide, by decide⟩
/-- `n` more splits, which stand elsewhere. -/
def moreSplits (n : Nat) (s : State) : State := onWave (fun w => { w with splits := w.splits ++ (List.range n).map fun k =>
  { freshSplit (0x100400 + BitVec.ofNat 64 (4 * k)) 0x2 32 with num := k + 1 } }) s
/-- With a place for another split, and with four splits. -/
theorem test_brc_three_splits : brcMeets (fun m => m ≠ 0 ∧ m ≠ 0xFFFFFFFF#32) 3 :=
  meets (moreSplits 2 (withP0 1 s0)) brc (by decide)
    ⟨by unfold Enabled; decide, by decide, by decide, by decide, by decide, by decide, by decide, by decide, by decide⟩
theorem test_brc_four_splits : brcMeets (fun m => m ≠ 0 ∧ m ≠ 0xFFFFFFFF#32) 4 :=
  meets (moreSplits 3 (withP0 1 s0)) brc (by decide)
    ⟨by unfold Enabled; decide, by decide, by decide, by decide, by decide, by decide, by decide, by decide, by decide⟩
/-- A split whose entry joins after the next instruction (R120), with the wave's other splits elsewhere. -/
def joining (phase : Nat) (below : List StackEntry) (s : State) : State := onWave (fun w => w.modSplit 0 fun p =>
  { p with stack := { ja := p.pc + BitVec.ofNat 64 (4 * e0.form.words), rest := 0xF0, pc := 0x100200, phase, done := 0xF } :: below }) s
theorem test_nop_joins : ∀ phase ∈ [1, 2], let s := joining phase [] (moreSplits 3 s0)
    issuer s = some (iss s) ∧ (earlyTrap s (issueOf .nop e0 (iss s).1 (iss s).2)).isNone = true ∧
    scoreHeld (issueOf .nop e0 (iss s).1 (iss s).2) (iss s).1 = [] ∧ copyHeld (issueOf .nop e0 (iss s).1 (iss s).2) (iss s).1 = [] ∧
    eccBad (issueOf .nop e0 (iss s).1 (iss s).2) = false ∧ ((iss s).1.splits.map Split.num).Nodup ∧ (iss s).2.stack.length = 1 ∧
    (iss s).2.stack.head?.map (·.ja) = some ((iss s).2.pc + BitVec.ofNat 64 (4 * e0.form.words)) := by decide
/-- A split at its top entry's join, alone or above another entry. -/
def atJoin (phase : Nat) (below : List StackEntry) : Wave :=
  let w := (iss (joining phase below (moreSplits 3 s0))).1
  w.modSplit 0 fun p => { p with pc := p.pc + BitVec.ofNat 64 (4 * e0.form.words) }
def lowerEntries (deep : Bool) : List StackEntry := if deep then [{ ja := 0x100300, rest := 0, pc := 0, phase := 1, done := 0 }] else []
theorem test_boundary : ∀ phase ∈ [1, 2], ∀ deep ∈ [false, true],
    ((atJoin phase (lowerEntries deep)).split? 0).map (fun p => (p.num, p.stack.head?.map (·.ja) == some p.pc, p.stack.head?.map (·.pc))) =
      some (0, true, some 0x100200) ∧
    ((atJoin phase (lowerEntries deep)).split? 0).map (·.stack.tail) = some (lowerEntries deep) ∧
    ((atJoin phase (lowerEntries deep)).splits.map Split.num).Nodup ∧
    ((atJoin phase (lowerEntries deep)).splits.filter fun q => some q.pc == ((atJoin phase (lowerEntries deep)).split? 0).map Split.pc).length = 1 := by
  decide
/-- The parts that the two phases leave. -/
theorem test_boundary_parts : (((atJoin 1 []).boundary 0).split? 0).map (fun p => (p.mask, p.pc, p.stack.length)) = some (0xF0, 0x100200, 1) ∧
    (((atJoin 2 []).boundary 0).split? 0).map (fun p => (p.mask, p.stack.length)) = some (0xFFFFFFFF, 0) := by decide

/-- A wave in its handler, with a trap record of split 0. -/
def trapRec : TrapRec :=
  { cause := .trap, code := 0, len := 1, rpl := false, spl := 0, tpc := 0x100000, tmask := 0xFFFFFFFF, taddr := 0,
    num := false, again := [], ins := none, saved := freshSplit 0x100000 0xFFFFFFFF 32, latch := ⟨[], 0, []⟩ }
def inHandler (s : State) : State := onWave (fun w => { w with trap := some trapRec }) s
theorem test_brc_handler : Meets .brc fun _ e w sp => Enabled .brc e w sp ∧ (w.splits.map Split.num).Nodup ∧
    (∀ q ∈ w.splits, q.num ≠ sp.num → q.pc ≠ (issueOf .brc e w sp).target14) ∧ w.trap.isSome = true ∧
    targetBad (issueOf .brc e w sp).target14 = none ∧ (issueOf .brc e w sp).target14 ≠ (issueOf .brc e w sp).joinAddr ∧ sp.stack = [] ∧
    sp.mask &&& w.pred (e.d.toNat % 8) ≠ 0 ∧ sp.mask &&& w.pred (e.d.toNat % 8) ≠ sp.mask ∧ e.d.getLsbD 3 = false :=
  meets (inHandler (withP0 1 s0)) brc (by decide)
    ⟨by unfold Enabled; decide, by decide, by decide, by decide, by decide, by decide, by decide, by decide, by decide, by decide⟩
theorem test_join : Meets .join fun _ e w sp => Enabled .join e w sp ∧ w.splits = [sp] :=
  meets s0 e0 (by decide) ⟨by unfold Enabled; decide, by decide⟩
/-- A second split that stands elsewhere. -/
def twoSplits : State := onWave (fun w => { w with splits := w.splits ++ [{ freshSplit 0x100100 0x2 32 with num := 1 }] }) s0
theorem test_join_waits : Meets .join fun _ e w sp => Enabled .join e w sp ∧ w.trap = none ∧ (w.splits.map Split.num).Nodup ∧
    (∀ q ∈ w.splits, q.num ≠ sp.num → q.pc ≠ sp.pc) ∧ ∃ q ∈ w.splits, q.num ≠ sp.num ∧ q.st = .ready :=
  meets twoSplits e0 (by decide) ⟨by unfold Enabled; decide, by decide, by decide, by decide, by decide⟩

/-! Traps, returns and control registers -/

theorem test_trap_taken : ∃ (s : State) (w : Wave) (sp : Split), s.wave? w.uid = some w ∧ w.split? sp.num = some sp ∧ w.trap = none ∧ (s.ctx w.ctx).hen = true :=
  ⟨s0, (iss s0).1, (iss s0).2, by decide, by decide, by decide, by decide⟩
/-- Without a handler, and in a handler. -/
def noHandler (s : State) : State := s.modCtx 0 fun c => { c with hen := false }
theorem test_context_faults : ∀ s ∈ [noHandler s0, inHandler s0], ∃ w sp, s.wave? w.uid = some w ∧ w.split? sp.num = some sp ∧
    w.ctx < s.ctxs.length ∧ ((s.ctx w.ctx).hen = false ∨ w.trap.isSome = true) ∧ (s.ctx w.ctx).xsplit = none ∧
    (s.ctx w.ctx).st = .running := by
  have h : ∀ s ∈ [noHandler s0, inHandler s0], s.wave? (iss s).1.uid = some (iss s).1 ∧ (iss s).1.split? (iss s).2.num = some (iss s).2 ∧
    (iss s).1.ctx < s.ctxs.length ∧ ((s.ctx (iss s).1.ctx).hen = false ∨ (iss s).1.trap.isSome = true) ∧
    (s.ctx (iss s).1.ctx).xsplit = none ∧ (s.ctx (iss s).1.ctx).st = .running := by
    intro s hs
    simp only [List.mem_cons, List.not_mem_nil, or_false] at hs
    rcases hs with rfl | rfl <;> decide
  exact fun s hs => ⟨_, _, h s hs⟩
theorem test_trap_instructions : ∀ op ∈ [Op.trap, .bkpt], Meets op fun s e w sp =>
    Enabled op e w sp ∧ w.trap = none ∧ (s.ctx w.ctx).hen = true := by
  have h : ∀ op ∈ [Op.trap, .bkpt], ready s0 op e0 = true ∧ enabledOf op e0 (iss s0).1 (iss s0).2 ≠ 0 ∧ (iss s0).1.trap = none ∧
    (s0.ctx (iss s0).1.ctx).hen = true := by decide
  exact fun op hm => meets s0 e0 (h op hm).1 (h op hm).2
/-- A misencoded instruction is ILLEGAL, a privileged one in user mode is PRIV, one beyond the allotment BOUNDS, one that reads an
invalid latch LATCH. -/
def user (s : State) : State := s.modCtx 0 fun c => { c with ksup := false }
theorem test_early_illegal : ∃ op s e w sp, issuer s = some (w, sp) ∧ earlyTrap s (issueOf op e w sp) = some .illegal ∧ w.trap = none ∧
    (s.ctx w.ctx).hen = true ∧ encErr op e ≠ none :=
  ⟨.iadd, s0, { e0 with ty := 15 }, _, _, issuer_iss (by decide), by decide, by decide, by decide, by decide⟩
theorem test_early_priv : ∃ op ∈ [Op.csrwr, .halt, .twflush], ∃ s e w sp, issuer s = some (w, sp) ∧ encErr op e = none ∧
    (s.ctx w.ctx).ksup = false ∧ w.trap = none ∧ earlyTrap s (issueOf op e w sp) = some .priv :=
  ⟨.halt, by decide, user s0, e0, _, _, issuer_iss (by decide), by decide, by decide, by decide, by decide⟩
theorem test_early_bounds : ∃ op s e w sp, issuer s = some (w, sp) ∧ earlyTrap s (issueOf op e w sp) = some .bounds ∧ w.trap = none :=
  ⟨.iadd, s0, { vAB with d := 192 }, _, _, issuer_iss (by decide), by decide, by decide⟩
theorem test_early_latch : ∃ op s e w sp, issuer s = some (w, sp) ∧ earlyTrap s (issueOf op e w sp) = some .latch ∧ w.trap = none :=
  ⟨.iadd, s0, { vAB with a := 0, ak := .lat }, _, _, issuer_iss (by decide), by decide, by decide⟩
theorem test_priv_encodings : encErr .csrwr (plain .csrwr) = none ∧ encErr .halt e0 = none ∧ encErr .twflush (plain .twflush) = none := by
  decide
theorem test_eret : Meets .eret fun _ e w sp => Enabled .eret e w sp ∧ ∃ r, w.trap = some r ∧ w.split? r.spl ≠ none ∧
    r.saved.num = r.spl ∧ r.saved.stack = [] ∧ r.tpc.toNat % 4 = 0 :=
  meets (inHandler s0) e0 (by decide) ⟨by unfold Enabled; decide, trapRec, by decide, by decide, by decide, by decide, by decide⟩
theorem test_eret_misaligned : Meets .eret fun s e w sp => Enabled .eret e w sp ∧ w.ctx < s.ctxs.length ∧ ∃ r, w.trap = some r ∧ r.tpc.toNat % 4 ≠ 0 :=
  meets (onWave (fun w => { w with trap := some { trapRec with tpc := 0x100002 } }) s0) e0 (by decide)
    ⟨by unfold Enabled; decide, by decide, { trapRec with tpc := 0x100002 }, by decide, by decide⟩
/-- Records that replay, with the accesses of the first issue for a thread that remains, and without; and one with no thread left. -/
def replaying (r : TrapRec) : State := onWave (fun w => { w with trap := some { r with rpl := true } }) s0
theorem test_eret_replays : ∀ r ∈ [{ trapRec with again := [{ thread := 0, va := 0, size := 4, place := .phys 0, data := 0, data2 := 0 }] },
      trapRec, { trapRec with tmask := 0 }], Meets .eret fun _ e w sp => Enabled .eret e w sp ∧
    ∃ q, w.trap = some q ∧ q = { r with rpl := true } ∧ w.split? q.spl ≠ none ∧ q.saved.num = q.spl ∧ q.saved.stack = [] ∧ q.tpc = q.saved.pc ∧
    q.tpc.toNat % 4 = 0 := by
  have h : ∀ r ∈ [{ trapRec with again := [{ thread := 0, va := 0, size := 4, place := .phys 0, data := 0, data2 := 0 }] },
      trapRec, { trapRec with tmask := 0 }], ready (replaying r) .eret e0 = true ∧
      enabledOf .eret e0 (iss (replaying r)).1 (iss (replaying r)).2 ≠ 0 ∧ (iss (replaying r)).1.trap = some { r with rpl := true } ∧
      (iss (replaying r)).1.split? r.spl ≠ none ∧ r.saved.num = r.spl ∧ r.saved.stack = [] ∧ r.tpc = r.saved.pc ∧ r.tpc.toNat % 4 = 0 := by decide
  intro r hr
  obtain ⟨h1, h2, h3, h4⟩ := h r hr
  exact meets _ e0 h1 ⟨h2, _, h3, rfl, h4⟩
/-- `wstat`, `clkst`, `tpc`, `taddr` and `wch0`. -/
def csrEnc (n : Nat) : Enc := { e0 with d := 8, a := BitVec.ofNat 8 n }
theorem test_csrrd : ∀ n ∈ [0x000, 0x010, 0x041, 0x043, 0x050], Meets .csrrd fun _ e w sp => Enabled .csrrd e w sp ∧ e.csr = n := by
  have h : ∀ n ∈ [0x000, 0x010, 0x041, 0x043, 0x050], ready s0 .csrrd (csrEnc n) = true ∧
    enabledOf .csrrd (csrEnc n) (iss s0).1 (iss s0).2 ≠ 0 ∧ (csrEnc n).csr = n := by decide
  exact fun n hn => meets s0 (csrEnc n) (h n hn).1 (h n hn).2
theorem test_csrwr : ∀ n ∈ [0x011, 0x060, 0x041], Meets .csrwr fun _ e w sp => Enabled .csrwr e w sp ∧ e.csr = n ∧ w.trap = none := by
  have h : ∀ n ∈ [0x011, 0x060, 0x041], ready s0 .csrwr (csrEnc n) = true ∧ enabledOf .csrwr (csrEnc n) (iss s0).1 (iss s0).2 ≠ 0 ∧
    (csrEnc n).csr = n ∧ (iss s0).1.trap = none := by decide
  exact fun n hn => meets s0 (csrEnc n) (h n hn).1 (h n hn).2
theorem test_csrwr_handler : Meets .csrwr fun _ e w sp => Enabled .csrwr e w sp ∧ e.csr = 0x041 ∧ w.trap.isSome = true :=
  meets (inHandler s0) (csrEnc 0x041) (by decide) ⟨by unfold Enabled; decide, by decide, by decide⟩
theorem test_exit_some : Meets .exit fun _ e w sp => w.trap = none ∧ w.split? sp.num = some sp ∧
    sp.mask &&& ~~~(enabledOf .exit e w sp) ≠ 0 ∧ enabledOf .exit e w sp ≠ 0 :=
  meets (withP0 1 s0) { e0 with pg := 0 } (by decide) ⟨by decide, by decide, by decide, by decide⟩
/-- A split with a stack entry of either phase, and one beside another. -/
def exiting (phase : Nat) : State := joining phase [] s0
theorem test_exit_stack : ∀ phase ∈ [1, 2], let s := exiting phase; let sp := (iss s).2
    issuer s = some (iss s) ∧ (earlyTrap s (issueOf .exit e0 (iss s).1 sp)).isNone = true ∧
    (scoreHeld (issueOf .exit e0 (iss s).1 sp) (iss s).1).isEmpty = true ∧ (copyHeld (issueOf .exit e0 (iss s).1 sp) (iss s).1).isEmpty = true ∧
    eccBad (issueOf .exit e0 (iss s).1 sp) = false ∧ (iss s).1.trap = none ∧ sp.mask ≠ 0 ∧ enabledOf .exit e0 (iss s).1 sp = sp.mask ∧
    sp.stack.map (·.phase) = [phase] ∧ ((iss s).1.splits.map Split.num).Nodup ∧
    ∀ x ∈ sp.stack, ∀ q ∈ (iss s).1.splits, q.num ≠ sp.num → q.pc ≠ if x.phase = 1 then x.pc else x.ja := by decide
theorem test_exit_beside : Meets .exit fun _ e w sp => w.trap = none ∧ sp.stack = [] ∧ sp.mask ≠ 0 ∧ enabledOf .exit e w sp = sp.mask ∧
    ∃ q ∈ w.splits, q.num ≠ sp.num ∧ q.st = .ready :=
  meets twoSplits e0 (by decide) ⟨by decide, by decide, by decide, by decide, by decide⟩
theorem test_exit_all : Meets .exit fun _ e w sp => w.trap = none ∧ w.splits = [sp] ∧ sp.stack = [] ∧ sp.mask ≠ 0 ∧
    enabledOf .exit e w sp = sp.mask :=
  meets s0 e0 (by decide) ⟨by decide, by decide, by decide, by decide, by decide⟩
theorem test_yield_halt : ∀ op ∈ [Op.yield, .halt], Meets op fun s e w sp => Enabled op e w sp ∧ (s.ctx w.ctx).st = .running ∧
    w.ctx < s.ctxs.length := by
  have h : ∀ op ∈ [Op.yield, .halt], ready s0 op e0 = true ∧ enabledOf op e0 (iss s0).1 (iss s0).2 ≠ 0 ∧
    (s0.ctx (iss s0).1.ctx).st = .running ∧ (iss s0).1.ctx < s0.ctxs.length := by decide
  exact fun op hm => meets s0 e0 (h op hm).1 (h op hm).2

/-! Memory -/

/-- One thread, so that a memory instruction has one access. -/
def oneThread (s : State) : State := onSplit (fun p => { p with mask := 1 }) s

/-- Forms on the scratchpad, relaxed: the address is in v16 or s16, the data in v24 or s24. -/
def memEnc : Op → Enc
  | .ld | .ldfe => { e0 with d := 8, a := 16, bk := .imm, mod := 0x40 }
  | .atom => { e0 with d := 8, a := 16, b := 24, mod := 0x40 }
  | .sld => { e0 with d := 8, a := 16, ak := .sca, bk := .imm, mod := 0x40 }
  | .sst => { e0 with a := 16, ak := .sca, b := 24, bk := .sca, mod := 0x40 }
  | .hitld => { e0 with d := 8, a := 16, bk := .imm, mod := 0x40 }
  | _ => { e0 with a := 16, b := 24, mod := 0x40 }

/-- The accesses that have reached their places, when all have. -/
def oksOf : List Reach → Option (List (Acc × Option Tlb))
  | [] => some []
  | .ok a t :: r => (oksOf r).map ((a, t) :: ·)
  | _ :: _ => none

theorem oksOf_eq (l : List Reach) : ∀ oks, oksOf l = some oks → l = oks.map fun x => Reach.ok x.1 x.2 := by
  induction l with
  | nil => intro oks h; simp [oksOf] at h; simp [← h]
  | cons x r ih =>
    intro oks h
    cases x with
    | ok a t =>
      simp only [oksOf, Option.map_eq_some_iff] at h
      obtain ⟨o, ho, rfl⟩ := h
      simp [← ih o ho]
    | wait _ _ => simp [oksOf] at h
    | bad _ _ => simp [oksOf] at h

/-- `AllReach` as a test, and its accesses. -/
def reached? (s : State) (i : Issue) (ask : MemAsk) (accs : List Acc) : Option (List (Acc × Option Tlb)) :=
  if i.sp.replay.isSome then none
  else match s.group? i.w.group with
  | none => none
  | some g =>
    if (memPre s i g ask accs).isSome then none
    else oksOf (accs.map (reach (askWindow s i ask).2 i g ask (askWindow s i ask).1))

theorem allReach_of {s : State} {i : Issue} {ask : MemAsk} {accs : List Acc} {oks : List (Acc × Option Tlb)}
    (h : reached? s i ask accs = some oks) : AllReach s i ask accs oks := by
  unfold reached? at h
  split at h
  · simp at h
  · rename_i hr
    cases hg : s.group? i.w.group with
    | none => simp [hg] at h
    | some g =>
      simp only [hg] at h
      split at h
      · simp at h
      · rename_i hp
        exact ⟨by simpa using hr, g, hg, by simpa using hp, oksOf_eq _ _ h⟩

/-- Every place is none of a `DET` buffer. -/
def notDet (oks : List (Acc × Option Tlb)) : Bool := oks.all fun x => match x.1.place with | .det .. => false | _ => true

theorem notDet_of {oks : List (Acc × Option Tlb)} (h : notDet oks = true) : ∀ x ∈ oks, ∀ g va pa, x.1.place ≠ .det g va pa := by
  intro x hx g va pa hp
  have := List.all_eq_true.mp h x hx
  simp [hp] at this

def storeOks (op : Op) (s : State) (e : Enc) : Option (List (Acc × Option Tlb)) :=
  let i := issueOf op e (iss s).1 (iss s).2
  let s1 := issued op e s (iss s).1 (iss s).2
  reached? (storeState op i s1) i (storeForm op i s1).1 (storeForm op i s1).2.1

theorem test_stores : ∀ op ∈ [Op.st, .stfe, .stn4, .red, .sst], Meets op fun s e w sp => Enabled op e w sp ∧ e.order ≠ 4 ∧
    ∃ oks, AllReach (storeState op (issueOf op e w sp) (issued op e s w sp)) (issueOf op e w sp)
      (storeForm op (issueOf op e w sp) (issued op e s w sp)).1 (storeForm op (issueOf op e w sp) (issued op e s w sp)).2.1 oks ∧
      (∀ x ∈ oks, ∀ g va pa, x.1.place ≠ .det g va pa) ∧ oks ≠ [] := by
  have h : ∀ op ∈ [Op.st, .stfe, .stn4, .red, .sst], ready (oneThread s0) op (memEnc op) = true ∧
      enabledOf op (memEnc op) (iss (oneThread s0)).1 (iss (oneThread s0)).2 ≠ 0 ∧ (memEnc op).order ≠ 4 ∧
      ((storeOks op (oneThread s0) (memEnc op)).map fun o => notDet o && !o.isEmpty) = some true := by decide
  intro op hm
  obtain ⟨h1, h2, h3, h4⟩ := h op hm
  obtain ⟨o, ho, hn⟩ := Option.map_eq_some_iff.mp h4
  simp only [Bool.and_eq_true, Bool.not_eq_true', List.isEmpty_eq_false_iff] at hn
  exact meets _ _ h1 ⟨h2, h3, o, allReach_of ho, notDet_of hn.1, hn.2⟩

theorem test_scratchpad_reach : ∀ op ∈ [Op.st, .stfe], ∃ (s : State) (i : Issue), i.op = op ∧ i.e.space = 1 ∧ i.sp.replay = none ∧
    ∃ g accs, s.group? i.w.group = some g ∧ accs = stAccs i s.freeDWord.1.toNat ∧
    (∀ t < 32, i.en.getLsbD t = true →
      i.addr i.e.ck i.e.c i.hasC t % szBytes i.e.sz = 0 ∧ i.addr i.e.ck i.e.c i.hasC t + szBytes i.e.sz ≤ g.scratch) ∧
    ∀ a ∈ accs, watchHit (s.ctx i.w.ctx) .write a = false := by
  intro op hm
  refine ⟨s0, issueOf op (memEnc op) (iss s0).1 (iss s0).2, rfl, ?_⟩
  simp only [List.mem_cons, List.not_mem_nil, or_false] at hm
  rcases hm with rfl | rfl <;>
    exact ⟨by decide, by decide, placeGroup 0, _, by decide, rfl, by decide, by decide⟩
/-- The last word of the allotment. -/
def lastWord : State := withV 16 (262144 - 4) (oneThread s0)
theorem test_scratchpad_end : ∀ op ∈ [Op.st, .stfe], let i := issueOf op (memEnc op) (iss lastWord).1 (iss lastWord).2
    i.en = 1 ∧ i.addr i.e.ck i.e.c i.hasC 0 + szBytes i.e.sz = (placeGroup 0).scratch := by decide

def loadOks (op : Op) (s : State) (e : Enc) : Option (List (Acc × Option Tlb)) :=
  let i := issueOf op e (iss s).1 (iss s).2
  let f : MemAsk × List Acc :=
    match op with
    | .ld => (ldAsk i, ldAccs i) | .sld => (sldAsk i, [sldAcc i]) | _ => (atomAsk i false, atomAccs i)
  reached? (issued op e s (iss s).1 (iss s).2) i f.1 f.2
theorem test_loads : ∀ op ∈ [Op.ld, .sld, .atom], Meets op fun s e w sp => Enabled op e w sp ∧ e.order ≠ 4 ∧
    let i := issueOf op e w sp
    let f : MemAsk × List Acc :=
      match op with
      | .ld => (ldAsk i, ldAccs i) | .sld => (sldAsk i, [sldAcc i]) | _ => (atomAsk i false, atomAccs i)
    ∃ oks, AllReach (issued op e s w sp) i f.1 f.2 oks ∧ (∀ x ∈ oks, ∀ g va pa, x.1.place ≠ .det g va pa) ∧ oks ≠ [] := by
  have h : ∀ op ∈ [Op.ld, .sld, .atom], ready (oneThread s0) op (memEnc op) = true ∧
      enabledOf op (memEnc op) (iss (oneThread s0)).1 (iss (oneThread s0)).2 ≠ 0 ∧ (memEnc op).order ≠ 4 ∧
      ((loadOks op (oneThread s0) (memEnc op)).map fun o => notDet o && !o.isEmpty) = some true := by decide
  intro op hm
  obtain ⟨h1, h2, h3, h4⟩ := h op hm
  obtain ⟨o, ho, hn⟩ := Option.map_eq_some_iff.mp h4
  simp only [Bool.and_eq_true, Bool.not_eq_true', List.isEmpty_eq_false_iff] at hn
  exact meets _ _ h1 ⟨h2, h3, o, allReach_of ho, notDet_of hn.1, hn.2⟩

/-- A word store at the odd address 1. -/
def oddAddress : State := withS [(16, 1)] (withV 16 1 (oneThread s0))
theorem test_misaligned : ∀ op ∈ [Op.ld, .st, .ldfe, .stfe, .atom, .red, .sld, .sst], Meets op fun s e w sp => Enabled op e w sp ∧
    sp.replay = none ∧ (∃ g, s.group? w.group = some g) ∧
    ((accessesOf op (issueOf op e w sp) (issued op e s w sp)).filter fun a => a.va % a.size != 0) ≠ [] := by
  have h : ∀ op ∈ [Op.ld, .st, .ldfe, .stfe, .atom, .red, .sld, .sst], ready oddAddress op (memEnc op) = true ∧
      enabledOf op (memEnc op) (iss oddAddress).1 (iss oddAddress).2 ≠ 0 ∧ (iss oddAddress).2.replay = none ∧
      (oddAddress.group? (iss oddAddress).1.group).isSome = true ∧
      ((accessesOf op (issueOf op (memEnc op) (iss oddAddress).1 (iss oddAddress).2)
        (issued op (memEnc op) oddAddress (iss oddAddress).1 (iss oddAddress).2)).filter fun a => a.va % a.size != 0) ≠ [] := by
    decide
  intro op hm
  obtain ⟨h1, h2, h3, h4, h5⟩ := h op hm
  exact meets _ _ h1 ⟨h2, h3, Option.isSome_iff_exists.mp h4, h5⟩

/-- The sc forms of `LD`, `ST` and `ATOM` on the scratchpad. -/
def scEnc (op : Op) : Enc := { memEnc op with mod := 0x44 }
theorem test_sc_loads : ∀ op ∈ [Op.ld, .atom], Meets op fun s e w sp => Enabled op e w sp ∧ e.order = 4 ∧
    let i := issueOf op e w sp
    let f : MemAsk × List Acc := if op = .ld then (ldAsk i, ldAccs i) else (atomAsk i false, atomAccs i)
    ∃ oks, AllReach (issued op e s w sp) i f.1 f.2 oks ∧ oks ≠ [] := by
  have h : ∀ op ∈ [Op.ld, .atom], ready (oneThread s0) op (scEnc op) = true ∧
      enabledOf op (scEnc op) (iss (oneThread s0)).1 (iss (oneThread s0)).2 ≠ 0 ∧ (scEnc op).order = 4 ∧
      ((loadOks op (oneThread s0) (scEnc op)).map fun o => !o.isEmpty) = some true := by decide
  intro op hm
  obtain ⟨h1, h2, h3, h4⟩ := h op hm
  obtain ⟨o, ho, hn⟩ := Option.map_eq_some_iff.mp h4
  refine meets _ _ h1 ⟨h2, h3, o, ?_, by simpa using hn⟩
  simp only [List.mem_cons, List.not_mem_nil, or_false] at hm
  rcases hm with rfl | rfl <;> exact allReach_of ho
theorem test_sc_store : Meets .st fun s e w sp => Enabled .st e w sp ∧ e.order = 4 ∧
    let i := issueOf .st e w sp
    let s1 := issued .st e s w sp
    ∃ oks, AllReach (stFree i s1) i (stAsk i) (stAccs i s1.freeDWord.1.toNat) oks ∧ oks ≠ [] := by
  have h : ((storeOks .st (oneThread s0) (scEnc .st)).map fun o => !o.isEmpty) = some true := by decide
  obtain ⟨o, ho, hn⟩ := Option.map_eq_some_iff.mp h
  exact meets (oneThread s0) (scEnc .st) (by decide) ⟨by unfold Enabled; decide, by decide, o, allReach_of ho, by simpa using hn⟩

/-- A cached translation of a writable `DET` page, and plain stores there. -/
def detState : State :=
  { withS [(16, 0x100000)] (withV 16 0x100000 (oneThread s0)) with
    tlb := [{ holder := .core 0, ctx := 0, va := 0x100000, size := 4096, host := false, pa := 0x400000, leaf := 0x129, grant := 7 }] }
def detEnc (op : Op) : Enc := { memEnc op with mod := 0, b := 24, d := 0, a := 16, c := 0 }
theorem test_det_stores : ∀ op ∈ [Op.st, .sst], Meets op fun s e w sp => Enabled op e w sp ∧ e.order ≠ 4 ∧
    (∃ gr, s.group? w.group = some gr) ∧
    ∃ oks, AllReach (storeState op (issueOf op e w sp) (issued op e s w sp)) (issueOf op e w sp)
      (storeForm op (issueOf op e w sp) (issued op e s w sp)).1 (storeForm op (issueOf op e w sp) (issued op e s w sp)).2.1 oks ∧
      (∀ x ∈ oks, ∃ pa, x.1.place = .det w.group x.1.va pa) ∧ oks ≠ [] := by
  have h : ∀ op ∈ [Op.st, .sst], ready detState op (detEnc op) = true ∧
      enabledOf op (detEnc op) (iss detState).1 (iss detState).2 ≠ 0 ∧ (detEnc op).order ≠ 4 ∧
      (detState.group? (iss detState).1.group).isSome = true ∧
      ((storeOks op detState (detEnc op)).map fun o => o.map fun x => decide (x.1.place = .det (iss detState).1.group x.1.va 0x400000)) =
        some [true] := by decide +kernel
  intro op hm
  obtain ⟨h1, h2, h3, h4, h5⟩ := h op hm
  obtain ⟨o, ho, hn⟩ := Option.map_eq_some_iff.mp h5
  refine meets _ _ h1 ⟨h2, h3, Option.isSome_iff_exists.mp h4, o, allReach_of ho, fun x hx => ⟨0x400000, ?_⟩, fun he => by simp [he] at hn⟩
  have hd := List.mem_map_of_mem (f := fun x : Acc × Option Tlb => decide (x.1.place = .det (iss detState).1.group x.1.va 0x400000)) hx
  rw [hn] at hd
  simpa using hd

theorem test_cache : ∀ op ∈ [Op.pref, .cinv, .cwb], Meets op Any := by
  have h : ∀ op ∈ [Op.pref, .cinv, .cwb], ready s0 op (plain op) = true := by decide
  exact fun op hm => meets s0 (plain op) (h op hm) trivial

/-- A store of four bytes at a place, numbered 100, of the issuing wave. -/
def aStore (fn : MemFn) (place : Place) (data : Nat) : MemOp :=
  { seq := 100, ins := 100, wave := 0, kernel := 1, ctx := 0, order := 0, scope := 0, fn,
    acc := { thread := 0, va := 0x1000, size := 4, place, data, data2 := 0 }, ret := none }
def stored (m : MemOp) (s : State) : State := { s with stores := [m] }
/-- An outstanding load of thread 0 into v8, numbered 101. -/
def aLoad (place : Place) : Pend :=
  { seq := 101, sp := 0, sps := [0], sup := true, mask := 1, all := 1, dst := .vec 8 1, wait := .ld,
    body := .load 0 0 2 [{ thread := 0, va := 0x1000, size := 4, place, data := 0, data2 := 0 }], waits := [], fails := [] }
def pending (p : Pend) (s : State) : State := onWave (fun w => { w with pend := [p] }) s

def fenceCovers (s : State) (e : Enc) (w : Wave) (sp : Split) : List Nat :=
  if e.order = 1 then ((issueOf .fence e w sp).w.pend.filter fun p => p.readsFor (issueOf .fence e w sp).en).map (·.seq)
  else (issued .fence e s w sp).drainSet (issueOf .fence e w sp).w (issueOf .fence e w sp).en
/-- A release fence with nothing outstanding, and one with a store outstanding; an acquire fence with a load outstanding. -/
theorem test_fence_done : Meets .fence fun s e w sp => Enabled .fence e w sp ∧ e.order ≠ 4 ∧
    (issued .fence e s w sp).drained (issueOf .fence e w sp).w (fenceCovers s e w sp) = true :=
  meets s0 { e0 with mod := 2 } (by decide) ⟨by unfold Enabled; decide, by decide, by decide⟩
theorem test_fence_waits : Meets .fence fun s e w sp => Enabled .fence e w sp ∧ e.order = 2 ∧
    (issued .fence e s w sp).drained (issueOf .fence e w sp).w (fenceCovers s e w sp) = false :=
  meets (stored (aStore .store (.phys 0x1000) 0) s0) { e0 with mod := 2 } (by decide) ⟨by unfold Enabled; decide, by decide, by decide⟩
theorem test_fence_acquires : Meets .fence fun s e w sp => Enabled .fence e w sp ∧ e.order = 1 ∧
    (issued .fence e s w sp).drained (issueOf .fence e w sp).w (fenceCovers s e w sp) = false :=
  meets (pending (aLoad (.phys 0x1000)) s0) { e0 with mod := 1 } (by decide) ⟨by unfold Enabled; decide, by decide, by decide⟩
theorem test_fence_sc : ∀ op ∈ [Op.fence, .fencesc], Meets op fun _ e w sp => Enabled op e w sp ∧ e.order = 4 := by
  have h : ∀ op ∈ [Op.fence, .fencesc], ready s0 op { e0 with mod := 4 } = true ∧
    enabledOf op { e0 with mod := 4 } (iss s0).1 (iss s0).2 ≠ 0 := by decide
  exact fun op hm => meets s0 { e0 with mod := 4 } (h op hm).1 ⟨(h op hm).2, by decide⟩

/-! Steps of the memory system -/

/-- The hypotheses of a performance, for a store of four bytes. -/
def Performs (m : MemOp) (s : State) : Prop := s.stores.find? (fun m => m.seq == 100) = some m ∧ mayPerform s m = true
theorem test_store_performs : ∀ place ∈ [Place.phys 0x1000, .host 0x1000, .spd 3 0x100, .reg 0 0 0 0 8 0, .grp 2 0 0 0x100],
    Performs (aStore .store place 0x11223344) (stored (aStore .store place 0x11223344) s0) := by unfold Performs; decide
theorem test_store_value : (nextOf (exec (.homeSlicePerform 100) (stored (aStore .store (.phys 0x1000) 0x11223344) s0))).map
    (fun t => (readLe t.mem 0x1000 4, t.stores.length)) = some (0x11223344, 0) := by decide
theorem test_nibble_performs : Performs (aStore .stn4 (.phys 0x1000) 0x15) (stored (aStore .stn4 (.phys 0x1000) 0x15) s0) := by
  unfold Performs; decide
/-- The high nibble, R214. -/
theorem test_nibble_value : (nextOf (exec (.homeSlicePerform 100) { stored (aStore .stn4 (.phys 0x1000) 0x15) s0 with mem := [(0x1000, 0x77)] })).map
    (fun t => byteAt t.mem 0x1000) = some 0x57 := by decide
/-- A read-modify-write of 4 or 8 bytes that returns its old value to the write 101, or to none. -/
def anRmw (mode ty n : Nat) (ret : Option Nat) : MemOp :=
  let m := aStore (.rmw mode ty) (.phys 0x1000) 0xFFFFFFFF
  { m with ins := 101, ret, acc := { m.acc with size := n, data2 := 5 } }
def anAtom : Pend := { aLoad (.phys 0x1000) with body := .atom 0 0 4 [] }
theorem test_rmw_performs : ∀ k < 10, ∀ x ∈ [(4, 0), (4, 1), (8, 2), (8, 3)], ∀ ret ∈ [none, some 101],
    let m := anRmw k x.2 x.1 ret
    let s := stored m (pending anAtom s0)
    Performs m s ∧ m.acc.place = .phys 0x1000 ∧ m.acc.size = x.1 ∧ m.acc.data < 2 ^ (8 * x.1) ∧ m.acc.data2 < 2 ^ (8 * x.1) ∧
      s.placeBad m.acc = none ∧ ∃ w ∈ s.waves, w.uid = m.wave ∧ w.pend.find? (fun p => p.seq == 101) = some anAtom := by
  unfold Performs; decide
/-- The old value goes to the `ATOM`, and then to its register. -/
theorem test_atom_value : ((nextOf (exec (.homeSlicePerform 100) { stored (anRmw 0 0 4 (some 101)) (pending anAtom s0) with mem := [(0x1000, 7)] })).bind fun t =>
    (nextOf (exec (.loadReturn 0 101 1) t)).bind fun u => (u.wave? 0).map fun w => (readLe u.mem 0x1000 4, w.vreg 8 0)) = some (6, 7) := by
  decide +kernel
/-- In an uncorrectable sector nothing is written, and the wave traps ECC later (R220). -/
theorem test_rmw_ecc : ∀ ret ∈ [none, some 101], let s : State := { stored (anRmw 0 0 4 ret) (pending anAtom s0) with badSectors := [0x40], mem := [(0x1000, 7)] }
    s.placeBad (anRmw 0 0 4 ret).acc = some (anRmw 0 0 4 ret).acc.va ∧
    (nextOf (exec (.homeSlicePerform 100) s)).bind (fun t => (t.wave? 0).map fun w => (readLe t.mem 0x1000 4, w.eccReturned.length)) = some (7, 1) := by
  decide +kernel
/-- The signed maximum of 0 and -1 is 0, the unsigned one is 0xFFFFFFFF (R213). -/
theorem test_rmw_value : [0, 1].map (fun ty => (nextOf (exec (.homeSlicePerform 100) (stored (aStore (.rmw 2 ty) (.phys 0x1000) 0xFFFFFFFF) s0))).map
    (fun t => readLe t.mem 0x1000 4)) = [some 0, some 0xFFFFFFFF] := by decide +kernel

def loadState (pl : Place) : State := { pending (aLoad pl) s0 with mem := [(0x1000, 0x80)] }
def loadAcc (pl : Place) : Acc := { thread := 0, va := 0x1000, size := 4, place := pl, data := 0, data2 := 0 }
def loadPlaces : List Place := [.phys 0x1000, .host 0x1000, .spd 3 0x100, .grp 2 0 0 0x100, .det 3 0x5000 0x1000]
theorem test_load_returns : ∀ pl ∈ loadPlaces, ∃ (s : State) (u seq : Nat) (w : Wave) (p : Pend) (o sc sz : Nat) (a : Acc) (accs : List Acc) (d n : Nat),
    s.wave? u = some w ∧ w.halted = false ∧ w.pend.find? (fun p => p.seq == seq) = some p ∧ p.body = .load o sc sz accs ∧
    (accs.filter fun b => (1#32 <<< a.thread).getLsbD b.thread) = [a] ∧ a.thread < 32 ∧ p.mask.getLsbD a.thread = true ∧
    mayReturn s w p a = true ∧ p.free a.thread = true ∧ p.dst = .vec d n ∧ a.place = pl ∧ s.placeBad a = none ∧ ∀ x ∈ s.shadow, x.seq ≠ seq := by
  have h : ∀ pl ∈ loadPlaces, (iss (loadState pl)).1.pend.find? (fun p => p.seq == 101) = some (aLoad pl) ∧
    mayReturn (loadState pl) (iss (loadState pl)).1 (aLoad pl) (loadAcc pl) = true ∧ (loadState pl).wave? 0 = some (iss (loadState pl)).1 ∧
    (iss (loadState pl)).1.halted = false ∧ (loadState pl).placeBad (loadAcc pl) = none ∧
    ([loadAcc pl].filter fun b => (1#32 <<< (loadAcc pl).thread).getLsbD b.thread) = [loadAcc pl] ∧ (aLoad pl).free 0 = true := by decide
  intro pl hp
  obtain ⟨h1, h2, h3, h4, h5, h6, h7⟩ := h pl hp
  exact ⟨loadState pl, 0, 101, (iss (loadState pl)).1, aLoad pl, 0, 0, 2, loadAcc pl, [loadAcc pl], 8, 1,
    h3, h4, h1, rfl, h6, Nat.zero_lt_succ _, (by decide : (1#32).getLsbD 0 = true), h2, h7, rfl, rfl, h5, fun x hx => nomatch hx⟩
/-- A word of an uncorrectable sector (R220). -/
theorem test_load_bad : ({ loadState (.phys 0x1000) with badSectors := [0x40] } : State).placeBad (loadAcc (.phys 0x1000)) = some 0x1000 := by decide
/-- What an earlier outstanding `GATH` has kept of a block is its alone: a later read sees the present bytes. -/
theorem test_shadow : let s : State := { loadState (.phys 0x1000) with shadow := [⟨0, 99, 0, 0, 0, 0x100, 0x55⟩] }
    [99, 101].map (fun n => s.readPlace ⟨0, n⟩ (.phys 0x1000) 1) = [0x55, 0x80] := by decide
theorem test_load_value : (nextOf (exec (.loadReturn 0 101 1) (loadState (.phys 0x1000)))).bind (fun t => (t.wave? 0).map fun w => w.vreg 8 0) =
    some 0x80 := by decide

theorem test_ldfe : Meets .ldfe fun s e w sp => Enabled .ldfe e w sp ∧ ∃ g, s.group? w.group = some g ∧
    memPre (issued .ldfe e s w sp) (issueOf .ldfe e w sp) g { kind := .read, use := .fe, space := e.space, plain := false }
      ((lanesOf (issueOf .ldfe e w sp).en).map fun t =>
        accAt t ((issueOf .ldfe e w sp).addr e.bk e.b true t) (szBytes e.sz) 0 0) = none :=
  meets (oneThread s0) (memEnc .ldfe) (by decide) ⟨by unfold Enabled; decide, placeGroup 0, by decide, by decide⟩
/-- Two threads wait for granules 0 and 1 of the scratchpad; granule 0 is full. -/
def feAccs : List Acc := [0, 1].map fun t => { thread := t, va := 16 * t, size := 4, place := .spd 3 (16 * t), data := 0, data2 := 0 }
def feState (accs : List Acc) : State :=
  let s := onSplit (fun p => { p with st := .blocked (.ldfe 8 2 false 3 102 accs) })
    (pending { aLoad (.spd 3 0) with seq := 102, mask := 3, all := 3, body := .load 0 0 2 [] } s0)
  { s.modGroup 3 (fun g => { g with full := [(0, true)] }) with cur := none }
theorem test_ldfe_serve : ∀ accs ∈ [feAccs, feAccs.take 1], ∃ (w : Wave) (p : Split) (a : Acc), (feState accs).wave? 0 = some w ∧ w.halted = false ∧
    w.split? 0 = some p ∧ p.st = .blocked (.ldfe 8 2 false 3 102 accs) ∧
    accs.find? (ldfeMay (feState accs) w false 102 accs) = some a ∧
    a.thread < 32 ∧ (feState accs).scratchBad a.place a.size = false ∧ p.stack = [] := by
  intro accs hm
  simp only [List.mem_cons, List.not_mem_nil, or_false] at hm
  rcases hm with rfl | rfl <;>
    exact ⟨_, _, feAccs.headD (loadAcc (.phys 0)), rfl, by decide, rfl, by decide, by decide, by decide, by decide, by decide⟩
/-- An sc operation with nothing left to drain. -/
def scState : State := { onSplit (fun p => { p with st := .blocked (.scDrain 100 [] true 3 .fence) }) s0 with cur := none }
theorem test_sc_drained : ∃ (w : Wave) (p : Split), scState.wave? 0 = some w ∧ w.halted = false ∧ w.split? 0 = some p ∧
    p.st = .blocked (.scDrain 100 [] true 3 .fence) ∧ scState.drained w [] = true := ⟨_, _, rfl, by decide, rfl, by decide, by decide⟩

/-! Special values, presentation time, the special-function queue, reservoirs -/

theorem test_movs : ∀ k ∈ List.range 11, Meets .movs fun _ e w sp => e.opx.toNat = k ∧ e.nw = false ∧
    w.writesDone (issueOf .movs e w sp).sfqBefore = true := by
  have h : ∀ k ∈ List.range 11, ready s0 .movs { e0 with d := 8, opx := BitVec.ofNat 5 k } = true ∧
      (BitVec.ofNat 5 k).toNat = k ∧
      (iss s0).1.writesDone (issueOf .movs { e0 with d := 8, opx := BitVec.ofNat 5 k } (iss s0).1 (iss s0).2).sfqBefore = true := by
    decide
  exact fun k hk => meets s0 { e0 with d := 8, opx := BitVec.ofNat 5 k } (h k hk).1 ⟨(h k hk).2.1, rfl, (h k hk).2.2⟩
theorem test_movs_names : ∃ g, s0.group? (iss s0).1.group = some g ∧ (s0.convoy? g.convoy).isSome = true ∧
    (s0.kernel? (iss s0).1.kernel).isSome = true := ⟨_, rfl, by decide, by decide⟩
/-- The field [35:32] of an operand of 32 bits is its sign; a field of no bits is 0. -/
theorem test_sbfe : bitField true 0x80000000 0x0420 = 0xFFFFFFFF ∧ bitField false 0x80000000 0x041C = 8 ∧ bitField true 0x80000000 0x001C = 0 := by
  decide
theorem test_time : ∀ op ∈ [Op.tnow, .dlget, .setdl, .twait], Meets op fun _ e w sp => Enabled op e w sp := by
  have h : ∀ op ∈ [Op.tnow, .dlget, .setdl, .twait], ready s0 op (plain op) = true ∧
    enabledOf op (plain op) (iss s0).1 (iss s0).2 ≠ 0 := by decide
  exact fun op hm => meets s0 (plain op) (h op hm).1 (h op hm).2
theorem test_dlget_class : Meets .dlget fun _ e w sp => Enabled .dlget e w sp ∧ e.opx = 1 :=
  meets s0 { e0 with d := 9, opx := 1 } (by decide) ⟨by unfold Enabled; decide, by decide⟩
/-- The target 0 is reached at PT 0, and 1 is not. -/
theorem test_twait_reached : Meets .twait fun s e w sp => Enabled .twait e w sp ∧ s.reached (sp.spair e.a.toNat) = true :=
  meets s0 (plain .twait) (by decide) ⟨by unfold Enabled; decide, by decide⟩
theorem test_twait_waits : Meets .twait fun s e w sp => Enabled .twait e w sp ∧ s.reached (sp.spair e.a.toNat) = false :=
  meets (withS [(16, 1)] s0) (plain .twait) (by decide) ⟨by unfold Enabled; decide, by decide⟩
/-- The split that waits on something, with no issue in progress. -/
def waiting (wt : Wait) (s : State) : State := { onSplit (fun p => { p with st := .blocked wt }) s with cur := none }
def Waits (wt : Wait) (s : State) : Prop := ∃ w p, s.wave? 0 = some w ∧ (s.ctx w.ctx).st = .running ∧ w.halted = false ∧ w.split? 0 = some p ∧
    p.st = .blocked wt ∧ p.stack = []
theorem test_twait_release : Waits (.twait 0 1) (waiting (.twait 0 1) s0) ∧ (waiting (.twait 0 1) s0).reached 0 = true :=
  ⟨⟨_, _, rfl, by decide, by decide, rfl, by decide, by decide⟩, by decide⟩
theorem test_twait_holds : Waits (.twait 1 1) (waiting (.twait 1 1) s0) ∧ (waiting (.twait 1 1) s0).reached 1 = false :=
  ⟨⟨_, _, rfl, by decide, by decide, rfl, by decide, by decide⟩, by decide⟩

theorem test_sfq_room : Meets .sfq fun s e w sp =>
    (issued .sfq e s w sp).sfqUsed w.core w.lane + popMask (issueOf .sfq e w sp).en ≤ 256 := meets s0 (plain .sfq) (by decide) (by decide)
/-- 225 requests are outstanding, so 32 more do not fit. -/
def sfqFull : State := onWave (fun w => { w with pend := (List.range 8).map fun k =>
  { seq := 200 + k, sp := 0, sps := [0], sup := true, mask := if k = 7 then 1 else 0xFFFFFFFF, all := 0xFFFFFFFF, dst := .vec (40 + k) 1, wait := .token 0,
    body := .sfq 0 [], waits := [], fails := [] } }) s0
theorem test_sfq_full : Meets .sfq fun s e w sp =>
    (issued .sfq e s w sp).sfqUsed w.core w.lane + popMask (issueOf .sfq e w sp).en = 257 := meets sfqFull (plain .sfq) (by decide) (by decide)
def sfqPend : Pend := { aLoad (.phys 0) with body := .sfq 0 [(0, 0x3F800000, 0)], wait := .token 0 }
theorem test_sfq_completes : ∃ (w : Wave) (d n : Nat), (pending sfqPend s0).wave? 0 = some w ∧ w.halted = false ∧
    w.pend.find? (fun p => p.seq == 101) = some sfqPend ∧ sfqPend.mask.getLsbD 0 = true ∧ sfqPend.dst = .vec d n ∧
    [((0 : Nat), (0x3F800000 : Word), (0 : Word))].find? (fun a => a.1 == 0) = some (0, 0x3F800000, 0) :=
  ⟨_, 8, 1, rfl, by decide, by decide, by decide, by decide, by decide⟩
/-- `RCP` of 1.0 is 1.0 (R90). -/
theorem test_sfq_value : (nextOf (exec (.sfqRequestComplete 0 101 0) (pending sfqPend s0))).bind
    (fun t => (t.wave? 0).map fun w => w.vreg 8 0) = some 0x3F800000 := by decide +kernel
theorem test_waitk_done : Meets .waitk fun _ e w sp => Enabled .waitk e w sp ∧ w.writesDone (issueOf .waitk e w sp).waitkSet = true ∧
    gathFails w (issueOf .waitk e w sp).waitkSet = [] := meets s0 e0 (by decide) ⟨by unfold Enabled; decide, by decide, by decide⟩
/-- `.ld` covers the outstanding load. -/
theorem test_waitk_waits : Meets .waitk fun _ e w sp => Enabled .waitk e w sp ∧ w.writesDone (issueOf .waitk e w sp).waitkSet = false :=
  meets (pending (aLoad (.phys 0)) s0) { e0 with opx := 1 } (by decide) ⟨by unfold Enabled; decide, by decide⟩
def failedGath : Pend := { aLoad (.phys 0) with mask := 0, wait := .token 0, body := .gath [], fails := [(0, .page, 0x1000)] }
theorem test_waitk_fails : Meets .waitk fun _ e w sp => Enabled .waitk e w sp ∧ w.writesDone (issueOf .waitk e w sp).waitkSet = true ∧
    gathFails w (issueOf .waitk e w sp).waitkSet ≠ [] :=
  meets (pending failedGath s0) e0 (by decide) ⟨by unfold Enabled; decide, by decide, by decide⟩
theorem test_reservoirs : ∀ op ∈ [Op.rsvi, .rsvu, .rsvm, .rsvset], Meets op Any := by
  have h : ∀ op ∈ [Op.rsvi, .rsvu, .rsvm, .rsvset], ready s0 op (plain op) = true := by decide
  exact fun op hm => meets s0 (plain op) (h op hm) trivial

/-! Copies, gathers and timelines -/

/-- One byte from the scratchpad to the scratchpad on tl0; `CPYQ` of one FP16 element to E4M3. -/
def cpyEnc : Op → Enc
  | .cpyq => { e0 with form := .block, a := 16, ak := .sca, b := 24, bk := .sca, c := 32, ck := .sca, mod := 8, p0 := 0x1001, p3 := 0x01500000 }
  | _ => { e0 with form := .block, a := 16, ak := .sca, b := 24, bk := .sca, mod := 8, p0 := 0x1001, p3 := 0x00500000 }
theorem test_copies : ∀ op ∈ [Op.cpy, .cpyq], Meets op fun s e w sp => Enabled op e w sp ∧ w.tls.length = 8 ∧
    ∃ e' gr, (issueOf op e w sp).subBlock copyCounts 0 = some e' ∧ s.group? w.group = some gr ∧
      copyTrap (issued op e s w sp) (issueOf op e w sp) gr e' (copySrcs (issueOf op e w sp) e')
        (copyGeo op e' (copySrcs (issueOf op e w sp) e')) = none ∧
      (w.tl (copyGeo op e' (copySrcs (issueOf op e w sp) e')).tl).open_.length < 64 := by
  intro op hm
  refine meets s0 (cpyEnc op) (by revert op; decide) ⟨by revert op; unfold Enabled; decide, by decide, cpyEnc op, placeGroup 0, ?_⟩
  revert op; decide
/-- tl0 holds 64 operations. -/
def fullTl (k : Nat) : State := onWave (fun w => w.modTl k fun t => { t with posted := 64, open_ := (List.range 64).map (· + 1) }) s0
theorem test_copies_wait : ∀ op ∈ [Op.cpy, .cpyq], Meets op fun _ e w sp => Enabled op e w sp ∧
    (w.tl (copyGeo op e (copySrcs (issueOf op e w sp) e)).tl).open_.length = 64 := by
  intro op hm
  refine meets (fullTl 0) (cpyEnc op) (by revert op; decide) ⟨by revert op; unfold Enabled; decide, ?_⟩
  revert op; decide
def anOp (op : Op) (e : Enc) (srcs : List DWord) (prog : Nat) : EngOp :=
  { id := 300, op, e, srcs, ctx := 0, sup := true, wave := 0, group := 3, kernel := 1, cls := 2, dl := never, tl := 0, num := 1, prog, amax := 0, out := [],
    failed := none, failNo := 0, parked := none, parkVa := 0, after := [], win := [], bar := none, spans := [], scratch := true }
def engaged (o : EngOp) (s : State) : State :=
  { onWave (fun w => w.modTl o.tl fun t => { t with posted := o.num, open_ := [o.num] }) s with ops := [o] }
theorem test_copy_completes : ∀ o ∈ [anOp .cpy (cpyEnc .cpy) [0, 64] 1, { anOp .cpy (cpyEnc .cpy) [0, 64] 0 with failed := some (.page, 0) }],
    (engaged o s0).op? 300 = some o ∧ (o.failed.isSome = true ∨ o.copySteps ≤ o.prog) ∧ o.geo.ben = false ∧
    ((engaged o s0).ctx o.ctx).st = .running ∧
    ((engaged o s0).wave? o.wave).isSome = true ∧ o.tl < 8 := by decide
/-- A word from the scratchpad into v8 of thread 0 of a wave through the register window. -/
def winEnc : Enc := { e0 with form := .block, a := 16, ak := .sca, b := 24, bk := .sca, mod := 8, p0 := 0x1001, p3 := 0x02400000 }
def winOp : EngOp := { anOp .cpy winEnc [0, 0x80000020] 0 with win := [(0, 0)] }
def winState (s : State) : State := (engaged winOp s).modCtx 0 fun c => { c with regwin := 0x80000000 }
theorem test_held_write : ∀ s ∈ [winState s0, winState (inHandler s0)], s.op? 300 = some winOp ∧ s.opReady winOp = true ∧
    winOp.prog < winOp.copySteps ∧ (copyHolds s winOp).1 = true ∧ (copyHolds s winOp).2.isSome = true := by decide +kernel
theorem test_held_open : heldOpen winOp (iss (winState s0)).1 = false ∧ heldOpen winOp (iss (winState (inHandler s0))).1 = true := by decide

/-- `GATH` of the word at s24 + 4 × v16, in a mapped page. -/
def gathEnc : Enc := { e0 with d := 8, a := 16, b := 24, bk := .sca }
def gathState : State := withS [(24, 0x100000)] (oneThread s0)
theorem test_gath : Meets .gath fun s e w sp => Enabled .gath e w sp ∧ ∃ g, s.group? w.group = some g ∧
    gathIssueTrap (issued .gath e s w sp) (issueOf .gath e w sp) g = none :=
  meets gathState gathEnc (by decide) ⟨by unfold Enabled; decide, placeGroup 0, by decide, by decide⟩
theorem test_gath_traps : Meets .gath fun s e w sp => Enabled .gath e w sp ∧ ∃ g, s.group? w.group = some g ∧
    (gathIssueTrap (issued .gath e s w sp) (issueOf .gath e w sp) g).isSome = true :=
  meets (withS [(24, 1)] (oneThread s0)) gathEnc (by decide) ⟨by unfold Enabled; decide, placeGroup 0, by decide, by decide⟩
def gathAcc : Acc := { thread := 0, va := 0x100010, size := 4, place := .phys 0, data := 0, data2 := 1 }
def gathPend : Pend := { aLoad (.phys 0) with body := .gath [gathAcc], wait := .token 0, dst := .vec 8 1 }
/-- The translation of the mapped page that a holder takes. -/
def mappedTlb (holder : TlbAt) : Tlb :=
  { holder, ctx := 0, va := 0x100000, size := 4096, host := false, pa := 0x100000, leaf := 0x10003D, grant := 7 }
def gathWait : State := let s := pending gathPend s0; { s with mem := writeLe s.mem 0x100010 4 0x12345678 }
theorem test_gath_returns : ∃ (w : Wave) (g : Group) (tl : Tlb) (pa : Nat), gathWait.wave? 0 = some w ∧ w.halted = false ∧
    (gathWait.ctx w.ctx).st = .running ∧ w.pend.find? (fun p => p.seq == 101) = some gathPend ∧ gathNext gathPend [gathAcc] = some gathAcc ∧
    gathPend.lostAt 0 = false ∧ gathWait.group? w.group = some g ∧ resolve gathWait w.ctx g 0 .load true gathAcc.va 4 = some .virt ∧
    translate gathWait .io none w.ctx gathAcc.va .read true = .ok tl pa ∧ tl.host = false ∧ tl.det = false ∧ inDevice pa 4 = true ∧
    gathWait.badAt pa 4 = false ∧ mayReturn gathWait w gathPend { gathAcc with place := .phys pa } = true :=
  ⟨_, placeGroup 0, mappedTlb .io, 0x100010, rfl, by decide +kernel⟩
theorem test_gath_value : (nextOf (exec (.gathReturn 0 101) gathWait)).bind (fun t => (t.wave? 0).map fun w => w.vreg 8 0) =
    some 0x12345678 := by decide +kernel

/-- `TLWAIT` for number 1 of tl0: posted and open, complete, and complete with a failure. -/
def tlState (open_ : List Nat) (fails : List TlFail) : State :=
  withS [(16, 1)] (onWave (fun w => w.modTl 0 fun _ => { posted := 1, open_, fails, regs := [] }) s0)
theorem test_tlwait_waits : Meets .tlwait fun _ e w sp => Enabled .tlwait e w sp ∧
    (w.tl ((issueOf .tlwait e w sp).sB false % 8)).completed < (sp.spair e.a.toNat).toNat :=
  meets (tlState [1] []) (plain .tlwait) (by decide) ⟨by unfold Enabled; decide, by decide⟩
theorem test_tlwait_done : Meets .tlwait fun _ e w sp => Enabled .tlwait e w sp ∧
    (sp.spair e.a.toNat).toNat ≤ (w.tl ((issueOf .tlwait e w sp).sB false % 8)).completed ∧
    ∀ f ∈ (w.tl ((issueOf .tlwait e w sp).sB false % 8)).fails, (sp.spair e.a.toNat).toNat < f.num :=
  meets (tlState [] [⟨5, 2, .page, 0x1000⟩]) (plain .tlwait) (by decide) ⟨by unfold Enabled; decide, by decide, by decide⟩
theorem test_tlwait_fails : Meets .tlwait fun _ e w sp => Enabled .tlwait e w sp ∧
    (sp.spair e.a.toNat).toNat ≤ (w.tl ((issueOf .tlwait e w sp).sB false % 8)).completed ∧
    lowestFail ((w.tl ((issueOf .tlwait e w sp).sB false % 8)).fails.filter fun f => f.num ≤ (sp.spair e.a.toNat).toNat) =
      some ⟨5, 1, .page, 0x1000⟩ :=
  meets (tlState [] [⟨5, 1, .page, 0x1000⟩]) (plain .tlwait) (by decide) ⟨by unfold Enabled; decide, by decide, by decide⟩
theorem test_tlrd : Meets .tlrd fun _ e w sp => Enabled .tlrd e w sp := meets s0 (plain .tlrd) (by decide) (by unfold Enabled; decide)

/-! Barriers -/

/-- Barrier 0 of the issuing group, of scope `cv` minus one (code 1). -/
def withBar (b : Barrier) (s : State) : State := s.modGroup 3 fun g => { g with bars := [b] }
def barA (hc : Nat) : Barrier := { Barrier.fresh 1 with exp := 2, hc }
def owner (b : Barrier) : Group := { placeGroup 0 with bars := [b] }
/-- `OnBarrier` as a test. -/
def onBar (s : State) (i : Issue) (b : Barrier) : Bool :=
  decide (i.barOwner s = some (owner b) ∧ s.group? 3 = some (owner b) ∧ (owner b).bars[i.barNum]? = some b ∧ b.bad = false ∧
    s.barLate 3 i.barNum = false ∧ b.err = false ∧ b.scp + 1 = i.e.scope)
theorem onBarrier {s : State} {i : Issue} {b : Barrier} (h : onBar s i b = true) : OnBarrier s i (owner b) b := by
  obtain ⟨h1, h2, h3, h4, h5, h6⟩ := of_decide_eq_true h
  exact ⟨⟨h1, h2, h3, h4, h5⟩, h6⟩
/-- `ReleaseDone` as a test. -/
def released? (s : State) (u : Nat) (m : Word) : Bool := (s.wave? u).all fun w => s.drained w (s.drainSet w m)
theorem releaseDone {s : State} {u : Nat} {m : Word} (h : released? s u m = true) : ReleaseDone s u m := by
  intro w hw
  simpa [released?, hw] using h
theorem test_binit : Meets .binit fun s e w sp => Enabled .binit e w sp ∧ ∃ g b, NamesBarrier s (issueOf .binit e w sp) g b ∧
    (issueOf .binit e w sp).sB false = 512 ∧ (b.ready || b.err) = true :=
  meets (withS [(24, 512)] (withBar (barA 2) s0)) (plain .binit) (by decide)
    ⟨by unfold Enabled; decide, owner (barA 2), barA 2, by unfold NamesBarrier; decide, by decide, by decide⟩
/-- The arrival that leaves one, and the one that completes the phase. -/
theorem test_arrivals : ∀ op ∈ [Op.barv, .barw], ∀ hc ∈ [1, 2], Meets op fun s e w sp => Enabled op e w sp ∧ ∃ g b, b.hc = hc ∧
    b.inn = 0 ∧ b.out = 0 ∧ OnBarrier s (issueOf op e w sp) g b ∧ (issueOf op e w sp).waited = false ∧
    (w.takeRecord e.scope g.uid (issueOf op e w sp).barNum).isSome = true ∧ ReleaseDone (issued op e s w sp) w.uid sp.mask := by
  have h : ∀ op ∈ [Op.barv, .barw], ∀ hc ∈ [1, 2], ready (withBar (barA hc) s0) op (plain op) = true ∧
      let s := withBar (barA hc) s0
      let i := issueOf op (plain op) (iss s).1 (iss s).2
      i.en ≠ 0 ∧ (barA hc).hc = hc ∧ onBar s i (barA hc) = true ∧ i.waited = false ∧
      (i.w.takeRecord i.e.scope 3 i.barNum).isSome = true ∧
      released? (issued op (plain op) s (iss s).1 (iss s).2) 0 i.sp.mask = true := by decide
  intro op hm hc hk
  obtain ⟨h1, h2, h3, h4, h5, h6, h7⟩ := h op hm hc hk
  exact meets _ _ h1 ⟨h2, _, _, h3, rfl, rfl, onBarrier h4, h5, h6, releaseDone h7⟩
theorem test_waited : ∀ op ∈ [Op.bwait, .barw], Meets op fun _ e w sp => Enabled op e w sp ∧ (issueOf op e w sp).waited = true := by
  intro op hm
  refine meets (onSplit (fun p => { p with st := .blocked (.barrier 1 3 0 0 true) }) s0) (plain op) (by revert op; decide) ?_
  revert op; unfold Enabled; decide
def withRecord (complete : Bool) (s : State) : State := onWave (fun w => { w with arr := [⟨1, 3, 0, complete⟩] }) s
theorem test_bwait : ∀ c ∈ [true, false], Meets .bwait fun s e w sp => Enabled .bwait e w sp ∧ (issueOf .bwait e w sp).waited = false ∧
    ∃ g b a, OnBarrier s (issueOf .bwait e w sp) g b ∧
      (w.arr.find? fun a => a.names e.scope g.uid (issueOf .bwait e w sp).barNum) = some a ∧ a.complete = c := by
  have h : ∀ c ∈ [true, false], ready (withRecord c (withBar (barA 1) s0)) .bwait (plain .bwait) = true ∧
      let s := withRecord c (withBar (barA 1) s0)
      let i := issueOf .bwait (plain .bwait) (iss s).1 (iss s).2
      i.en ≠ 0 ∧ i.waited = false ∧ onBar s i (barA 1) = true ∧
      ((iss s).1.arr.find? fun a => a.names i.e.scope 3 i.barNum) = some ⟨1, 3, 0, c⟩ := by decide
  intro c hc
  obtain ⟨h1, h2, h3, h4, h5⟩ := h c hc
  exact meets _ _ h1 ⟨h2, h3, _, _, _, onBarrier h4, h5, rfl⟩
theorem test_bwait_none : Meets .bwait fun s e w sp => Enabled .bwait e w sp ∧ (issueOf .bwait e w sp).waited = false ∧
    ∃ g b, OnBarrier s (issueOf .bwait e w sp) g b ∧ (w.arr.find? fun a => a.names e.scope g.uid (issueOf .bwait e w sp).barNum) = none :=
  meets (withBar (barA 1) s0) (plain .bwait) (by decide)
    ⟨by unfold Enabled; decide, by decide, owner (barA 1), barA 1, onBarrier (by decide), by decide⟩
/-- Adding 1 to the inbound, outbound and arrival counts, and the inbound count at its limit 8,191. -/
theorem test_bxpct : ∀ k ∈ [4, 5, 6], Meets .bxpct fun s e w sp => Enabled .bxpct e w sp ∧ ∃ g b b',
    OnBarrier s (issueOf .bxpct e w sp) g b ∧
    (((issueOf .bxpct e w sp).sB false % 4 = 0 ∧ b.inn + 1 ≤ 8191 ∧ b' = { b with inn := b.inn + 1 }) ∨
     ((issueOf .bxpct e w sp).sB false % 4 = 1 ∧ b' = { b with out := b.out + 1 }) ∨
     ((issueOf .bxpct e w sp).sB false % 4 = 2 ∧ b.hc ≤ b.exp ∧ b' = { b with exp := b.exp + 1, hc := b.hc + 1 })) ∧
    (BitVec.ofNat 32 ((issueOf .bxpct e w sp).sB false)).toInt / 4 = 1 ∧ (b'.hc ≠ 0 ∨ b'.inn ≠ 0 ∨ b'.out ≠ 0) := by
  intro k hk
  simp only [List.mem_cons, List.not_mem_nil, or_false] at hk
  rcases hk with rfl | rfl | rfl
  · exact meets (withS [(24, 4)] (withBar { barA 1 with inn := 8190 } s0)) (plain .bxpct) (by decide)
      ⟨by unfold Enabled; decide, owner { barA 1 with inn := 8190 }, { barA 1 with inn := 8190 }, { barA 1 with inn := 8191 },
        onBarrier (by decide), by decide, by decide, by decide⟩
  · exact meets (withS [(24, 5)] (withBar (barA 1) s0)) (plain .bxpct) (by decide)
      ⟨by unfold Enabled; decide, owner (barA 1), barA 1, { barA 1 with out := 1 }, onBarrier (by decide), by decide, by decide,
        by decide⟩
  · exact meets (withS [(24, 6)] (withBar (barA 1) s0)) (plain .bxpct) (by decide)
      ⟨by unfold Enabled; decide, owner (barA 1), barA 1, { barA 1 with exp := 3, hc := 2 }, onBarrier (by decide), by decide,
        by decide, by decide⟩
/-- The deadline 0 is reached at PT 0, and 1 is not. -/
theorem test_bdl_reached : Meets .bdl fun s e w sp => Enabled .bdl e w sp ∧
    (∃ g b, OnBarrier s (issueOf .bdl e w sp) g b) ∧ s.reached (sp.spair e.b.toNat) = true :=
  meets (withBar (barA 1) s0) (plain .bdl) (by decide)
    ⟨by unfold Enabled; decide, ⟨_, barA 1, onBarrier (by decide)⟩, by decide⟩
theorem test_bdl : Meets .bdl fun s e w sp => Enabled .bdl e w sp ∧
    (∃ g b, OnBarrier s (issueOf .bdl e w sp) g b) ∧ s.reached (sp.spair e.b.toNat) = false :=
  meets (withS [(24, 1)] (withBar (barA 1) s0)) (plain .bdl) (by decide)
    ⟨by unfold Enabled; decide, ⟨_, barA 1, onBarrier (by decide)⟩, by decide⟩
theorem test_btest : ∀ k ∈ [0, 1, 2], Meets .btest fun s e w sp => Enabled .btest e w sp ∧
    (∃ g b, OnBarrier s (issueOf .btest e w sp) g b) ∧ (issueOf .btest e w sp).sB false = k := by
  have h : ∀ k ∈ [0, 1, 2], ready (withBar (barA 1) s0) .btest { plain .btest with b := 0, bk := .imm, imm := BitVec.ofNat 18 k } = true ∧
      let s := withBar (barA 1) s0
      let i := issueOf .btest { plain .btest with b := 0, bk := .imm, imm := BitVec.ofNat 18 k } (iss s).1 (iss s).2
      i.en ≠ 0 ∧ onBar s i (barA 1) = true ∧ i.sB false = k := by decide
  intro k hk
  obtain ⟨h1, h2, h3, h4⟩ := h k hk
  exact meets _ _ h1 ⟨h2, ⟨_, _, onBarrier h3⟩, h4⟩
/-- Deadlines that PT has reached, of a barrier and of one in ERROR, and one that it has not. -/
theorem test_deadline : ∀ b ∈ [{ barA 1 with dl := 0 }, { barA 1 with dl := 0, err := true }, { barA 1 with dl := 1 }],
    (withBar b s0).group? 3 = some (owner b) ∧ (owner b).bars[0]? = some b ∧ (withBar b s0).reached b.dl = decide (b.dl = 0) ∧
    ((withBar b s0).ctx 0).st = .running := by decide

/-! Translations and page services -/

theorem test_xlate : Meets .xlate fun _ e w sp => Enabled .xlate e w sp ∧ e.bk = .sca := meets s0 (plain .xlate) (by decide) ⟨by unfold Enabled; decide, rfl⟩
theorem test_xlate_imm : Meets .xlate fun _ e w sp => Enabled .xlate e w sp ∧ e.bk = .imm :=
  meets s0 { sA with bk := .imm, imm := 0x3FFFF } (by decide) ⟨by unfold Enabled; decide, rfl⟩
theorem test_xlate_none : Meets .xlate fun _ e w sp => enabledOf .xlate e w sp = 0 := meets s0 { plain .xlate with pn := true } (by decide) (by decide)
theorem test_phint : Meets .phint fun s e w _ => e.opx ≠ 0 ∧
    (s.ctx w.ctx).pins.foldl (fun n p => n + p.2) 0 ≤ (s.ctx w.ctx).pinbud * 2 ^ 20 := meets s0 { plain .phint with opx := 1 } (by decide) (by decide)
/-- Length 0, and one page. -/
theorem test_twflush : Meets .twflush fun _ e w sp => Enabled .twflush e w sp ∧ (sp.spair e.b.toNat).toNat = 0 :=
  meets s0 (plain .twflush) (by decide) ⟨by unfold Enabled; decide, by decide⟩
theorem test_twflush_range : Meets .twflush fun _ e w sp => Enabled .twflush e w sp ∧ (sp.spair e.b.toNat).toNat = 1 ∧
    (sp.spair e.a.toNat).toNat + (sp.spair e.b.toNat).toNat ≤ 2 ^ 57 :=
  meets (withS [(24, 1)] s0) (plain .twflush) (by decide) ⟨by unfold Enabled; decide, by decide, by decide⟩

theorem test_ivgo : (s0.ctx 0).ivgo ≠ 1 ∧ s0.ctxs.length = 64 ∧ ((s0.modCtx 0 fun c => { c with ivgo := 1 }).ctx 0).ivgo = 1 := by decide
def anInval (for_ : InvalFor) : Inval := { id := 400, ctx := 0, base := 0x1000, len := 0x1000, after := [100], forWhom := for_ }
def invalidating (v : Inval) (s : State) : State := { waiting (.inval 400 1) s with inval := [v] }
theorem test_invalidation : ∀ v ∈ [anInval .host, anInval .page, anInval (.split 0 0)],
    (invalidating v s0).inval.find? (fun x => x.id == 400) = some v ∧ (invalidating v s0).stillOpen v.after = false ∧
    v.ctx < (invalidating v s0).ctxs.length := by decide
theorem test_invalidation_split : Waits (.inval 400 1) (invalidating (anInval (.split 0 0)) s0) :=
  ⟨_, _, rfl, by decide, by decide, rfl, by decide, by decide⟩
theorem test_invalidation_waits :
    (invalidating (anInval .host) (stored (aStore .store (.phys 0) 0) s0)).stillOpen (anInval .host).after = true := by decide

/-- A split parked on fault record 1, on a page request, and on a migration of page 0x100000. -/
def parkedOn (k : ParkOn) (s : State) : State := { onSplit (fun p => { p with st := .parked k }) s with cur := none }
def faultOpen (written : Bool) : FaultRec := { seq := 1, va := 0x5000, kind := .read, lvl := 0, agent := 0, written }
def faulted (written : Bool) (s : State) : State := s.modCtx 0 fun c => { c with frOpen := [faultOpen written], fseq := 1, frlog := 4, fring := 0x8000 }
theorem noneWait_s0 : NoneWait (parkedOn (.record 1) s0) 0 := by unfold NoneWait; decide
theorem test_fault_response : NoneWait (faulted true (parkedOn (.record 1) s0)) 0 ∧
    ((faulted true (parkedOn (.record 1) s0)).ctx 0).frOpen.find? (fun r => r.seq == 1 && r.written) = some (faultOpen true) ∧
    (faulted true (parkedOn (.record 1) s0)).ctxs.length = 64 ∧ ((faulted true (parkedOn (.record 1) s0)).ctx 0).fseq.toNat = 1 := by
  refine ⟨?_, by decide, by decide, by decide⟩
  unfold NoneWait; decide
theorem test_fault_response_value : [Instr.faultResponseRetry 0 1, .faultResponseFail 0 1].map (fun i =>
    (nextOf (exec i (faulted true (parkedOn (.record 1) s0)))).bind fun t => (t.wave? 0).bind fun w => (w.split? 0).map (·.st)) =
    [some .ready, some (.parked .failed)] := by decide
theorem test_record_deferred : (faulted false s0).ctxs.length = 64 ∧ ((faulted false s0).ctx 0).frOpen.find? (fun r => !r.written) = some (faultOpen false) ∧
    ((faulted false s0).ctx 0).ringRoom 1 = true := by decide
/-- A request of a page that an invalidation has overtaken, or not, and after which the next page has been invalidated. -/
def atsReq (stale : Bool) : AtsReq := { ctx := 0, va := 0x5000, stale, since := [(0x6000, 0x1000)] }
def onAts (stale : Bool) : State := { parkedOn (.ats 0x5000) s0 with atsPend := [atsReq stale] }
theorem test_ats : NoneWait (onAts false) 0 ∧ ∀ stale ∈ [true, false],
    (onAts stale).atsPend.find? (fun x => x.ctx == 0 && x.va == 0x5123 / 4096 * 4096) = some (atsReq stale) := by
  refine ⟨?_, by decide⟩
  unfold NoneWait; decide
/-- A completion of 4 KiB is used, and one of 128 KiB is not (R246). -/
theorem test_ats_span : [12, 17].map (fun n => (atsReq false).outdated (atsSpan { logSize := n, pa := 0, read := true, write := true, exec := false } 0x5000)) =
    [false, true] := by decide
theorem test_ats_clear : ∀ i ∈ (atsReq false).since, i.1 + i.2 ≤ (atsSpan { logSize := 12, pa := 0, read := true, write := true, exec := false } 0x5000).1 ∨
    (atsSpan { logSize := 12, pa := 0, read := true, write := true, exec := false } 0x5000).1 +
      (atsSpan { logSize := 12, pa := 0, read := true, write := true, exec := false } 0x5000).2 ≤ i.1 := by decide
def onPri (sent : Bool) : State := { parkedOn (.pri 0x5000) s0 with pri := [{ ctx := 0, va := 0x5000, write := false, sent }], priAlloc := 1 }
theorem test_prg : (∀ c, NoneWait (onPri true) c) ∧ (onPri true).priSent 0 0x5123 = true := by
  refine ⟨fun c => ?_, by decide⟩
  refine ⟨?_, ?_, ?_, ?_⟩
  · have h : ∀ w ∈ (onPri true).waves, ∀ p ∈ w.pend, p.waits = [] := by decide
    exact fun w hw _ => h w hw
  · simp [onPri, parkedOn, onSplit, s0, State.modSplit, State.modWave, State.withFetchWord, placeWord, State.reset]
  · simp [onPri, parkedOn, onSplit, s0, State.modSplit, State.modWave, State.withFetchWord, placeWord, State.reset]
  · simp [onPri, parkedOn, onSplit, s0, State.modSplit, State.modWave, State.withFetchWord, placeWord, State.reset]
theorem test_pri_release : (onPri false).priOff = false ∧ ((onPri false).pri.filter (·.sent)).length < (onPri false).priAlloc ∧
    (onPri false).pri.find? (fun r => !r.sent) = some { ctx := 0, va := 0x5000, write := false, sent := false } := by decide

/-! Placement and migration -/

def pooled : State := { s0 with mgmt := { s0.mgmt with pools := (1 : DWord) :: List.replicate 15 0, spillb := 0x40000000000, spills := 0x100000 } }
theorem test_epoch : 0 < pooled.epochs.length ∧ (pooled.pool 0).2.2 ≠ 0 ∧ pooled.reached (pooled.epochs.getD 0 0) = true := by decide
/-- The mapped page is wished away: from a frame of the spill pool to a free one of the grant. -/
def wished : State := { pooled with wishes := [(0, 0x100000, true)], mem := writeLe pooled.mem 0x204800 8 0x4000000003D,
                                    mgmt := { pooled.mgmt with grantb := 0x80000000, grants := 0x100000 } }
theorem test_migration_start : ∃ lvl pa e, leafAt wished 0x100000 4 (wished.ctx 0).ptroot = some (lvl, pa, e) ∧
    wished.wished 0 (0x100000 / 2 ^ leafLog e * 2 ^ leafLog e) (!inDevice (leafFrame e (leafLog e)) 1) e = true ∧ e.getLsbD 9 = false ∧ e.getLsbD 10 = false ∧
    wished.isMigrating 0 0x100000 = false ∧ inDevice (leafFrame e (leafLog e)) 1 = false ∧
    frameTaken wished.retired (leafFrame e (leafLog e)) (2 ^ leafLog e) = false ∧
    wished.frameFree (!inDevice (leafFrame e (leafLog e)) 1) 0x80000000 (2 ^ leafLog e) = true :=
  ⟨0, 0x204800, 0x4000000003D, by decide +kernel⟩
/-- The other way, where firmware finds free memory short: the page holds no table and no error. -/
theorem test_demotion_start : let s : State := { pooled.modCtx 0 fun c => { c with st := .empty } with wishes := [(0, 0x100000, false)] }
    leafAt s 0x100000 4 (s.ctx 0).ptroot = some (0, 0x204800, 0x10003D) ∧ s.wished 0 0x100000 false 0x10003D = true ∧ inDevice (leafFrame 0x10003D (leafLog 0x10003D)) 1 = true ∧
    s.badAt (leafFrame 0x10003D (leafLog 0x10003D)) 4096 = false ∧ s.holdsTable (leafFrame 0x10003D (leafLog 0x10003D)) 4096 = false ∧
    frameTaken s.retired (leafFrame 0x10003D (leafLog 0x10003D)) 4096 = false ∧ s.frameFree false 0x40000000000 4096 = true := by
  decide +kernel
def aMigration (old : BitVec 64) : Migration := { ctx := 0, va := 0x100000, size := 4096, entry := 0x204800, old, new := 0x50003D }
def migrating_ (old : BitVec 64) : State := { parkedOn (.migrating 0x100000) s0 with migrating := [aMigration old] }
theorem test_migration_commit : (migrating_ 0x10003D).migrating.find? (fun m => m.ctx == 0 && m.va == 0x100000) = some (aMigration 0x10003D) ∧
    (migrating_ 0x10003D).stillOpen ((migrating_ 0x10003D).oldAccesses 0 0x100000 4096) = false ∧
    (migrating_ 0x10003D).phys64 0x204800 = 0x10003D ∧ inDevice (leafFrame 0x10003D (leafLog 0x10003D)) 4096 = true ∧
    inDevice (leafFrame 0x50003D (leafLog 0x50003D)) 4096 = true := by decide +kernel
theorem test_migration_inv : MemInv (migrating_ 0x10003D) ∧ NoneWait (migrating_ 0x10003D) 0 := by
  refine ⟨by unfold MemInv; decide +kernel, ?_⟩
  unfold NoneWait; decide
/-- The leaf has changed. -/
theorem test_migration_abandoned : (migrating_ 0).phys64 0x204800 ≠ (aMigration 0).old := by decide +kernel

/-! Groups and convoys -/

def onGroup (f : Group → Group) (s : State) : State := s.modGroup 3 f
/-- The group before its grant: v0 to v63 and no scratchpad of 192 and 256 KiB. -/
def ungranted (all : Bool) (s : State) : State :=
  onGroup (fun g => { g with granted := false, reservedAll := all, scratch := 0, preRegs := 64 }) (onWave (fun w => { w with regs := 64 }) s)
theorem test_acq : ∀ s ∈ [s0, ungranted true s0, ungranted false s0], ready s .acq e0 = true ∧ enabledOf .acq e0 (iss s).1 (iss s).2 ≠ 0 ∧
    (s.group? (iss s).1.group).isSome = true := by
  intro s hs
  simp only [List.mem_cons, List.not_mem_nil, or_false] at hs
  rcases hs with rfl | rfl | rfl <;> decide
theorem test_acq_meets : Meets .acq fun s e w sp => Enabled .acq e w sp ∧ ∃ g, s.group? w.group = some g ∧ g.granted = false ∧ g.reservedAll = false :=
  meets (ungranted false s0) e0 (by decide) ⟨by unfold Enabled; decide, _, rfl, by decide, by decide⟩
def asked : State := { ungranted false s0 with acqQ := [{ core := 0, ctx := 0, group := 3 }], cur := none }
theorem test_grant : asked.acqQ.find? (fun r => r.core == 0 && (asked.ctx r.ctx).st == .running) = some { core := 0, ctx := 0, group := 3 } ∧
    ∃ g, asked.group? 3 = some g ∧ asked.grantRoom g = true := ⟨by decide, _, rfl, by decide +kernel⟩
theorem test_grant_value : (nextOf (exec (.acqGrant 0) asked)).bind (fun t => (t.wave? 0).map (·.regs)) = some 192 := by decide +kernel
/-- Released to 8 registers and 16 bytes. -/
theorem test_grel : Meets .grel fun s e w sp => Enabled .grel e w sp ∧ (∃ g, s.group? w.group = some g) ∧
    w.clearAbove (max 8 (ceilTo ((issueOf .grel e w sp).sA false) 8)) = true ∧
    s.writesAbove 3 (ceilTo ((issueOf .grel e w sp).sB false) 16) = false :=
  meets (withS [(16, 1), (24, 1)] s0) (plain .grel) (by decide) ⟨by unfold Enabled; decide, ⟨_, rfl⟩, by decide, by decide⟩
theorem test_grel_complete : Waits (.grel 8 16 1 192) (waiting (.grel 8 16 1 192) s0) ∧ (iss s0).1.clearAbove 8 = true ∧
    (waiting (.grel 8 16 1 192) s0).writesAbove 3 16 = false := ⟨⟨_, _, rfl, by decide, by decide, rfl, by decide, by decide⟩, by decide, by decide⟩

/-- A READY kernel of one group of one wave; then its convoy reserved on core 0, lane 0, slot 0. -/
def k1 : Kernel := { placeKernel 0 with st := 1, next := 0, placed := 0, regs := 8, pregs := 8, bars := 1, scr := 16, pscr := 16, readyNo := 1 }
def launching : State := { s0 with kernels := [k1], convoys := [], groups := [], waves := [], lanes := [], cur := none }
def convoyed : State := (nextOf (exec (.convoyReserve 0) launching)).getD launching
theorem test_reserve : (launching.convoys.find? fun c => c.st == .reserving && (launching.ctx c.ctx).part == 0 && (launching.ctx c.ctx).st == .running) = none ∧
    launching.launchOrder 0 = [k1] ∧ k1.passed = false ∧
    (let k := { launching.beforeConvoy k1 0 with passed := true }
     let s := launching.modKernel 1 fun _ => k
     k.st = 2 ∧ ((s.diesFor k 0).findSome? fun d => s.placeOnDie k 0 d).isSome = true) := by decide +kernel
theorem test_reserve_value : convoyed.convoys.length = 1 ∧ convoyed.groups.length = 1 ∧ convoyed.waves = [] := by decide +kernel
theorem test_reserving : ((convoyed.convoys.find? fun c => c.st == .reserving && (convoyed.ctx c.ctx).part == 0 && (convoyed.ctx c.ctx).st == .running).bind
    fun c => convoyed.kernel? c.kernel).isSome = true := by decide +kernel
/-- The commit makes the wave at the kernel's code. -/
theorem test_commit_value : (nextOf (exec (.convoyReserve 0) convoyed)).map (fun t => (t.convoys.map (·.st), t.groups.map (·.st), t.waves.length)) =
    some ([.resident], [.running], 1) := by decide +kernel
def exited : State := { onWave (fun w => { w with splits := [] }) s0 with cur := none }
theorem test_wave_free : ∃ w, exited.wave? 0 = some w ∧ w.exited = true ∧ ∀ p ∈ w.pend, p.mask = 0 := ⟨_, rfl, by decide, by decide⟩
def retiring : State := { onGroup (fun g => { g with st := .done }) s0 with waves := [], lanes := [], cur := none }
theorem test_retire : ∃ c, retiring.convoy? 2 = some c ∧ c.st = .resident ∧ (retiring.ctx c.ctx).st ≠ .swapped ∧
    (∀ g ∈ retiring.members 2, g.st = .done) ∧ retiring.convoyBusy c = false ∧ (retiring.kernel? c.kernel).isSome = true :=
  ⟨placeConvoy 0, by decide, by decide, by decide, by decide, by decide, by decide⟩

/-! Queues -/

/-- Queue 5 of context 0 with a ring of 16 slots at the mapped page, one packet ahead. -/
def aQueue : Queue :=
  { num := 5, ctx := 0, desc := 0x9000, ring := 0x100000, rngs := 0, rd := 0, wr := 1, done := 0, doneSet := [], ecause := 0, eslot := 0,
    logn := 4, st := 1, mean := 0, tag := 0, onChip := true, idleSince := none, idle10 := false, waitAt := none, running := [], used := 0,
    parkedOn := none }
def withQ (q : Queue) (s : State) : State := { s with queues := [q] }
def qS (a lo hi : Word) : State := withS [(16, a), (17, 0), (24, lo), (25, hi)] (withQ aQueue s0)
/-- A DOORBELL with the index 16, the last that the ring takes; one with 17; a DISABLE. -/
theorem test_qpost : ∀ x ∈ [((16 : Nat), (0 : Nat)), (17, 0), (0, 0x40000000)], Meets .qpost fun s e w sp => Enabled .qpost e w sp ∧
    ∃ q, (issueOf .qpost e w sp).queueOf? s ((issueOf .qpost e w sp).sA false) = some q ∧ q.onChip = true ∧ q.st < 3 ∧
      ReleaseDone (issued .qpost e s w sp) w.uid sp.mask ∧ sp.spair e.b.toNat = BitVec.ofNat 32 x.2 ++ BitVec.ofNat 32 x.1 := by
  have h : ∀ x ∈ [((16 : Nat), (0 : Nat)), (17, 0), (0, 0x40000000)], let s := qS 5 (BitVec.ofNat 32 x.1) (BitVec.ofNat 32 x.2)
      ready s .qpost (plain .qpost) = true ∧
      let i := issueOf .qpost (plain .qpost) (iss s).1 (iss s).2
      i.en ≠ 0 ∧ i.queueOf? s (i.sA false) = some aQueue ∧
      released? (issued .qpost (plain .qpost) s (iss s).1 (iss s).2) 0 i.sp.mask = true ∧ i.sp.spair i.e.b.toNat = BitVec.ofNat 32 x.2 ++ BitVec.ofNat 32 x.1 := by
    decide
  intro x hx
  obtain ⟨h1, h2, h3, h4, h5⟩ := h x hx
  exact meets _ _ h1 ⟨h2, aQueue, h3, rfl, by decide, releaseDone h4, h5⟩
theorem test_no_queue : ∀ op ∈ [Op.qpost, .qwait, .qstat], Meets op fun s e w sp => Enabled op e w sp ∧
    (issueOf op e w sp).queueOf? s (if op = .qpost then (issueOf op e w sp).sA false else (issueOf op e w sp).sB false) = none := by
  have h : ∀ op ∈ [Op.qpost, .qwait, .qstat], ready s0 op (plain op) = true ∧
      let i := issueOf op (plain op) (iss s0).1 (iss s0).2
      i.en ≠ 0 ∧ i.queueOf? s0 (if op = .qpost then i.sA false else i.sB false) = none := by decide
  exact fun op hm => meets s0 (plain op) (h op hm).1 (h op hm).2
/-- A wait for the state RUNNING (1), which holds, and for IDLE (0); for the counts 0 and 1. -/
theorem test_qwait : ∀ x ∈ [((0 : Nat), (1 : Nat)), (0, 0), (1, 0), (1, 1)], Meets .qwait fun s e w sp => Enabled .qwait e w sp ∧
    e.opx = BitVec.ofNat 5 x.1 ∧ (∃ q, (issueOf .qwait e w sp).queueOf? s ((issueOf .qwait e w sp).sB false) = some q) ∧
    (issueOf .qwait e w sp).sA false = x.2 := by
  have h : ∀ x ∈ [((0 : Nat), (1 : Nat)), (0, 0), (1, 0), (1, 1)], let s := qS (BitVec.ofNat 32 x.2) 5 0
      ready s .qwait { plain .qwait with opx := BitVec.ofNat 5 x.1 } = true ∧
      let i := issueOf .qwait { plain .qwait with opx := BitVec.ofNat 5 x.1 } (iss s).1 (iss s).2
      i.en ≠ 0 ∧ i.queueOf? s (i.sB false) = some aQueue ∧ i.sA false = x.2 := by decide
  intro x hx
  obtain ⟨h1, h2, h3, h4⟩ := h x hx
  exact meets _ _ h1 ⟨h2, rfl, ⟨_, h3⟩, h4⟩
theorem test_qstat : ∀ k < 5, Meets .qstat fun s e w sp => Enabled .qstat e w sp ∧ e.opx.toNat = k ∧
    ∃ q, (issueOf .qstat e w sp).queueOf? s ((issueOf .qstat e w sp).sB false) = some q := by
  have h : ∀ k < 5, let s := qS 0 5 0
      ready s .qstat { plain .qstat with opx := BitVec.ofNat 5 k } = true ∧
      let i := issueOf .qstat { plain .qstat with opx := BitVec.ofNat 5 k } (iss s).1 (iss s).2
      i.en ≠ 0 ∧ i.e.opx.toNat = k ∧ i.queueOf? s (i.sB false) = some aQueue := by decide
  intro k hk
  obtain ⟨h1, h2, h3, h4⟩ := h k hk
  exact meets _ _ h1 ⟨h2, h3, _, h4⟩
/-- `KSTAT` of the live kernel, whose record is at 0, and of a record in the mapped page. -/
theorem test_kstat : Meets .kstat fun s e w sp => Enabled .kstat e w sp ∧
    ∃ k, (s.kernels.find? fun k => k.ctx == w.ctx && decide (k.st < 5) && k.recA.toNat == (sp.spair e.b.toNat).toNat) = some k :=
  meets s0 (plain .kstat) (by decide) ⟨by unfold Enabled; decide, placeKernel 0, by decide⟩
def recState (x : Nat) : State := let s := withS [(24, 0x100040)] s0; { s with mem := writeLe s.mem 0x100040 16 x }
theorem test_kstat_record : ∀ x ∈ [0, 5 + 7 * 2 ^ 64 + 9 * 2 ^ 96], ready (recState x) .kstat (plain .kstat) = true ∧
    (let s := recState x
     let i := issueOf .kstat (plain .kstat) (iss s).1 (iss s).2
     i.en ≠ 0 ∧ (i.sp.spair i.e.b.toNat).toNat = 0x100040 ∧
     (s.kernels.find? fun k => k.ctx == 0 && decide (k.st < 5) && k.recA.toNat == 0x100040) = none ∧
     released? (issued .kstat (plain .kstat) s (iss s).1 (iss s).2) 0 i.sp.mask = true ∧
     translate s .io none 0 0x100040 .read (s.waveSup i.w) = .ok (mappedTlb .io) 0x100040 ∧
     inDevice 0x100040 16 = true ∧ s.badAt 0x100040 16 = false ∧ readLe s.mem 0x100040 16 = x) := by decide +kernel
/-- `.shedw` reads its word beside bytes 0 to 15. -/
theorem test_kstat_shed : let s := recState 5
    let e := { plain .kstat with opx := 3, a := 16, ak := .sca }
    ready s .kstat e = true ∧ translate (s.fill (mappedTlb .io)) .io none 0 (0x100040 + 32 + 4 * (issueOf .kstat e (iss s).1 (iss s).2).sA false)
      .read true = .ok (mappedTlb .io) 0x100060 ∧ inDevice 0x100060 4 = true ∧ s.badAt 0x100060 4 = false := by decide +kernel
theorem test_kstat_value : (nextOf (exec (.kstat { plain .kstat with opx := 1 }) (recState (5 + 7 * 2 ^ 64)))).bind
    (fun t => (t.wave? 0).bind fun w => (w.split? 0).map fun p => p.sreg 8) = some 7 := by decide +kernel

/-- Commands of the host on queue 5: the index 16 for a DOORBELL; a RESUME of the queue in ERROR at 1. -/
theorem test_doorbell : (withQ aQueue s0).queue? 5 = some aQueue ∧ aQueue.onChip = true ∧ 16 ≤ aQueue.rd + 2 ^ aQueue.logn := by decide
theorem test_resume : (withQ { aQueue with st := 3 } s0).queue? 5 = some { aQueue with st := 3 } ∧ aQueue.rd ≤ 1 ∧ 1 ≤ aQueue.wr := by decide
theorem test_no_such_queue : s0.queue? 5 = none := by decide
/-- Binding: a descriptor of 16 slots of context 0 at 0x9000, and one whose slots are too few. -/
def descBytes (logn : Nat) : Nat := 0x100000 + logn * 8 * 2 ^ (8 * 44)
def binding (logn : Nat) : State := { s0 with mem := writeLe s0.mem 0x9000 64 (descBytes logn), mgmt := { s0.mgmt with qdesc := 0x9000 } }
theorem test_bind : (binding 4).queue? 5 = none ∧ inDevice (binding 4).mgmt.qdesc 64 = true ∧ (binding 4).badAt (binding 4).mgmt.qdesc 64 = false ∧
    descriptorBad (readLe (binding 4).mem 0x9000 64) = false ∧
    ((binding 4).ctx (pktField (readLe (binding 4).mem 0x9000 64) 44 4 / 2 ^ 8 % 2 ^ 6)).st ≠ .empty ∧
    descriptorBad (readLe (binding 3).mem 0x9000 64) = true := by decide +kernel
theorem test_bind_value : (nextOf (exec (.queueBind 5) (binding 4))).bind (fun t => (t.queue? 5).map fun q => (q.ring, q.logn, q.onChip)) =
    some (0x100000, 4, true) := by decide +kernel
/-- 64 cached queues, of which number 0 has been used longest ago; a parked queue. -/
def cached64 : State := { s0 with queues := (List.range 64).map fun k => { aQueue with num := k, used := k, st := 0, wr := 0 } }
theorem test_evict : ∃ x, cached64.queue? 0 = some x ∧ cached64.evictable x = true ∧ 64 ≤ cached64.cached.length ∧
    ∀ y ∈ cached64.cached, cached64.evictable y = true → x.used ≤ y.used :=
  ⟨{ aQueue with num := 0, st := 0, wr := 0 }, by decide +kernel, by decide +kernel, by decide +kernel, by decide +kernel⟩
theorem test_reload : (withQ { aQueue with onChip := false } s0).queue? 5 = some { aQueue with onChip := false } ∧
    (withQ { aQueue with onChip := false } s0).cached.length < 64 := by decide
/-- The ring's memory is zero, so its head header is not valid; it has been idle for 10 µs. -/
def idleQ : Queue := { aQueue with idleSince := some 0 }
def idleFor : State := { withQ idleQ s0 with pt := 10000 }
/-- What the command processor reads at an address. -/
def cpSees (s : State) (c va n : Nat) : Option Nat := match s.cpRead c va n with | .ok (x, _) => some x | _ => none
theorem cpRead_of {s : State} {c va n x : Nat} (h : cpSees s c va n = some x) : ∃ s', s.cpRead c va n = .ok (x, s') := by
  unfold cpSees at h
  split at h
  · rename_i y s' hy
    exact ⟨s', by simpa [Option.some.inj h] using hy⟩
  · simp at h
theorem test_head_timeout : idleFor.queue? 5 = some idleQ ∧ idleQ.idle10 = false ∧ idleQ.st = 1 ∧ 10000 ≤ idleFor.pt.toNat ∧
    ∃ p s', idleFor.cpRead idleQ.ctx (slotOf idleQ.ring idleQ.logn idleQ.rd) 64 = .ok (p, s') ∧ headerOk idleQ (pktField p 0 4) = false := by
  obtain ⟨s', h⟩ := cpRead_of (s := idleFor) (c := 0) (va := 0x100000) (n := 64) (x := 0) (by decide +kernel)
  exact ⟨by decide, rfl, rfl, by decide, 0, s', h, by decide⟩

/-! Packets -/

/-- A packet of a type as the head of the ring: bytes 4 to 7, 8 to 15, 16 to 23, 24 to 31. -/
def pkt (ty k a b c : Nat) : Nat := ty * 2 ^ 26 + 2 ^ 25 + k * 2 ^ 32 + a * 2 ^ 64 + b * 2 ^ 128 + c * 2 ^ 192
def headed (p : Nat) : State := let s := withQ aQueue s0; { s with mem := writeLe s.mem 0x100000 64 p }
/-- A `SIGNAL` that writes 7 at 0x100080, and a type that does not exist. -/
theorem test_dispatch : ∀ x ∈ [(pkt 3 0 0x100080 7 0, (0 : Nat)), (pkt 7 0 0 0 0, 1)], (headed x.1).queue? 5 = some aQueue ∧
    (headed x.1).mayDispatch aQueue = true ∧ aQueue.parkedOn = none ∧ headerOk aQueue (pktField x.1 0 4) = true ∧
    pktField x.1 0 4 / 2 ^ 20 % 16 = 0 ∧ (headed x.1).itable.length ≤ 512 ∧ pktField x.1 0 4 / 2 ^ 26 ≠ 0 ∧
    cpSees (headed x.1) 0 0x100000 64 = some x.1 ∧ (headed x.1).packetCause aQueue x.1 0 = x.2 := by decide +kernel
theorem test_dispatch_idle : (headed 0).mayDispatch aQueue = true ∧ cpSees (headed 0) 0 0x100000 64 = some 0 ∧ headerOk aQueue 0 = false ∧
    aQueue.idleSince = none := by decide +kernel
/-- Queue 5 with a packet taken, at index 0. -/
def taken (p : Nat) (started : Bool) : RPkt := { index := 0, ty := p / 2 ^ 26 % 2 ^ 6, body := p, ord := false, started, parked := none, order := 1 }
def takenQ (p : Nat) (started : Bool) : Queue := { aQueue with rd := 1, running := [taken p started] }
def took (p : Nat) : State := withQ (takenQ p false) s0
/-- A `LAUNCH` of one group of one wave. -/
def launchPkt : Nat := pkt 1 (0x94000000 + 31) (1 * 2 ^ 27 + 1 * 2 ^ 22) 0x100000 (1 + 2 ^ 32 + 2 ^ 48) +
  (2 ^ 64 - 1) * 2 ^ 256 + 0xFFFFFFFF * 2 ^ 320 + 0x100040 * 2 ^ 448
theorem test_launch : (took launchPkt).waitingPacket 5 0 1 = some (takenQ launchPkt false, taken launchPkt false) ∧ launchBad launchPkt = false := by
  decide +kernel
theorem test_launch_value : (nextOf (exec (.packetLaunch 5 0) (took launchPkt))).map (fun t => (t.kernels.getLast?.map fun k => (k.st, k.gthr, k.regs, k.nx))) =
    some (some (0, 32, 8, 1)) := by decide +kernel
def copyPkt : Nat := pkt 2 0 0x100080 0x1000C0 4
theorem test_copy_packet : (took copyPkt).waitingPacket 5 0 2 = some (takenQ copyPkt false, taken copyPkt false) ∧
    (took copyPkt).heldPacket (takenQ copyPkt false) (taken copyPkt false) = false := by decide +kernel
def aCopy (failed : Bool) : PktCopy :=
  { id := 500, ctx := 0, q := 5, index := 0, src := 0x100080, dst := 0x1000C0, len := 4, prog := 4, failed, parked := none }
def copying (failed : Bool) : State := { withQ (takenQ copyPkt true) s0 with pktCopies := [aCopy failed] }
theorem test_copy_complete : ∀ f ∈ [true, false], (copying f).pktCopies.find? (fun c => c.id == 500) = some (aCopy f) ∧
    (copying f).queue? 5 = some (takenQ copyPkt true) ∧ (aCopy f).len ≤ (aCopy f).prog := by decide +kernel
def signalPkt : Nat := pkt 3 4 0x100080 7 0
/-- Where an agent's access goes. -/
def agentPa (s : State) (k : AccKind) (va n : Nat) : Option Nat :=
  match s.agentReach 0 true k va n with | .ok (.phys pa, _) => some pa | _ => none
theorem agentReach_of {s : State} {k : AccKind} {va n pa : Nat} (h : agentPa s k va n = some pa) :
    ∃ tl, s.agentReach 0 true k va n = .ok (.phys pa, tl) := by
  unfold agentPa at h
  split at h
  · rename_i p tl hp
    exact ⟨tl, by simpa [Option.some.inj h] using hp⟩
  · simp at h
theorem test_signal : (took signalPkt).waitingPacket 5 0 3 = some (takenQ signalPkt false, taken signalPkt false) ∧
    (took signalPkt).heldPacket (takenQ signalPkt false) (taken signalPkt false) = false ∧ ((took signalPkt).ctx 0).ksup = true ∧
    agentPa (took signalPkt) .write 0x100080 8 = some 0x100080 ∧ pktField signalPkt 4 4 / 4 % 2 = 1 := by decide +kernel
theorem test_signal_value : (nextOf (exec (.packetSignal 5 0) (took signalPkt))).map (fun t => (readLe t.mem 0x100080 8, t.msix)) =
    some (7, [1]) := by decide +kernel
/-- A `WAIT` for PT 0, which is reached, and for PT 1. -/
def waitPkt (v : Nat) : Nat := pkt 4 3 0 v 0
theorem test_wait_packet : ∀ v ∈ [0, 1], (took (waitPkt v)).waitingPacket 5 0 4 = some (takenQ (waitPkt v) false, taken (waitPkt v) false) ∧
    (took (waitPkt v)).heldPacket (takenQ (waitPkt v) false) (taken (waitPkt v) false) = false ∧ pktField (waitPkt v) 4 4 % 4 = 3 ∧
    (took (waitPkt v)).reached (BitVec.ofNat 64 (pktField (waitPkt v) 16 8)) = decide (v = 0) := by decide +kernel
def waitingQ : Queue := { takenQ (waitPkt 0) true with waitAt := some 0, st := 2 }
theorem test_wait_met : (withQ waitingQ s0).queue? 5 = some waitingQ ∧ (withQ waitingQ s0).packet? 5 0 = some (taken (waitPkt 0) true) ∧
    mayGoOn (withQ waitingQ s0) 0 none = true ∧ (withQ waitingQ s0).heldPacket waitingQ (taken (waitPkt 0) true) = false := by decide +kernel

/-! Kernels -/

def pendingKernel (param : DWord) : Kernel := { k1 with st := 0, q := 5, index := 0, param }
def parameterless (param : DWord) : State := { took launchPkt with kernels := [pendingKernel param] }
theorem test_parameters : ∀ param ∈ [0, 0x100080], (parameterless (BitVec.ofNat 64 param)).kernel? 1 = some (pendingKernel (BitVec.ofNat 64 param)) ∧
    (parameterless (BitVec.ofNat 64 param)).queue? 5 = some (takenQ launchPkt false) ∧
    (parameterless (BitVec.ofNat 64 param)).packet? 5 0 = some (taken launchPkt false) ∧
    (parameterless (BitVec.ofNat 64 param)).heldPacket (takenQ launchPkt false) (taken launchPkt false) = false ∧
    mayGoOn (parameterless (BitVec.ofNat 64 param)) 0 none = true ∧
    (cpSees (parameterless (BitVec.ofNat 64 param)) 0 0x100080 64).isSome = true := by decide +kernel
def draining : State := { retiring with kernels := [{ placeKernel 0 with placed := 1, retired := 1 }], convoys := [], groups := [] }
theorem test_kernel_finish : ∃ k, draining.kernel? 1 = some k ∧ mayGoOn draining k.ctx k.parkedOn = true ∧ k.st = 3 ∧ draining.drainedKernel k = true :=
  ⟨_, rfl, by decide, by decide, by decide +kernel⟩

/-- The record of a FINISHING kernel in the mapped page, beyond the virtual space, and in an absent page. -/
def finisher (rec_ : DWord) : Kernel := { placeKernel 0 with st := 4, q := 5, index := 0, recA := rec_ }
def finishing (rec_ : DWord) : State :=
  { withQ (takenQ launchPkt true) retiring with kernels := [finisher rec_], convoys := [], groups := [] }
def probeCode (s : State) (k : Kernel) : Nat := match cpProbe s k.ctx k.recA.toNat (k.body.length + 1) with
  | (.ok (), _) => 0
  | (.fail _, _) => 1
  | (.wait x, va) => match s.cpPark k.ctx va .write x with | .ok _ => 2 | .error _ => 3
theorem test_kernel_record : ∀ x ∈ [((0x100040 : DWord), (0 : Nat)), (0x200000000000000, 1), (0x5000, 2)],
    (finishing x.1).kernel? 1 = some (finisher x.1) ∧ (finisher x.1).det = [] ∧ mayGoOn (finishing x.1) 0 (finisher x.1).parkedOn = true ∧
    let s2 := (finishing x.1).modKernel 1 fun k => { k with st := 4, donePT := (finisher x.1).donePT, det := [], parkedOn := none }
    ∃ k2 ∈ s2.kernel? 1, (s2.queue? k2.q).isSome = true ∧ probeCode s2 k2 = x.2 := by decide +kernel

/-! Teams and tasks -/

/-- A team of two waves; the roll call of an instruction at which the other wave has arrived. -/
def teamed (calls : List RollCall) : State :=
  onGroup (fun g => { g with team := 2, waves := 2, calls }) { s0 with waves := s0.waves ++ [{ placeWave 0 with uid := 10, idx := 1, lane := 1 }] }
/-- `MPOST` with one step of a 64 by 64 block, and the posts of one tile. -/
def mpostEnc : Enc := { e0 with form := .block, d := 1, a := 16, ak := .sca, ty := 2, p0 := 0x4100, p1 := 0x1000, p2 := 0x2000, p3 := 0x404001 }
def teamEnc : Op → Enc
  | .mpost => mpostEnc
  | .aclr => { e0 with d := 1 }
  | .acst => { e0 with a := 1, b := 24, bk := .sca }
  | _ => { e0 with d := 1, b := 24, bk := .sca }
def teamSrcs : Op → List DWord
  | .mpost => [0, 0]
  | .aclr => []
  | _ => [0x403000]
def call (op : Op) (arrived : List (Nat × Nat)) (full : Option Nat) : RollCall := { team := 0, op, e := teamEnc op, srcs := teamSrcs op, arrived, full }
def teamOps : List Op := [.mpost, .aclr, .acld, .acst]
def teamState (op : Op) (first : Bool) : State := withS [(24, 0x403000)] (teamed (if first then [] else [call op [(10, 0)] none]))
theorem ready_team : ∀ op ∈ teamOps, ∀ f ∈ [true, false], ready (teamState op f) op (teamEnc op) = true ∧
    enabledOf op (teamEnc op) (iss (teamState op f)).1 (iss (teamState op f)).2 ≠ 0 := by decide
/-- The checks and the roll call of the statement about team instructions. -/
def teamMeets (op : Op) (first : Bool) : Bool :=
  let s := teamState op first
  let i := issueOf op (teamEnc op) (iss s).1 (iss s).2
  let s1 := issued op (teamEnc op) s (iss s).1 (iss s).2
  match s1.group? 3 with
  | none => false
  | some g =>
    (if op = .mpost then i.subBlock mpostCounts (2 ^ 14 - 1) == some mpostEnc && mpostTrap s1 g mpostEnc (mGeo mpostEnc [BitVec.ofNat 64 (i.sA false), 0]) == none &&
      i.mpostSrcs mpostEnc == teamSrcs op
     else op == .aclr || (i.accTrap g == none && BitVec.ofNat 64 (i.sB false) == 0x403000)) &&
    decide (s1.teamOf i.w = some (0, 2) ∧ 2 ≤ (s1.teamWaves g.uid 0 2).length ∧ s1.tableRoom (clusterOf g.core) = true) &&
    (if first then g.calls.isEmpty else g.calls == [call op [(10, 0)] none])
theorem test_team : ∀ op ∈ teamOps, ∀ f ∈ [true, false], teamMeets op f = true := by decide +kernel
def teamNext (op : Op) : State := (nextOf (exec (Instr.ofOp (teamEnc op) op) (teamState op false))).getD s0
theorem test_team_value : ∀ op ∈ teamOps, (teamNext op).tasks.map (fun k => (k.op, k.members)) = [(op, [(0, 1), (10, 1)])] ∧
    ((teamNext op).wave? 0).bind (fun w => (w.split? 0).map fun p => p.pc.toNat) = some (0x100000 + 4 * (teamEnc op).form.words) := by
  decide +kernel

/-- `SEEDSCAN` over 16 elements, `SEEDGEN` of one column of 16, and `BEAM`. -/
def aloneEnc : Op → Enc
  | .seedscan => { e0 with form := .block, a := 16, ak := .sca, b := 24, bk := .sca, p0 := 0x1000, p1 := 0x1000, p2 := 0x2000 }
  | .seedgen => { e0 with form := .block, a := 16, ak := .sca, b := 24, bk := .sca, p0 := 0x20040, p1 := 0x1000, p2 := 0x2000, p3 := 0x400000 }
  | _ => { e0 with form := .block, a := 16, ak := .sca, b := 24, bk := .sca, p0 := 0x1000, p1 := 0x2000 }
def aloneTrap (op : Op) (s : State) : Option (Option (Cause × Nat)) :=
  let i := issueOf op (aloneEnc op) (iss s).1 (iss s).2
  let e := aloneEnc op
  (s.group? 3).bind fun g => match op with
    | .seedscan => if i.subBlock scanCounts (2 ^ 8 - 1) = some e then some (scanTrap s g e (scanGeo e i.seedSrcs)) else none
    | .seedgen => if i.subBlock genCounts (2 ^ 13 - 1) = some e then some (genTrap s g e (genGeo e i.seedSrcs)) else none
    | _ => if i.subBlock [] (2 ^ 32 - 1) = some e then some (beamTrap g e (i.sp.spair e.a.toNat).toNat) else none
def aTask (op : Op) (id : Nat) (st : TaskState) (begun : Bool) : Task :=
  { id, cl := 0, op, e := teamEnc op, srcs := teamSrcs op, ctx := 0, sup := true, kernel := 1, group := 3, team := some 0, tl := 4,
    members := [(0, 1), (10, 1)], cls := 2, dl := 0, st, prog := 0, begun, flags := 0, coef := none, vals := [], cancel := false, failed := none,
    parked := none, parkVa := 0, after := [], spans := [] }
def aloneOps : List Op := [.seedscan, .seedgen, .beam]
/-- Room; a full timeline; a full table. -/
def aloneStates : List State := [s0, fullTl 0, { s0 with tasks := (List.range 16).map fun k => aTask .aclr (400 + k) .queued false }]
theorem test_alone : ∀ op ∈ aloneOps, ∀ s ∈ aloneStates, ready s op (aloneEnc op) = true ∧ (iss s).1.tls.length = 8 ∧
    enabledOf op (aloneEnc op) (iss s).1 (iss s).2 ≠ 0 ∧ aloneTrap op s = some none := by decide +kernel
theorem test_alone_room : aloneStates.map (fun s => (((iss s).1.tl 0).open_.length, s.tableRoom 0)) = [(0, true), (64, true), (0, false)] := by
  decide +kernel

/-- A task of the issuing wave's team on its tl4, which a scalar pair names. -/
def tasked (op : Op) (st : TaskState) (begun : Bool) : State := { withS [(24, 1)] (teamed []) with tasks := [aTask op 400 st begun] }
theorem test_task_instructions : ∀ op ∈ [Op.mstat, .mcncl], Meets op fun s e w sp => Enabled op e w sp ∧
    s.teamTask? w.uid (sp.spair e.b.toNat).toNat = some (aTask .aclr 400 .queued false) := by
  have h : ∀ op ∈ [Op.mstat, .mcncl], ready (tasked .aclr .queued false) op (plain op) = true ∧
      enabledOf op (plain op) (iss (tasked .aclr .queued false)).1 (iss (tasked .aclr .queued false)).2 ≠ 0 ∧
      (tasked .aclr .queued false).teamTask? (iss (tasked .aclr .queued false)).1.uid
        ((iss (tasked .aclr .queued false)).2.spair (plain op).b.toNat).toNat = some (aTask .aclr 400 .queued false) := by decide
  exact fun op hm => meets _ (plain op) (h op hm).1 (h op hm).2
theorem test_mcncl_begun : Meets .mcncl fun s e w sp => Enabled .mcncl e w sp ∧
    s.teamTask? w.uid (sp.spair e.b.toNat).toNat = some (aTask .aclr 400 .running true) :=
  meets (tasked .aclr .running true) (plain .mcncl) (by decide) ⟨by unfold Enabled; decide, by decide⟩
theorem test_mcncl_none : Meets .mcncl fun s e w sp => Enabled .mcncl e w sp ∧ s.teamTask? w.uid (sp.spair e.b.toNat).toNat = none :=
  meets s0 (plain .mcncl) (by decide) ⟨by unfold Enabled; decide, by decide⟩

/-! The matrix engine -/

def fullCall : State := { teamed [call .aclr [(0, 0), (10, 0)] (some 500)] with cur := none }
theorem test_full_call : (sortBy (fun x : Nat × Group × RollCall => x.1)
      ((fullCall.fullCalls 0).filter fun x => (fullCall.ctx x.2.1.ctx).st == .running)).map (fun x => (x.1, x.2.2)) =
      [(500, call .aclr [(0, 0), (10, 0)] (some 500))] ∧
    fullCall.tableUsed 0 < 16 ∧ (fullCall.ctx 0).st = .running ∧ (fullCall.wave? 0).isSome = true := by decide
theorem test_tile_bind : (tasked .aclr .queued false).bindNext 0 = some (aTask .aclr 400 .queued false) := by decide
def bound (op : Op) (st : TaskState) (begun : Bool) : State :=
  { tasked op st begun with tiles := [{ cl := 0, group := 3, team := 0, count := 4, tiles := [(4096, 1), (8192, 1)] }] }
theorem test_pass : (bound .aclr .queued false).engineFree 0 = true ∧ (bound .aclr .queued false).grantPass 0 = some (aTask .aclr 400 .queued false) ∧
    (bound .aclr .queued false).task? 400 = some (aTask .aclr 400 .queued false) ∧
    availAll (bound .aclr .queued false) (taskNeeds (bound .aclr .queued false) (aTask .aclr 400 .queued false)) = .ok := by decide
/-- An image beyond the scratchpad so far, before the grant and after it. -/
def beyond (granted : Bool) (st : TaskState) : State := onGroup (fun g => { g with scratch := 0, granted }) (bound .acld st false)
theorem test_pass_wait : ∀ g ∈ [true, false], (beyond g .queued).grantPass 0 = some (aTask .acld 400 .queued false) ∧
    availAll (beyond g .queued) (taskNeeds (beyond g .queued) (aTask .acld 400 .queued false)) = (if g then .fail .space 0x3000 else .wait) := by decide
theorem test_operand_available : (bound .aclr .parked false).task? 400 = some (aTask .aclr 400 .parked false) ∧
    (aTask .aclr 400 .parked false).passes = true ∧ ((bound .aclr .parked false).ctx 0).st = .running ∧
    availAll (bound .aclr .parked false) (taskNeeds (bound .aclr .parked false) (aTask .aclr 400 .parked false)) ≠ .wait := by decide
/-- One step that ends its task, and the first of two. -/
theorem test_step_complete : (bound .aclr .running true).tasks.find? (fun t => t.cl == 0 && t.begun) = some (aTask .aclr 400 .running true) ∧
    taskSteps (aTask .aclr 400 .running true) = 1 ∧
    availAll (bound .aclr .running true) (taskNeeds (bound .aclr .running true) (aTask .aclr 400 .running true)) = .ok := by decide
theorem test_step_two : let t := { aTask .mpost 400 .running true with e := { mpostEnc with p0 := 0x8100, p3 := 0x808001 } }
    let s := { bound .mpost .running true with tasks := [t] }
    s.tasks.find? (fun t => t.cl == 0 && t.begun) = some t ∧ taskSteps t = 2 ∧ availAll s (taskNeeds s t) = .ok := by decide +kernel
theorem test_step_value : (nextOf (exec (.matrixStepComplete 0) (bound .aclr .running true))).map (fun t => (t.tasks, t.tiles.map (·.tiles))) =
    some ([], [[(8192, 1)]]) := by decide
theorem test_class_owed : ({ s0 with mcount := [(0, 2, 64)] } : State).passCount 0 2 = 64 ∧ s0.mowed = [] := by decide
def beamTask : Task := { aTask .beam 400 .queued false with e := aloneEnc .beam, srcs := [0x100000, 0], team := none, members := [(0, 1)], tl := 0 }
/-- A beam whose root is the zero node of the mapped page. -/
def beaming : State := { s0 with tasks := [beamTask], cur := none }
theorem test_beam : beaming.task? 400 = some beamTask ∧ (beaming.group? 3).isSome = true ∧ beaming.taskReleased beamTask = true ∧
    (beamDesc (spdBytes (placeGroup 0) 0x1000 64)).getD 14 0 = 0 ∧ (beamDesc (spdBytes (placeGroup 0) 0x1000 64)).getD 15 0 = 0 ∧
    availAll beaming (beamNeeds (placeGroup 0) beamTask) = .ok ∧ (beaming.ctx 0).st = .running ∧
    (beamRays beaming beamTask (beamDesc (spdBytes (placeGroup 0) 0x1000 64))).2.2.isNone = true := by decide +kernel

/-- Tiles and a key that the block does not write; a task whose group and tiles are there. -/
theorem test_mpost_frame : (mGeo mpostEnc []).m = 16 ∧ (mGeo mpostEnc []).n = 16 ∧ tileKey 1 16 0 = 5120 := by decide
theorem test_aclr_step : ((bound .aclr .running true).group? (aTask .aclr 400 .running true).group).isSome = true ∧
    ((bound .aclr .running true).bind? (aTask .aclr 400 .running true)).isSome = true := by decide


/-! Rays and pixels -/

/-- A root at the mapped page, one at 2^57, and one that is not a multiple of 128. -/
def traceS (lo hi : Word) : State := withS [(24, lo), (25, hi)] s0
theorem test_trace : ∀ x ∈ [((0x100000 : Nat), (0 : Nat)), (0, 0x2000000), (64, 0)], Meets .trace fun _ e w sp => Enabled .trace e w sp ∧
    sp.spair e.b.toNat = BitVec.ofNat 32 x.2 ++ BitVec.ofNat 32 x.1 := by
  have h : ∀ x ∈ [((0x100000 : Nat), (0 : Nat)), (0, 0x2000000), (64, 0)], ready (traceS (BitVec.ofNat 32 x.1) (BitVec.ofNat 32 x.2)) .trace (plain .trace) = true ∧
      enabledOf .trace (plain .trace) (iss (traceS (BitVec.ofNat 32 x.1) (BitVec.ofNat 32 x.2))).1 (iss (traceS (BitVec.ofNat 32 x.1) (BitVec.ofNat 32 x.2))).2 ≠ 0 ∧
      (iss (traceS (BitVec.ofNat 32 x.1) (BitVec.ofNat 32 x.2))).2.spair (plain .trace).b.toNat = BitVec.ofNat 32 x.2 ++ BitVec.ofNat 32 x.1 := by decide
  exact fun x hx => meets _ _ (h x hx).1 (h x hx).2
/-- A frame descriptor of 2 by 1 RGB pixels of 8 bits in a buffer at 0x100400. -/
def fd (flow st lgrp pol : Nat) : Nat :=
  packElems 32 [0, 0, 0, 0, 0x100400, 0, 0, 0, st + pol * 2 ^ 7 + lgrp * 2 ^ 9 + flow * 2 ^ 11, 0x10002, 64, 3]
/-- Stream register 0 of core 0 with a flow bound and a current frame at 0x100200. -/
def streaming (flow st : Nat) (s : State) : State :=
  s.modCtx 0 fun c => { c with binds := [(0, flow)], curs := [(0, 0x100200, fd flow st 0 0)] }
theorem test_pixels : ∀ x ∈ [(Op.pxl, (5 : Nat)), (.pxs, 130)], ready (streaming x.2 1 s0) x.1 (plain x.1) = true ∧
    enabledOf x.1 (plain x.1) (iss (streaming x.2 1 s0)).1 (iss (streaming x.2 1 s0)).2 ≠ 0 ∧
    ((issueOf x.1 (plain x.1) (iss (streaming x.2 1 s0)).1 (iss (streaming x.2 1 s0)).2).pixelTrap (streaming x.2 1 s0) (x.2 == 130) [1, 3]).isNone =
      true := by decide +kernel
theorem test_pxs : let s := streaming 130 1 (oneThread s0)
    let i := issueOf .pxs (plain .pxs) (iss s).1 (iss s).2
    let s1 := issued .pxs (plain .pxs) s (iss s).1 (iss s).2
    i.pixelTrap s1 true [1, 3] = none ∧ ∃ oks, AllReach s1 i pxsAsk (pxsAccs i s1) oks ∧ (∀ x ∈ oks, ∀ g va pa, x.1.place ≠ .det g va pa) ∧
      oks.length = 3 := by
  intro s i s1
  have h : i.pixelTrap s1 true [1, 3] = none ∧ ((reached? s1 i pxsAsk (pxsAccs i s1)).map fun o => notDet o && o.length == 3) = some true := by
    decide +kernel
  obtain ⟨o, ho, hn⟩ := Option.map_eq_some_iff.mp h.2
  simp only [Bool.and_eq_true, beq_iff_eq] at hn
  exact ⟨h.1, o, allReach_of ho, notDet_of hn.1, hn.2⟩
def hitEnc : Enc := { e0 with d := 8, a := 16, bk := .imm }
theorem test_hitld : Meets .hitld fun s e w sp => Enabled .hitld e w sp ∧
    ∃ oks, AllReach (issued .hitld e s w sp) (issueOf .hitld e w sp) hitldAsk (hitldAccs (issueOf .hitld e w sp)) oks ∧ oks ≠ [] := by
  have h : ready (oneThread s0) .hitld hitEnc = true ∧
      enabledOf .hitld hitEnc (iss (oneThread s0)).1 (iss (oneThread s0)).2 ≠ 0 ∧
      ((reached? (issued .hitld hitEnc (oneThread s0) (iss (oneThread s0)).1 (iss (oneThread s0)).2)
        (issueOf .hitld hitEnc (iss (oneThread s0)).1 (iss (oneThread s0)).2) hitldAsk
        (hitldAccs (issueOf .hitld hitEnc (iss (oneThread s0)).1 (iss (oneThread s0)).2))).map fun o => !o.isEmpty) = some true := by
    decide
  obtain ⟨o, ho, hn⟩ := Option.map_eq_some_iff.mp h.2.2
  exact meets _ _ h.1 ⟨h.2.1, o, allReach_of ho, by simpa using hn⟩
/-- A ray from the origin along z, and a pixel at (1, 0), outstanding in thread 0. -/
def aRay : Pend :=
  { aLoad (.phys 0) with dst := .vec 8 6, wait := .token 0, body := .trace false 0x100000 1 [(0, [0, 0, 0, 0, 0, 0x3F800000, 0, 0x3F800000])] }
def aPixel : Pend :=
  { aLoad (.phys 0) with dst := .vec 8 2, body := .pxl 1 1 [{ thread := 0, x := 1, y := 0, va := 0x100200, d := fd 5 1 0 0 }] }
def rayState : State := { pending aRay s0 with mem := [] , cur := none }
/-- The pixel's arrival bit is set and its samples are 255, 0 and 51. -/
def pixelState : State := { pending aPixel s0 with mem := writeLe (writeLe s0.mem 0x100280 1 1) 0x100403 3 0x3300FF, cur := none }
theorem test_returns : ∀ x ∈ [(rayState, aRay), (pixelState, aPixel)], ((x.1.wave? 0).map fun w =>
    (w.halted, w.pend.find? (fun p => p.seq == 101), decide ((x.1.ctx w.ctx).st = .running))) = some (false, some x.2, true) ∧
    x.2.free 0 = true ∧ x.2.lostAt 0 = false := by decide +kernel
def tracing : State := { pending aRay s0 with cur := none }
theorem test_ray : ((tracing.wave? 0).map fun w =>
    (traceRay (threadReader tracing w aRay true 0) false 0x100000 [0, 0, 0, 0, 0, 0x3F800000, 0, 0x3F800000]).stop.isNone) = some true := by
  decide +kernel
theorem test_pixel : ((pixelState.wave? 0).map fun w => match pixelValue pixelState 0 (fun va => threadRead pixelState (.core w.core) w aPixel true 0 va 1)
      { thread := 0, x := 1, y := 0, va := 0x100200, d := fd 5 1 0 0 } with
    | .ok (some (_, ok, _)) => ok
    | _ => false) = some true := by decide +kernel
theorem test_pixel_value : (nextOf (exec (.pxlReturn 0 101 0) pixelState)).bind (fun t => (t.wave? 0).map fun w =>
    (w.vreg 8 0, w.vreg 9 0, (w.pred 1).getLsbD 0)) = some (0x00003C00, 0x00003266, true) := by decide +kernel

/-! Frames and flows -/

def flowCfg (flow : Nat) : Flow :=
  { num := flow, cfg := 2 ^ 31 + 3 * 2 ^ 32 + 0x10002 * 2 ^ 64, cur := none, curTs := none, last := none, seq := 0, inbox := [], parked := none, parkVa := 0 }
def framing (flow st : Nat) (s : State) : State :=
  let s := streaming flow st s
  { s with flows := [flowCfg flow], mem := writeLe s.mem 0x100200 64 (fd flow st 0 0) }
/-- A read that a split makes once. -/
def once? (s : State) (op : Op) (e : Enc) (va n : Nat) : Option Nat :=
  match (issueOf op e (iss s).1 (iss s).2).readOnce (issued op e s (iss s).1 (iss s).2) va n with
  | .ok d _ => some d
  | _ => none
theorem readOnce_of {s : State} {op : Op} {e : Enc} {va n d : Nat} (h : once? s op e va n = some d) :
    ∃ s', (issueOf op e (iss s).1 (iss s).2).readOnce (issued op e s (iss s).1 (iss s).2) va n = .ok d s' := by
  unfold once? at h
  split at h
  · rename_i x s' hx
    exact ⟨s', by simpa [Option.some.inj h] using hx⟩
  · simp at h
def frmS : State := withS [(24, 0x100200)] (framing 130 1 s0)
theorem test_frmacq : ready frmS .frmacq (plain .frmacq) = true ∧ enabledOf .frmacq (plain .frmacq) (iss frmS).1 (iss frmS).2 ≠ 0 ∧
    frmS.binding (iss frmS).1 0 = some 130 ∧ ((iss frmS).2.spair 24).toNat = 0x100200 ∧ (iss frmS).1.ctx < frmS.ctxs.length ∧
    once? frmS .frmacq (plain .frmacq) 0x100200 64 = some (fd 130 1 0 0) ∧ frameBad (fd 130 1 0 0) = false ∧ fdFlow (fd 130 1 0 0) = 130 ∧
    mismatch (frmS.flow 130) (fd 130 1 0 0) = false := by decide +kernel
theorem test_frmst : ready frmS .frmst (plain .frmst) = true ∧ enabledOf .frmst (plain .frmst) (iss frmS).1 (iss frmS).2 ≠ 0 ∧
    frmS.current (iss frmS).1 0 = some (0x100200, fd 130 1 0 0) ∧ once? frmS .frmst (plain .frmst) 0x100200 128 = some (fd 130 1 0 0) := by
  decide +kernel
theorem test_fpres : ready frmS .fpres (plain .fpres) = true ∧ enabledOf .fpres (plain .fpres) (iss frmS).1 (iss frmS).2 ≠ 0 ∧
    (iss frmS).1.tls.length = 8 ∧ frmS.frameState 0 (0x100200, fd 130 1 0 0) = 1 := by decide +kernel
def presentOp : EngOp := { anOp .fpres e0 [0x100200] 0 with tl := 6 }
theorem test_fpres_apply : (engaged presentOp s0).op? 300 = some presentOp ∧ ((engaged presentOp s0).ctx 0).st = .running ∧
    (engaged presentOp s0).presentDone presentOp = true ∧ (engaged presentOp s0).frameAt 0 0x100200 = none ∧
    ((engaged presentOp s0).wave? 0).map (·.tls.length) = some 8 := by decide
/-- A `FRAME` packet that arms the descriptor at 0x100200 or presents it. -/
def framePkt (present : Nat) : Nat := pkt 5 present 0x100200 0 0
def armS (flow : Nat) : State :=
  { took (framePkt 0) with flows := [flowCfg flow], mem := writeLe (took (framePkt 0)).mem 0x100200 64 (fd flow 0 0 0) }
theorem test_arm : ∀ flow ∈ [5, 130], (armS flow).waitingPacket 5 0 5 = some (takenQ (framePkt 0) false, taken (framePkt 0) false) ∧
    (armS flow).heldPacket (takenQ (framePkt 0) false) (taken (framePkt 0) false) = false ∧ pktField (framePkt 0) 4 4 % 2 = 0 ∧
    pktField (framePkt 0) 8 8 = 0x100200 ∧ cpSees (armS flow) 0 0x100200 256 = some (fd flow 0 0 0) ∧
    (frameBad (fd flow 0 0 0 % 2 ^ 512) || frameTailBad (fd flow 0 0 0) || !((armS flow).flow (fdFlow (fd flow 0 0 0))).en) = false ∧
    ((armS flow).flow flow).ctx = 0 ∧ (armS flow).frameAt 0 0x100200 = none ∧ fdState (fd flow 0 0 0) = 0 := by decide +kernel
theorem test_present : (took (framePkt 1)).waitingPacket 5 0 5 = some (takenQ (framePkt 1) false, taken (framePkt 1) false) ∧
    (took (framePkt 1)).heldPacket (takenQ (framePkt 1) false) (taken (framePkt 1) false) = false ∧ pktField (framePkt 1) 4 4 % 2 = 1 := by
  decide
def aFrame (flow st : Nat) (line : Option Nat) : Frame := { frameOf 700 0 0x100200 (fd flow st 0 0) with st, txLine := line }
def framed (f : Frame) : State := { s0 with frames := [f], flows := [flowCfg f.flow], ports := List.replicate 16 { up := true, fallback := false }, cur := none }
/-- A present of a FILLING frame and of a LATE one. -/
def presenting (st : Nat) : State := let s := framed (aFrame 130 st none); engaged presentOp { s with cur := s0.cur }
theorem test_present_apply : ∀ st ∈ [1, 3], (presenting st).op? 300 = some presentOp ∧ ((presenting st).ctx 0).st = .running ∧
    (presenting st).presentDone presentOp = true ∧ (presenting st).frameAt 0 0x100200 = some (aFrame 130 st none) ∧
    (presenting st).frame? 700 = some (aFrame 130 st none) ∧
    (((presenting st).present 700).wave? 0).map (·.tls.length) = some 8 := by decide +kernel
theorem test_frame_steps : ∀ f ∈ [aFrame 130 1 none, aFrame 130 2 none, aFrame 130 3 none, aFrame 130 4 (some 0)], (framed f).frame? 700 = some f ∧
    f.tx = true ∧ (framed f).reached (BitVec.ofNat 64 (fdDl f.d)) = true ∧ (framed f).reached (BitVec.ofNat 64 (fdPt f.d)) = true ∧ f.gone = false := by decide +kernel
def aPacket : RtpPacket := { path := 0, src := 7, dst := 0, sport := 0, dport := 0, ttl := 64, dscp := 0, ssrc := 1, payt := 0, seq := 9, ts := 100, line := 0, offset := 0, bytes := [1, 2, 3, 4, 5, 6] }
def receiving : State := framed (aFrame 5 1 none)
theorem test_receive : let f := receiving.flow 5
    f.en = true ∧ receiving.portUp (f.portOf aPacket.path) = true ∧ f.dst aPacket.path = aPacket.dst ∧ f.src aPacket.path = 0 ∧
    f.dport aPacket.path = aPacket.dport ∧ f.sport aPacket.path = aPacket.sport ∧ f.ssrc = 0 ∧ aPacket.payt = f.payt := by decide +kernel
theorem test_receive_refused : ({ receiving with flows := [] } : State).flow 5 = { flowCfg 5 with cfg := 0 } ∧
    ({ flowCfg 5 with cfg := 0 } : Flow).en = false := by decide
def flowing (cfg : Nat) (answers : Bool) : State :=
  { s0 with flows := [{ flowCfg 5 with cfg }], power := .d0, boot := { s0.boot with phase := if answers then 3 else 2 } }
/-- A configuration that can be taken, and one of 0 by 0. -/
theorem test_flow_enable : (flowing (3 * 2 ^ 32 + 0x10002 * 2 ^ 64) true).answers = true ∧ (0x80000000 : Word).getLsbD 31 = true ∧
    flowOk 16 5 (setFld (3 * 2 ^ 32 + 0x10002 * 2 ^ 64) 0 4 0x80000000) = true ∧ flowOk 16 5 (setFld (3 * 2 ^ 32) 0 4 0x80000000) = false ∧
    (flowing 0 false).answers = false := by decide +kernel

/-! Links -/

def aLink (st : Nat) : Link := { Link.fresh with st, asize := 0x100000, abase := 0x100000, psize := 0x100000, pnode := 2, plink := 5 }
def withLink (k : Link) (s : State) : State := { s with links := s.links.set 3 k, ports := List.replicate 16 { up := true, fallback := false } }
/-- The fabric address 0 of link 3 in thread 0 and in s16; the source of an `LRED` of one block is the mapped page. -/
def remoteS (st : Nat) : State :=
  withS [(17, 3), (24, 0x100000), (32, 1)] (withV 17 3 (withLink (aLink st) (oneThread s0)))
def remoteOps : List Op := [.rwr, .rrd, .rwrf, .ratm]
theorem test_remote : ∀ op ∈ remoteOps, ready (remoteS 2) op (plain op) = true ∧ (iss (remoteS 2)).1.tls.length = 8 ∧
    enabledOf op (plain op) (iss (remoteS 2)).1 (iss (remoteS 2)).2 ≠ 0 ∧
    let i := issueOf op (plain op) (iss (remoteS 2)).1 (iss (remoteS 2)).2
    let s1 := issued op (plain op) (remoteS 2) (iss (remoteS 2)).1 (iss (remoteS 2)).2
    i.remoteTrap s1 (if i.wideTy then 8 else 4) = none ∧ i.remoteLinks = [3] ∧ s1.linkRoom 3 1 = true ∧
    (s1.wave? 0).map (fun w => s1.drained w (s1.drainSet w 1)) = some true := by decide +kernel
theorem test_lred : ready (remoteS 2) .lred (plain .lred) = true ∧
    enabledOf .lred (plain .lred) (iss (remoteS 2)).1 (iss (remoteS 2)).2 ≠ 0 ∧
    ((iss (remoteS 2)).2.spair 16).toNat = 0x300000000 ∧
    lredTrap (remoteS 2) 0 0x300000000 ((iss (remoteS 2)).2.spair 24).toNat
      ((issueOf .lred (plain .lred) (iss (remoteS 2)).1 (iss (remoteS 2)).2).sC false) = none ∧ (remoteS 2).linkRoom 3 1 = true := by decide +kernel
theorem test_lred_value : (nextOf (exec (.lred (plain .lred)) (remoteS 2))).map (fun t => ((t.link 3).ops.map fun o => (o.op.kind, o.num), t.mem.length)) =
    some ([(.lred 1, 1)], (remoteS 2).mem.length) := by decide +kernel
/-- Link 3 belongs to context 0, and to another one. -/
theorem test_lstat : ∀ c ∈ [0, 1], Meets .lstat fun s e w sp => Enabled .lstat e w sp ∧
    (s.link ((issueOf .lstat e w sp).sB false % 16)).octx = c ∧ w.ctx = 0 := by
  have h : ∀ c ∈ [0, 1], let s := withS [(24, 3)] (withLink { aLink 2 with octx := c } s0)
      ready s .lstat (plain .lstat) = true ∧ enabledOf .lstat (plain .lstat) (iss s).1 (iss s).2 ≠ 0 ∧
      (s.link ((issueOf .lstat (plain .lstat) (iss s).1 (iss s).2).sB false % 16)).octx = c ∧ (iss s).1.ctx = 0 := by decide
  exact fun c hc => meets _ _ (h c hc).1 (h c hc).2
theorem test_links : ∀ st ∈ [0, 1, 2, 3, 4, 5], ((withLink (aLink st) s0).link 3).st = st ∧ (withLink (aLink st) s0).links.length = 16 ∧
    (withLink (aLink st) s0).answers = true ∧ (withLink (aLink st) s0).portUp ((withLink (aLink st) s0).link 3).port = true ∧
    ((withLink (aLink st) s0).link 3).cfgOk = true := by decide
def aLinkOp (pend : Option Nat) (tries : Nat) : LinkOp :=
  { id := 800, wave := 0, kernel := 1, ctx := 0, group := 3, sup := true, num := 1, pend, va := 0,
    op := { seq := 6, kind := if pend.isSome then .read else .write, size := 4, acq := false, parts := [{ thread := 0, off := 0, data := 7 }], blob := [] },
    sent := true, acked := false, tries, src := none, after := [], parked := none, parkVa := 0, answer := none }
def linked (pend : Option Nat) (tries : Nat) : State := withLink { aLink 2 with ops := [aLinkOp pend tries] } { s0 with cur := none }
theorem test_link_ops : ∀ x ∈ [((none : Option Nat), (0 : Nat)), (none, 16), (some 101, 0)], ((linked x.1 x.2).link 3).op? 6 = some (aLinkOp x.1 x.2) ∧
    (linked x.1 x.2).waveRuns 0 = true ∧ ((linked x.1 x.2).link 3).isUp = true ∧ ((linked x.1 x.2).link 3).ops.all (·.acked) = false := by decide
/-- A lossy link: one operation of the last millisecond was sent again; a link that has been DEGRADED for 1 ms. -/
theorem test_degrade : (withLink { aLink 2 with sends := [(0, false), (0, true)] } s0).lossy { aLink 2 with sends := [(0, false), (0, true)] } = true ∧
    let s : State := { withLink (aLink 3) s0 with pt := 1000000 }
    (s.link 3).since.toNat + 1000000 ≤ s.pt.toNat ∧ (s.lossy (s.link 3) || s.fallback (s.link 3)) = false := by decide
theorem test_handshake : ({ node := 2, link := 5, namesUs := true, asize := 0x100000 } : LinkAnswer).node = ((withLink (aLink 1) s0).link 3).pnode ∧
    ((withLink (aLink 1) s0).link 3).plink = 5 := by decide
theorem test_port_up : s0.ports.length = 16 ∧ 0 < s0.breakout ∧ s0.portUp 0 = false ∧ s0.power = .d0 ∧ (s0.portStep 0).count < 2 := by decide
/-- The target: context 0 writes a word of its mapped page; a repeat is answered. -/
def arriving : NraOp := { seq := 6, kind := .write, size := 4, acq := false, parts := [{ thread := 0, off := 0x80, data := 7 }], blob := [] }
def target : State := withLink (aLink 2) { s0 with cur := none }
theorem test_target : (target.link 3).isUp = true ∧ (target.link 3).window = [] ∧ (target.link 3).hi = none ∧
    (target.ctx (target.link 3).tctx).st = .running ∧ (target.link 3).lparks = [] ∧ 0x80 + 4 ≤ (target.link 3).asize ∧
    agentPa target .write ((target.link 3).abase + 0x80) 4 = some 0x100080 ∧ (target.ctx 0).ksup = true := by decide +kernel
theorem test_target_repeat : ((withLink { aLink 2 with window := [(6, .done [])] } s0).link 3).window.find? (fun x => x.1 == arriving.seq) =
    some (6, .done []) := by decide

/-! Rendezvous -/

/-- An object of two members, period 100 µs, guard 20 µs and two records at 0x100800, for the instant 1 of a frame. -/
def rdvObj (coherent : Bool) : Nat := 100000 * 2 ^ 64 + 20000 * 2 ^ 128 + (2 ^ 12 + if coherent then 2 ^ 31 else 0) * 2 ^ 160 + 2 ^ 224 + (packElems 64 [0, 0, 0, 0, 0x100800])
def rdvFd : Nat := fd 130 1 0 0 + 100000
def meeting : State :=
  withS [(16, 0x100400), (24, 0x100200)] { s0 with frames := [{ aFrame 130 1 none with d := rdvFd }], mem := writeLe (writeLe s0.mem 0x100400 64 (rdvObj true)) 0x100200 64 rdvFd }
def arrivalNo (s : State) (va fr o d : Nat) : Option Nat := match arrivalOf s 0 va fr o d with | .ok n => some n | _ => none
theorem test_rdva : ready meeting .rdva (plain .rdva) = true ∧ enabledOf .rdva (plain .rdva) (iss meeting).1 (iss meeting).2 ≠ 0 ∧
    ((iss meeting).2.spair 16).toNat = 0x100400 ∧ ((iss meeting).2.spair 24).toNat = 0x100200 ∧
    once? meeting .rdva (plain .rdva) 0x100400 512 = some (rdvObj true) ∧ once? meeting .rdva (plain .rdva) 0x100200 64 = some rdvFd ∧
    arrivalNo meeting 0x100400 0x100200 (rdvObj true) rdvFd = some 1 ∧ meeting.rdvAt 0 0x100400 = none ∧
    meeting.reached (roGuardAt (rdvObj true) 1) = false := by decide +kernel
theorem test_rdva_value : (nextOf (exec (.rdva (plain .rdva)) meeting)).map (fun t => t.rdvs.map fun r => (r.va, r.next, r.insts.map (·.n))) =
    some [(0x100400, 1, [1])] := by decide +kernel
/-- The same arrival by packet, and one whose object is malformed. -/
def rdvPkt (va : Nat) : Nat := pkt 6 0 va 0x100200 0
def rdvPktS (va : Nat) : State := { took (rdvPkt va) with mem := meeting.mem, frames := meeting.frames }
theorem test_rdv_packet : ∀ va ∈ [0x100400, 0x100600], (rdvPktS va).waitingPacket 5 0 6 = some (takenQ (rdvPkt va) false, taken (rdvPkt va) false) ∧
    (rdvPktS va).heldPacket (takenQ (rdvPkt va) false) (taken (rdvPkt va) false) = false ∧
    pktField (rdvPkt va) 8 8 = va ∧ pktField (rdvPkt va) 16 8 = 0x100200 ∧ cpSees (rdvPktS va) 0 0x100200 64 = some rdvFd ∧
    cpSees (rdvPktS va) 0 va 512 = some (if va = 0x100400 then rdvObj true else 0) ∧
    arrivalNo (rdvPktS va) va 0x100200 (if va = 0x100400 then rdvObj true else 0) rdvFd = (if va = 0x100400 then some 1 else none) := by
  decide +kernel
theorem test_rdvw : ready meeting .rdvw (plain .rdvw) = true ∧ enabledOf .rdvw (plain .rdvw) (iss meeting).1 (iss meeting).2 ≠ 0 ∧
    once? meeting .rdvw (plain .rdvw) 0x100400 512 = some (rdvObj true) ∧ rdvBad (rdvObj true) = false ∧
    (once? meeting .rdvw (plain .rdvw) (roRec (rdvObj true)) 1024).isSome = true := by decide +kernel
def aRdv (coherent : Bool) (next : Nat) (insts : List RdvInst) : Rdv :=
  { id := 900, ctx := 0, va := 0x100400, obj := rdvObj coherent, insts, next, last := none, detach := false }
def meetingAt (pt : Nat) (st : Nat) (r : Rdv) : State := { framed (aFrame 130 st none) with rdvs := [r], pt := BitVec.ofNat 64 pt }
/-- At the guard: no arrival; a frame that is presented, and one that is not. -/
theorem test_guard_points : ∀ insts ∈ [[], [freshInst 1 .arrived (some 700)]], ∀ st ∈ [1, 2],
    (meetingAt 80000 st (aRdv true 1 insts)).rdv? 900 = some (aRdv true 1 insts) ∧
    (meetingAt 80000 st (aRdv true 1 insts)).reached (roGuardAt (rdvObj true) 1) = true ∧
    ((meetingAt 80000 st (aRdv true 1 insts)).frame? 700).isSome = true ∧ (meetingAt 79999 st (aRdv true 1 insts)).reached (roGuardAt (rdvObj true) 1) = false := by
  decide +kernel
/-- Half-way: every other member is ready, or member 1 is not; and an instant that is ABSENT. -/
def halfInst (st : InstState) (readies : List Nat) : RdvInst := { freshInst 1 st (some 700) with readies }
theorem test_half_points : ∀ x ∈ [halfInst .ready [1], halfInst .ready [], halfInst .absent []],
    (meetingAt 90000 2 (aRdv true 2 [x])).rdv? 900 = some (aRdv true 2 [x]) ∧
    (aRdv true 2 [x]).insts.find? (fun y => !y.half && decide (y.n < 2) && (meetingAt 90000 2 (aRdv true 2 [x])).reached (roHalfAt (rdvObj true) y.n)) = some x ∧
    roMembers (rdvObj true) = 2 ∧ roSelf (rdvObj true) = 0 := by decide +kernel
theorem test_instant : ∀ st ∈ [InstState.go, .held, .absent, .late], let x := { halfInst st [] with half := true }
    (aRdv true 2 [x]).insts.find? (fun y => y.half && y.st != .sent && (meetingAt 100000 2 (aRdv true 2 [x])).reached (rdvTime (rdvObj true) y.n)) = some x := by
  decide +kernel
theorem test_record_deadline : let x := { halfInst .sent [] with half := true }
    let s := meetingAt 200000 2 (aRdv true 3 [x])
    (aRdv true 3 [x]).insts.find? (fun y => y.st == .sent && (y.parked == some .ready ||
      (y.parked.isNone && s.reached (roEndAt (rdvObj true) y.n)))) = some x ∧
    agentPa s .write (roRec (rdvObj true) + 1024 * (1 % 2 ^ roRlog (rdvObj true))) 1024 = some 0x100C00 := by decide +kernel
/-- A record in an absent page waits; one beyond the virtual space is given up. -/
theorem test_record_waits : let s := meetingAt 200000 2 (aRdv true 3 [])
    (match s.agentReach 0 true .write 0x5000 1024 with
     | .wait x => (parkFor s 0 0x5000 .write (engineAgent 2) x).toOption.isSome
     | _ => false) = true ∧
    (match s.agentReach 0 true .write (2 ^ 57) 1024 with | .fail _ => true | _ => false) = true := by decide +kernel
/-- Member 1 is heard while link 0 is UP, and not before. -/
theorem test_hears : (withLink (aLink 2) s0).hears (rdvObj true + 3 * 2 ^ (8 * 68 + 16)) 1 = true ∧
    s0.hears (rdvObj true + 3 * 2 ^ (8 * 68 + 16)) 1 = false := by decide +kernel
theorem test_messages : (meetingAt 0 2 (aRdv true 1 [])).reached (roHalfAt (rdvObj true) 1) = false ∧
    (meetingAt 90000 2 (aRdv true 1 [])).reached (roHalfAt (rdvObj true) 1) = true ∧ (aRdv true 1 []).inst? 1 = none ∧
    (meetingAt 0 2 (aRdv true 1 [])).rdvAt 0 0x100400 = some (aRdv true 1 []) := by decide +kernel


/-! Contexts -/

/-- A slot of the device with nothing else in it, and of the device where context 0 runs. -/
def slotOf (k : Nat) (c : Ctx) (s : State) : State := { s with ctxs := s.ctxs.set k c }
def inState (st : CtxState) : Ctx := { Ctx.fresh with st }
def swappedOut : Ctx := { inState .swapped with blocks := some (0, 8), image := .hampers }
theorem test_context_slots : ∀ c ∈ [inState .empty, inState .loaded, inState .halted, swappedOut, { inState .running with cmd := 2 }],
    ((slotOf 1 c State.reset).ctx 1) = c ∧ (slotOf 1 c State.reset).ctxs.length = 64 ∧ (slotOf 1 c State.reset).answers = true ∧
    (c.cmd ≠ 0 → c.waitCmd = none) := by decide
/-- A descriptor at 0x10000 that can be loaded, and the misplaced one at 0x10040. -/
def describing : State := slotOf 1 { inState .empty with cdesc := 0x10000 } { State.reset with mem := writeLe [] 0x1000C 4 0x2000 }
theorem test_load_good : 0x10000 % 128 = 0 ∧ describing.readable 0x10000 128 = true ∧
    descBad describing.mgmt.partn (fun off len => readLe describing.mem (0x10000 + off) len) = false ∧ 0x10040 % 128 ≠ 0 := by decide +kernel
theorem test_run_part : (slotOf 1 (inState .loaded) State.reset).partFree 1 = true ∧ (slotOf 1 (inState .loaded) s0).partFree 1 = false ∧
    (inState .loaded).part < s0.mgmt.partn ∧ State.reset.stabBad (inState .loaded) = false := by decide
/-- Context 0 halted; with tiles bound, an exchange out needs a save area that it does not have. -/
def haltedS (s : State) : State := s.modCtx 0 fun c => { c with st := .halted }
theorem test_swapout : (haltedS s0).saveFits 0 = true ∧ (haltedS (bound .aclr .queued false)).saveFits 0 = false ∧
    ((haltedS s0).ctx 0).st = .halted := by decide
theorem test_resume_swapped : swappedOut.part < State.reset.mgmt.partn ∧ swappedOut.blocks = some (partBlocks State.reset.mgmt.partn swappedOut.part) ∧
    (slotOf 1 swappedOut State.reset).partFree 1 = true ∧ State.reset.stabBad swappedOut = false := by decide
theorem test_switch : (slotOf 2 swappedOut s0).switchable 0 2 = true ∧ (slotOf 2 swappedOut s0).saveFits 0 = true ∧ s0.switchable 0 2 = false ∧
    (s0.ctx 0).st = .running := by decide
theorem test_commands_value : (nextOf (exec (.contextLoad 1) describing)).map (fun t => (t.ctx 1).st) = some .loaded ∧
    (nextOf (exec (.contextRun 1) (slotOf 1 (inState .loaded) State.reset))).map (fun t => (t.ctx 1).st) = some .running ∧
    (nextOf (exec (.contextTerminate 0) s0)).map (fun t => ((t.ctx 0).st, t.waves.length)) = some (.terminated, 0) := by decide +kernel
def halting (why : HaltWhy) (s : State) : State := s.modCtx 0 fun c => { c with st := .halting, why, cmd := 2 }
theorem test_halt : ∀ why ∈ [HaltWhy.fault, .preempt], ((halting why s0).ctx 0).st = .halting ∧ (halting why s0).haltWaits 0 = false ∧
    ((halting why s0).ctx 0).cmd = 2 ∧ (halting why (bound .aclr .running true)).haltWaits 0 = true := by decide
def exchanging (cmd : Nat) (st : CtxState) (why : HaltWhy) (s : State) : State := s.modCtx 0 fun c => { c with st, why, cmd }
theorem test_exchange : (exchanging 3 .halted .preempt s0).hampersTaken 0 none = false ∧ (exchanging 3 .halted .preempt s0).rmwOpen 0 = false ∧
    (exchanging 5 .halted (.switch 2) (slotOf 2 swappedOut s0)).rmwOpen 0 = false ∧ s0.power = .d0 ∧
    (exchanging 5 .halted (.switch 2) (slotOf 2 swappedOut s0)).hampersTaken 0 (some 2) = false ∧
    s0.saveIntact swappedOut = true ∧ s0.saveIntact { swappedOut with saved := some (64, [(0x200000, 1)]), save := 0x200000 } = false := by decide +kernel
theorem test_exchange_value : (nextOf (exec (.hamperExchangeComplete 0) (exchanging 5 .halted (.switch 2) (slotOf 2 swappedOut s0)))).map
    (fun t => ((t.ctx 0).st, (t.ctx 2).st)) = some (.swapped, .running) := by decide +kernel
theorem test_displace : let s := exchanging 3 .halted .preempt (slotOf 2 swappedOut s0)
    (s.ctx 2).st = .swapped ∧ (s.ctx 2).image = .hampers ∧ (s.ctx 2).blocks = some (0, 8) ∧ (s.ctx 0).cmd = 3 ∧
    (partBlocks s.mgmt.partn (s.ctx 0).part) = (0, 8) := by decide

/-! Time, issue, the host and power -/

def staged : State := { State.reset with pt := 5, tb := { State.reset.tb with staged := 3 } }
theorem test_backward : staged.tb.staged ≠ never ∧ (∀ c ∈ staged.ctxs, c.st ≠ .running ∧ c.st ≠ .halting) ∧
    staged.tb.staged.toNat < staged.pt.toNat ∧ State.reset.tb.staged = never ∧
    (∃ c ∈ s0.ctxs, c.st = .running ∨ c.st = .halting) := by decide
theorem test_tick : (0 : Nat) + 1 ≤ ({ s0 with pt := 1000 } : State).pt.toNat / 1000 ∧ s0.pt.toNat / 1000 < s0.ptTicks + 1 := by decide
/-- One operation, numbered 101, waits for a tick at PT 1000. -/
def tickState (sys : Bool) (work : ScWork) (l : List Pend) : State :=
  { onWave (fun w => { w with pend := l }) (onSplit (fun p => { p with st := .blocked (.scTick sys 3 101 work) }) s0) with
    cur := none, pt := 1000 }
theorem test_sc_tick : ∀ sys : Bool, ∀ x ∈ [(ScWork.fence, ([] : List Pend)), (.ops 4 0 .store none [(aStore .store (.phys 0x1000) 7).acc], []),
      (.load 8 2 [(aStore .store (.phys 0x1000) 0).acc], [{ aLoad (.phys 0x1000) with body := .later }])],
    let s := tickState sys x.1 x.2
    ∃ (w : Wave) (p : Split), s.wave? w.uid = some w ∧ w.split? 0 = some p ∧ p.stack = [] ∧ w.pend = x.2 ∧
      scWaiting s sys = [(w, 0, 3, x.1, 101)] ∧ s.ptTicks + 1 ≤ s.pt.toNat / 1000 ∧ s.stores = [] := by
  intro sys x hx
  refine ⟨((tickState sys x.1 x.2).waves.headD (placeWave 0)), _, ?_, rfl, ?_⟩ <;> revert x <;> revert sys <;> decide
theorem test_sc_tick_value : (nextOf (exec .deviceHeartbeatTick (tickState false (.ops 4 0 .store none [(aStore .store (.phys 0x1000) 7).acc]) []))).map
    (fun t => (byteAt t.mem 0x1000, t.stores, t.sOrder.length)) = some (7, [], 1) := by decide +kernel
def ptp (st src good : Nat) (pen : Word) : State :=
  { framed (aFrame 130 1 none) with tb := { State.reset.tb with st, src, good }, mgmt := { s0.mgmt with ptpen := pen } }
theorem test_announce : (ptp 0 0xFF 0 1).mgmt.ptpen.getLsbD 0 = true ∧ (ptp 0 0xFF 0 1).portUp 0 = true ∧ (ptp 0 0xFF 0 1).ptpRuns = true := by decide
theorem test_measure : ∀ st ∈ [1, 2, 3], (ptp st 0 7 1).tb.src < 16 ∧ (ptp st 0 7 1).tb.st = st ∧ (ptp st 0 7 1).tb.good = 7 := by decide
theorem test_pps : (ptp 0 0xFF 0 0x10000).mgmt.ptpen.getLsbD 16 = true ∧ (ptp 0 0xFF 0 0x10000).ptpRuns = true ∧ 16 ≤ (ptp 0 0xFF 0 0x10000).tb.src ∧ s0.mgmt.ptpen.getLsbD 16 = false := by
  decide
theorem test_owed : ({ s0 with starve := [(0, 0, 2, 64)] } : State).starved 0 0 2 = 64 ∧ s0.owed.contains (0, 0, 2) = false ∧ s0.starved 0 0 2 = 0 := by
  decide
theorem test_rotation : ∃ w p, (onSplit (fun p => { p with issues := 256 }) s0).wave? 0 = some w ∧ w.split? 0 = some p ∧ 256 ≤ p.issues :=
  ⟨_, _, rfl, rfl, by decide⟩
/-- The staged PT with the last context that halts, and while another one runs. -/
theorem test_staged_halt : let s : State := { halting .preempt s0 with pt := 5, tb := { s0.tb with staged := 3 } }
    (s.ctx 0).st = .halting ∧ s.haltWaits 0 = false ∧ s.tb.staged ≠ never ∧ s.tb.staged.toNat < s.pt.toNat ∧
    (∀ k < 64, k ≠ 0 → (s.ctx k).st ≠ .running ∧ (s.ctx k).st ≠ .halting) ∧
    ∃ k < 64, k ≠ 0 ∧ ((slotOf 2 (inState .running) s).ctx k).st = .running := by decide +kernel
theorem test_ptset : (7 : DWord) ≠ never ∧ (7 : DWord).toNat < (8 : DWord).toNat ∧
    (∀ c ∈ ({ State.reset with pt := 8 } : State).ctxs, c.st ≠ .running ∧ c.st ≠ .halting) := by decide
theorem test_aperture_bad : ({ s0 with badSectors := [(s0.mgmt.apbase + 64) / 64] } : State).badAt (s0.mgmt.apbase + 64) 8 = true := by decide
theorem test_partn : (∀ c ∈ State.reset.ctxs, c.occupies = false) ∧ (∃ c ∈ s0.ctxs, c.st = .running) := by decide
theorem test_stglen : s0.boot.phase = 3 ∧ (0x2000000 : DWord).toNat ≤ 2 ^ 25 := by decide
theorem test_attn : s0.mgmt.attn = false ∧ (List.replicate 132 (0 : Byte)).length = 132 ∧ ({ s0.mgmt with attn := true } : Mgmt).attn = true := by decide +kernel
/-- The register window at v0 of the wave, and in an empty slot. -/
def windowed (a : DWord) : State := s0.modCtx 0 fun c => { c with rwaddr := a }
/-- A place of no wave reads 0, and bytes that R185 refuses have no place. -/
theorem test_rwdata : (∃ p, (windowed 0x10000).rwPlace 0 4 .load = some p ∧ (windowed 0x10000).ownsPlace 0 p = false) ∧
    (∃ p, (windowed 0).rwPlace 0 4 .load = some p ∧ (windowed 0).ownsPlace 0 p = true) ∧ (windowed 2).rwPlace 0 4 .load = none ∧
    (windowed 2).rwPlace 0 4 .store = none ∧ ((inHandler (windowed 0)).rwPlace 0 4 .store).isSome = true :=
  ⟨⟨_, rfl, by decide⟩, ⟨_, rfl, by decide⟩, by decide, by decide, by decide⟩
theorem test_aperture : hostSized 64 8 = true ∧ inDevice (s0.mgmt.apbase + 64) 8 = true ∧ s0.badAt (s0.mgmt.apbase + 64) 8 = false ∧
    inDevice (({ s0.mgmt with apbase := 2 ^ 40 } : Mgmt).apbase + 64) 8 = false := by decide
theorem test_power : s0.power = .d0 ∧ ({ s0 with power := .d3hot } : State).power = .d3hot := by decide
theorem test_verified : ({ s0 with boot := { s0.boot with staged := some 8, phase := 1 } } : State).boot.staged = some 8 := by decide

/-! A step -/

/-- A step at `NOP`, at words that decode to nothing, and at a misaligned program counter. -/
def stepAt (w : Nat) : State := State.reset.withFetchWord 96 w
def fetched? (s : State) : Option (List Word) := match fetch s (iss s).1 (iss s).2 with | .words ws _ => some ws | _ => none
theorem test_step_fetches : ∀ x ∈ [((0x04041404 : Nat), [(0x04041404 : Word)]), (0x0E0C208C, [0x0E0C208C]), (0xE6, [0xE6, 0, 0])],
    (stepAt x.1).cur = some (0, 0) ∧ canIssue (stepAt x.1) (iss (stepAt x.1)).1 (iss (stepAt x.1)).2 = true ∧
    fetched? (stepAt x.1) = some x.2 ∧ (iss (stepAt x.1)).1.uid = 0 ∧ (iss (stepAt x.1)).2.num = 0 := by decide +kernel
theorem test_step_words : (decodeWords [0x04041404]).toOption.isSome = true ∧ refusal [0x0E0C208C] = some .badLen := by decide
theorem test_misaligned_pc : let s := onSplit (fun p => { p with pc := 0x100002 }) s0
    canIssue s (iss s).1 (iss s).2 = true ∧ (iss s).2.pc.toNat % 4 ≠ 0 := by decide
theorem test_reset_memory : MemInv State.reset := by unfold MemInv; decide
/-- Terms that encode, and words that decode. -/
theorem test_round_trip : WellFormed (.iadd { e0 with form := .base }) = true ∧ encode (.iadd { e0 with form := .base }) ≠ [] := by decide
theorem test_words_round_trip : ([0x04041404] : List Word).length = (formOf (wLen 0x04041404)).words ∧ (fieldsAt [0x04041404]).map (·.1) = some .iadd := by
  decide
theorem test_reserved_bits : Op.ofCode (wOp 0x0E0C208E) = some .ffma ∧ 2#2 ≤ wLen 0x0E0C208E ∧ 5 ≤ ((0xA06A0908 : Word).extractLsb' 29 3).toNat ∧
    (0x2000 : Word).getLsbD 13 = true ∧ Op.ofCode (wOp 0xE6) = none := by decide

end Sys2Proof.Tests
end

section
/-! Host accesses (R438-R440, R444-R447, R449): what each register, `rwdata` and the aperture do with an access. -/

namespace Sys2Proof.Machine

/-! ### Bytes of a memory image -/

theorem pow_256_eq (k : Nat) : 256 ^ k = 2 ^ (8 * k) := (Nat.pow_mul 2 8 k).symm

/-- A little-endian write of one more byte sets that byte last. -/
theorem writeLe_succ_last (n : Nat) (m : Sparse Byte) (a v : Nat) :
    writeLe m a (n + 1) v = setByte (writeLe m a n v) (a + n) (BitVec.ofNat 8 (v / 2 ^ (8 * n))) := by
  rw [← pow_256_eq]
  induction n generalizing m a v with
  | zero => simp [writeLe]
  | succ n ih =>
    rw [writeLe, ih, Nat.div_div_eq_div_mul, ← Nat.pow_succ', Nat.add_right_comm a 1 n]
    rfl

theorem readLe_congr (n : Nat) (m m' : Sparse Byte) (a : Nat) (h : ∀ k < n, byteAt m (a + k) = byteAt m' (a + k)) :
    readLe m a n = readLe m' a n := by
  induction n generalizing a with
  | zero => rfl
  | succ n ih =>
    have hfirst : byteAt m a = byteAt m' a := h 0 (by omega)
    have hrest : ∀ k < n, byteAt m (a + 1 + k) = byteAt m' (a + 1 + k) := fun k hk => by
      rw [Nat.add_right_comm]; exact h (k + 1) (by omega)
    rw [readLe, readLe, ih _ hrest, hfirst]

/-- Bytes that are those of a number read back as the number. -/
theorem readLe_of_leBytes {n a v : Nat} {m : Sparse Byte} (h : ∀ k < n, byteAt m (a + k) = (leBytes n v).getD k 0) :
    readLe m a n = v % 2 ^ (8 * n) := by
  have hw : ∀ k < n, byteAt m (a + k) = byteAt (writeLe m a n v) (a + k) := fun k hk => by
    rw [h k hk, byteAt_writeLe_in _ _ _ _ _ hk, pow_256_eq]
    simp [leBytes, hk]
  rw [readLe_congr _ _ _ _ hw, readLe_writeLe, pow_256_eq]

/-- What filling a range of bytes from address 0 leaves at each address. -/
theorem byteAt_foldl_setByte (f : Nat → Byte) (n : Nat) (m : Sparse Byte) (k : Nat) :
    byteAt ((List.range n).foldl (fun r j => setByte r j (f j)) m) k = if k < n then f k else byteAt m k := by
  induction n with
  | zero => rfl
  | succ n ih =>
    rw [List.range_succ, List.foldl_append, List.foldl_cons, List.foldl_nil]
    by_cases hk : k = n
    · subst hk; simp
    · rw [byteAt_setByte_ne _ _ hk, ih]
      simp only [show k < n + 1 ↔ k < n by omega]

/-! ### Stores to device memory -/

theorem State.writePlace_phys (s : State) (pa v n : Nat) :
    s.writePlace (.phys pa) v n = { s with mem := writeLe s.mem pa n v } := by
  induction n with
  | zero => rfl
  | succ n ih => rw [State.writePlace, ih, writeLe_succ_last]; rfl

/-- Nothing differs but the records of uncorrectable sectors, which a store that covers a sector clears (R250). -/
def State.FilledFrom (s t : State) : Prop := ∃ bad fill lost, t = { s with badSectors := bad, badFill := fill, lostLines := lost }

theorem State.FilledFrom.ite {s t u : State} {c : Prop} [Decidable c] (ht : s.FilledFrom t) (hu : s.FilledFrom u) :
    s.FilledFrom (if c then t else u) := by
  split
  · exact ht
  · exact hu

theorem State.FilledFrom.trans {s t u : State} (h : s.FilledFrom t) (h' : t.FilledFrom u) : s.FilledFrom u := by
  obtain ⟨_, _, _, rfl⟩ := h
  obtain ⟨bad, fill, lost, rfl⟩ := h'
  exact ⟨bad, fill, lost, rfl⟩

theorem State.fillSector_filledFrom (s : State) (src pa n : Nat) : s.FilledFrom (s.fillSector src pa n) := by
  unfold State.fillSector
  exact .ite ⟨_, _, _, rfl⟩ (.ite ⟨_, _, _, rfl⟩ ⟨_, _, _, rfl⟩)

theorem State.fillSectors_filledFrom (s : State) (src pa n : Nat) : s.FilledFrom (s.fillSectors src pa n) := by
  unfold State.fillSectors
  generalize List.range ((pa % 64 + n + 63) / 64) = l
  induction l generalizing s with
  | nil => exact ⟨_, _, _, rfl⟩
  | cons j l ih => exact (s.fillSector_filledFrom src _ _).trans (ih _)

/-- A store to device memory writes its bytes, and changes nothing else but the records of uncorrectable sectors. -/
theorem State.store_phys (s : State) (src pa v n : Nat) :
    ({ s with mem := writeLe s.mem pa n v } : State).FilledFrom (s.store src (.phys pa) v n) := by
  rw [← State.writePlace_phys]
  exact State.fillSectors_filledFrom _ src pa n

/-! ### The error log -/

@[simp] theorem State.raiseMsix_out (s : State) (v : Nat) : (s.raiseMsix v).out = s.out := by
  unfold State.raiseMsix; split <;> rfl

@[simp] theorem State.raiseMsix_mgmt (s : State) (v : Nat) : (s.raiseMsix v).mgmt = s.mgmt := by
  unfold State.raiseMsix; split <;> rfl

theorem State.mem_raiseMsix (s : State) (v : Nat) : v ∈ (s.raiseMsix v).msix := by
  unfold State.raiseMsix
  split
  · next h => exact List.contains_iff_mem.1 h
  · simp

@[simp] theorem State.logError_out (s : State) (kind c va frame sector : Nat) :
    (s.logError kind c va frame sector).out = s.out := by
  unfold State.logError; rw [State.raiseMsix_out]; rfl

@[simp] theorem State.logError_elogn (s : State) (kind c va frame sector : Nat) :
    (s.logError kind c va frame sector).mgmt.elogn = (s.mgmt.elogn + 1) % 2 ^ 32 := by
  unfold State.logError; rw [State.raiseMsix_mgmt]; rfl

theorem State.mem_logError_msix (s : State) (kind c va frame sector : Nat) :
    128 ∈ (s.logError kind c va frame sector).msix := State.mem_raiseMsix _ _

/-! ### Management registers with a range -/

/-- A context in a state that keeps `partn` as it is (R439). -/
def Ctx.holdsPartn (c : Ctx) : Prop := c.st = .running ∨ c.st = .halting ∨ c.st = .halted ∨ c.st = .faulted

theorem Ctx.not_holdsPartn_of_not_occupies {c : Ctx} (h : c.occupies = false) : ¬ c.holdsPartn := by
  unfold Ctx.occupies at h
  rintro (hc | hc | hc | hc) <;> simp [hc] at h

/-- A write of `partn` is taken when no context holds it and its value is a count that the device has. -/
theorem execPartnWrite_taken {s : State} {v : DWord} (hs : ∀ c ∈ s.ctxs, ¬ c.holdsPartn)
    (hv : v = 1 ∨ v = 2 ∨ v = 4 ∨ v = 8) :
    execPartnWrite v s = .next { s with mgmt := { s.mgmt with partn := v.toNat } } := by
  unfold execPartnWrite
  dsimp only
  rw [if_neg]
  simp only [Bool.or_eq_true, List.any_eq_true, not_or, not_exists, not_and]
  refine ⟨fun c hc hb => hs c hc ?_, ?_⟩
  · unfold Ctx.holdsPartn
    cases hst : c.st <;> simp [hst] at hb ⊢
  · rcases hv with rfl | rfl | rfl | rfl <;> decide

theorem execPartnWrite_held {s : State} {v : DWord} (hs : ∃ c ∈ s.ctxs, c.holdsPartn) : execPartnWrite v s = .next s := by
  obtain ⟨c, hc, hst⟩ := hs
  unfold execPartnWrite
  dsimp only
  rw [if_pos]
  simp only [Bool.or_eq_true, List.any_eq_true]
  refine .inl ⟨c, hc, ?_⟩
  rcases hst with h | h | h | h <;> rw [h]

theorem execPartnWrite_range {s : State} {v : DWord} (h1 : v ≠ 1) (h2 : v ≠ 2) (h4 : v ≠ 4) (h8 : v ≠ 8) :
    execPartnWrite v s = .next s := by
  have hv : (v == 1 || v == 2 || v == 4 || v == 8) = false := by
    simp only [Bool.or_eq_false_iff, beq_eq_false_iff_ne]
    exact ⟨⟨⟨h1, h2⟩, h4⟩, h8⟩
  unfold execPartnWrite
  dsimp only
  rw [hv, Bool.not_false, Bool.or_true, if_pos rfl]

theorem execPwrcapWrite_eq (v : DWord) (s : State) : execPwrcapWrite v s =
    if v.toNat % 2 ^ 16 < 600 ∨ 1150 < v.toNat % 2 ^ 16 then .next s
    else .next { s with mgmt := { s.mgmt with pwrcap := v.toNat % 2 ^ 16 } } := by
  simp only [execPwrcapWrite, Bool.or_eq_true, decide_eq_true_eq]

theorem execClockAdjust_eq (mhz : Nat) (s : State) : execClockAdjust mhz s =
    if mhz < 1300 ∨ 2600 < mhz then .next s else .next { s with arithMHz := mhz } := by
  simp only [execClockAdjust, tryClockAdjust, made, Bool.or_eq_true, decide_eq_true_eq]
  split <;> rfl

theorem execStglenWrite_eq (v : DWord) (s : State) : execStglenWrite v s =
    if (s.boot.phase = 1 ∨ s.boot.phase = 3) ∧ v.toNat ≤ 2 ^ 25 then
      .next { s with boot := { s.boot with staged := some v.toNat } }
    else .next s := by
  simp only [execStglenWrite, Bool.and_eq_true, Bool.or_eq_true, beq_iff_eq, decide_eq_true_eq]

/-! ### The attestation report -/

theorem getD_append_left {l l' : List Byte} {k : Nat} (h : k < l.length) : (l ++ l').getD k 0 = l.getD k 0 := by
  rw [List.getD_eq_getElem?_getD, List.getD_eq_getElem?_getD, List.getElem?_append_left h]

theorem getD_append_right {l l' : List Byte} {k : Nat} (h : l.length ≤ k) :
    (l ++ l').getD k 0 = l'.getD (k - l.length) 0 := by
  rw [List.getD_eq_getElem?_getD, List.getD_eq_getElem?_getD, List.getElem?_append_right h]

@[simp] theorem length_sha512 (n : Nat) (m : Sparse Byte) : (sha512 n m).length = 64 := by
  simp [sha512]

@[simp] theorem length_leBytes (n x : Nat) : (leBytes n x).length = n := by simp [leBytes]

@[simp] theorem length_beBytes (n x : Nat) : (beBytes n x).length = n := by simp [beBytes]

@[simp] theorem State.length_reportBody (s : State) : s.reportBody.length = 200 := by simp [State.reportBody]

theorem State.reportBody_nonce (s : State) {k : Nat} (hk : k < 64) :
    s.reportBody.getD k 0 = byteAt s.mgmt.report k := by
  unfold State.reportBody
  rw [getD_append_left, getD_append_left, getD_append_left, getD_append_left] <;> simp [hk] <;> omega

theorem State.reportBody_image (s : State) {k : Nat} (hk : k < 64) :
    s.reportBody.getD (64 + k) 0 = (sha512 s.boot.imageLen s.boot.image).getD k 0 := by
  unfold State.reportBody
  rw [getD_append_left, getD_append_left, getD_append_left, getD_append_right] <;> simp <;> omega

theorem State.reportBody_ring (s : State) {k : Nat} (hk : k < 64) :
    s.reportBody.getD (128 + k) 0 = (sha512 4096 s.boot.ring).getD k 0 := by
  unfold State.reportBody
  rw [getD_append_left, getD_append_left, getD_append_right] <;> simp <;> omega

theorem State.reportBody_version (s : State) {k : Nat} (hk : k < 4) :
    s.reportBody.getD (192 + k) 0 = (leBytes 4 Config.minVersion.toNat).getD k 0 := by
  unfold State.reportBody
  rw [getD_append_left, getD_append_right] <;> simp
  omega

theorem State.reportBody_partn (s : State) (k : Nat) :
    s.reportBody.getD (196 + k) 0 = (leBytes 4 s.mgmt.partn).getD k 0 := by
  unfold State.reportBody
  rw [getD_append_right] <;> simp

theorem getD_beBytes (n x : Nat) {k : Nat} (hk : k < n) :
    (beBytes n x).getD k 0 = BitVec.ofNat 8 (x / 2 ^ (8 * (n - 1 - k))) := by
  simp [beBytes, hk]

/-- A report in which the first 200 bytes are the body and the next 132 its signature, most significant byte first (R447). -/
def SignedReport (body : List Byte) (answer : DWord) (report : Sparse Byte) : Prop :=
  (∀ k < 200, byteAt report k = body.getD k 0) ∧
  ∀ k < 132, byteAt report (200 + k) = (Config.signature body answer).extractLsb' (8 * (131 - k)) 8

theorem SignedReport.body_eq {body : List Byte} {answer : DWord} {report : Sparse Byte} (hl : body.length = 200)
    (h : SignedReport body answer report) : (List.range 200).map (byteAt report) = body := by
  refine List.ext_getElem (by simp [hl]) fun k hk _ => ?_
  have hk : k < 200 := by simpa using hk
  rw [List.getElem_map, List.getElem_range, h.1 k hk, List.getD_eq_getElem?_getD,
    List.getElem?_eq_getElem (by omega), Option.getD_some]

/-- A report that was requested completes as one that is signed, and nothing else changes. -/
theorem execAttestationReportReady_signed {s : State} (x : DWord) (h : s.mgmt.attn = true) : ∃ report,
    execAttestationReportReady x s = .next { s with mgmt := { s.mgmt with attn := false, report := report } } ∧
    SignedReport s.reportBody x report := by
  let l := s.reportBody ++ beBytes 132 (Config.signature s.reportBody x).toNat
  have hlen : l.length = 332 := by simp [l]
  refine ⟨(List.range l.length).foldl (fun r k => setByte r k (l.getD k 0)) s.mgmt.report, ?_, ?_, ?_⟩
  · simp [execAttestationReportReady, tryAttestationReportReady, made, h, l]
  · intro k hk
    rw [byteAt_foldl_setByte, if_pos (by omega), getD_append_left (by simpa using hk)]
  · intro k hk
    rw [byteAt_foldl_setByte, if_pos (by omega), getD_append_right (by simp), State.length_reportBody,
      Nat.add_sub_cancel_left, getD_beBytes _ _ hk]
    apply BitVec.eq_of_toNat_eq
    simp [Nat.shiftRight_eq_div_pow]

theorem attnWrite_completes {s : State} (h : s.mgmt.attn = false) : ∃ t : State,
    exec (.attnWrite 1) s = .next t ∧ { t with mgmt := s.mgmt } = s ∧ t.mgmt.attn = true ∧
    ∀ k < 64, byteAt t.mgmt.report k = byteAt s.mgmt.nonce k := by
  rw [exec_attnWrite, execAttnWrite, if_neg (by simp [h])]
  refine ⟨_, rfl, rfl, rfl, fun k hk => ?_⟩
  exact (byteAt_foldl_setByte (byteAt s.mgmt.nonce) 64 _ k).trans (if_pos hk)

theorem attestationReportReady_completes {s : State} (x : DWord) (h : s.mgmt.attn = true) : ∃ t : State,
    exec (.attestationReportReady x) s = .next t ∧ { t with mgmt := s.mgmt } = s ∧ t.mgmt.attn = false ∧
    (∀ k < 64, byteAt t.mgmt.report (64 + k) = (sha512 s.boot.imageLen s.boot.image).getD k 0) ∧
    (∀ k < 64, byteAt t.mgmt.report (128 + k) = (sha512 4096 s.boot.ring).getD k 0) ∧
    readLe t.mgmt.report 192 4 = Config.minVersion.toNat ∧ readLe t.mgmt.report 196 4 = s.mgmt.partn % 2 ^ 32 ∧
    (∀ k < 132, byteAt t.mgmt.report (200 + k) =
      (Config.signature ((List.range 200).map (byteAt t.mgmt.report)) x).extractLsb' (8 * (131 - k)) 8) ∧
    ∀ k < 64, byteAt t.mgmt.report k = byteAt s.mgmt.report k := by
  obtain ⟨report, hexec, hr⟩ := execAttestationReportReady_signed x h
  have hbody := hr.body_eq s.length_reportBody
  obtain ⟨hfirst, hsig⟩ := hr
  refine ⟨_, hexec, rfl, rfl, ?_, ?_, ?_, ?_, ?_, ?_⟩
  case refine_1 => exact fun k hk => (hfirst _ (by omega)).trans (s.reportBody_image hk)
  case refine_2 => exact fun k hk => (hfirst _ (by omega)).trans (s.reportBody_ring hk)
  case refine_3 =>
    rw [readLe_of_leBytes fun k hk => (hfirst _ (by omega)).trans (s.reportBody_version hk)]
    exact Nat.mod_eq_of_lt Config.minVersion.isLt
  case refine_4 => exact readLe_of_leBytes fun k hk => (hfirst _ (by omega)).trans (s.reportBody_partn k)
  case refine_5 => exact fun k hk => by rw [hbody, ← hsig k hk]
  case refine_6 => exact fun k hk => (hfirst k (by omega)).trans (s.reportBody_nonce hk)

/-! ### `rwdata` and the aperture -/

theorem execRwdataRead_place {s : State} {slot size : Nat} {p : Place} (ha : s.answers = true)
    (hp : s.rwPlace slot size .load = some p) : execRwdataRead slot size s =
      .next (s.answerRead (if s.ownsPlace slot p then BitVec.ofNat 64 (s.readPlace outside p size) else 0)) := by
  simp [execRwdataRead, ha, hp]

theorem execRwdataRead_refused {s : State} {slot size : Nat} (hp : s.rwPlace slot size .load = none) :
    execRwdataRead slot size s = .next (s.answerRead (allOnes size)) := by
  simp [execRwdataRead, hp]

theorem execRwdataWrite_place {s : State} {slot size : Nat} {p : Place} (v : DWord) (ha : s.answers = true)
    (hp : s.rwPlace slot size .store = some p) : execRwdataWrite slot size v s =
      .next (({ s with nextUid := s.nextUid + 1 } : State).store s.nextUid p v.toNat size) := by
  simp [execRwdataWrite, ha, hp, State.freshUid]

theorem execRwdataWrite_refused {s : State} {slot size : Nat} (v : DWord) (hp : s.rwPlace slot size .store = none) :
    execRwdataWrite slot size v s = .next s := by
  simp [execRwdataWrite, hp]

section Aperture

variable {s : State} {off size : Nat}

/-- The test of an aperture access answers no for one that R444 lets through. -/
theorem apertureTest_passes (ha : s.answers = true) (hz : hostSized off size = true) (ho : off < 2 ^ 24)
    (hd : inDevice (s.mgmt.apbase + off) size = true) :
    ¬ (!s.answers || !hostSized off size || decide (2 ^ 24 ≤ off) || !inDevice (s.apAddr off) size) = true := by
  simpa [State.apAddr, ha, hz, hd] using ho

theorem execApertureRead_good (ha : s.answers = true) (hz : hostSized off size = true) (ho : off < 2 ^ 24)
    (hd : inDevice (s.mgmt.apbase + off) size = true) (hb : s.badAt (s.mgmt.apbase + off) size = false) :
    execApertureRead off size s = .next (s.answerRead (BitVec.ofNat 64 (readLe s.mem (s.mgmt.apbase + off) size))) := by
  unfold execApertureRead
  rw [if_neg (apertureTest_passes ha hz ho hd), State.apAddr, if_neg (Bool.eq_false_iff.1 hb)]

theorem execApertureRead_bad (ha : s.answers = true) (hz : hostSized off size = true) (ho : off < 2 ^ 24)
    (hd : inDevice (s.mgmt.apbase + off) size = true) (hb : s.badAt (s.mgmt.apbase + off) size = true) :
    ∃ t : State, execApertureRead off size s = .next t ∧ t.out = s.out ++ [.read (allOnes size)] ∧
      t.mgmt.elogn = (s.mgmt.elogn + 1) % 2 ^ 32 ∧ 128 ∈ t.msix := by
  unfold execApertureRead
  rw [if_neg (apertureTest_passes ha hz ho hd), State.apAddr, if_pos hb]
  refine ⟨_, rfl, ?_, ?_, State.mem_logError_msix _ _ _ _ _ _⟩
  · exact congrArg (· ++ _) (State.logError_out _ _ _ _ _ _)
  · exact State.logError_elogn _ _ _ _ _ _

theorem execApertureRead_beyond (hd : inDevice (s.mgmt.apbase + off) size = false) :
    execApertureRead off size s = .next (s.answerRead (allOnes size)) := by
  simp [execApertureRead, State.apAddr, hd]

theorem execApertureWrite_beyond (v : DWord) (hd : inDevice (s.mgmt.apbase + off) size = false) :
    execApertureWrite off size v s = .next s := by
  simp [execApertureWrite, State.apAddr, hd]

theorem execApertureWrite_stores (v : DWord) (ha : s.answers = true) (hz : hostSized off size = true) (ho : off < 2 ^ 24)
    (hd : inDevice (s.mgmt.apbase + off) size = true) :
    ∃ t : State, execApertureWrite off size v s = .next t ∧
      readLe t.mem (s.mgmt.apbase + off) size = v.toNat % 2 ^ (8 * size) ∧
      (∀ a, a < s.mgmt.apbase + off ∨ s.mgmt.apbase + off + size ≤ a → byteAt t.mem a = byteAt s.mem a) ∧
      t.waves = s.waves := by
  obtain ⟨bad, fill, lost, hst⟩ :=
    ({ s with nextUid := s.nextUid + 1 } : State).store_phys s.nextUid (s.apAddr off) v.toNat size
  unfold execApertureWrite
  rw [if_neg (apertureTest_passes ha hz ho hd)]
  refine ⟨_, congrArg Host.Outcome.next hst, ?_, fun a ha => byteAt_writeLe_out _ _ _ _ _ ha, rfl⟩
  rw [← pow_256_eq]
  exact readLe_writeLe _ _ _ _

end Aperture

/-! ### Plain registers -/

/-- A write of eight bytes at a register's first byte replaces it whole. -/
@[simp] theorem mergeWrite_whole (old : Nat) (v : DWord) : mergeWrite old 0 8 v.toNat = v.toNat := by
  simp [mergeWrite, setFld, Nat.mod_eq_of_lt v.isLt]

theorem State.hostWrite_unsized {s : State} {off size : Nat} (v : DWord) (h : hostSized off size = false) :
    s.hostWrite off size v = s := by
  simp [State.hostWrite, h]

/-- In D0 the management registers take a write in every phase (R446). -/
theorem State.hostWrite_mgmt {s : State} {off size : Nat} (v : DWord) (hz : hostSized off size = true) (ho : off < 0x1000)
    (hp : s.power = .d0) : s.hostWrite off size v = s.writeMgmt off size v := by
  simp [State.hostWrite, hz, ho, hp]

theorem State.hostWrite_page {s : State} {off size : Nat} (v : DWord) (hz : hostSized off size = true) (hl : 0x100000 ≤ off)
    (hu : off < 0x140000) (ha : s.answers = true) :
    s.hostWrite off size v = s.writePage ((off - 0x100000) / 0x1000) (off % 0x1000) size v := by
  have hm : ¬ off < 0x1000 := by omega
  simp [State.hostWrite, hz, ha, hl, hu, hm]

theorem State.writeMgmt_node (s : State) (v : DWord) :
    s.writeMgmt 0x18 8 v = { s with mgmt := { s.mgmt with node := v.toNat % 2 ^ 16 } } := by
  simp [State.writeMgmt, Mgmt.write]

theorem State.writeMgmt_elog (s : State) {v : DWord} (hv : v.toNat % 4096 = 0) :
    s.writeMgmt 0xD0 8 v = { s with mgmt := { s.mgmt with elog := v.toNat } } := by
  simp [State.writeMgmt, Mgmt.write, hv]

theorem State.writePage_cdesc (s : State) (slot : Nat) (v : DWord) :
    s.writePage slot 8 8 v = s.modCtx slot fun c => { c with cdesc := v } := by
  simp [State.writePage, Ctx.write]

/-! ### The obligation -/

/-- Settles O56: it holds, each clause from the lemma above about its register or access. -/
theorem hostAccessesComplete : Obligations.HostAccessesComplete := by
  unfold Obligations.HostAccessesComplete
  refine ⟨?partn, ?held, ?range, ?pwrcap, ?clock, ?staged, ?unstaged, ?bclr, ?attn, ?report, ?rwdata, ?aperture,
    ?unsized, ?node, ?elog, ?cdesc⟩
  case partn =>
    exact fun s v hs hv => execPartnWrite_taken (fun c hc => Ctx.not_holdsPartn_of_not_occupies (hs c hc)) hv
  case held => exact fun s v hs => execPartnWrite_held hs
  case range => exact fun s v h1 h2 h4 h8 => execPartnWrite_range h1 h2 h4 h8
  case pwrcap =>
    refine fun s v => ⟨fun hl hu => ?_, fun h => ?_⟩
    · rw [exec_pwrcapWrite, execPwrcapWrite_eq, if_neg (by omega)]
    · rw [exec_pwrcapWrite, execPwrcapWrite_eq, if_pos h]
  case clock =>
    refine fun s mhz => ⟨fun hl hu => ?_, fun h => ?_⟩
    · rw [exec_clockAdjust, execClockAdjust_eq, if_neg (by omega)]
    · rw [exec_clockAdjust, execClockAdjust_eq, if_pos h]
  case staged =>
    intro s v hp hv
    rw [exec_stglenWrite, execStglenWrite_eq, if_pos ⟨hp, hv⟩]
  case unstaged =>
    intro s v h
    rw [exec_stglenWrite, execStglenWrite_eq, if_neg (by omega)]
  case bclr =>
    exact fun s => ⟨_, rfl, rfl, fun x hx => by rw [List.eq_of_mem_replicate hx]; exact ⟨rfl, rfl⟩, rfl⟩
  case attn => exact fun s => attnWrite_completes
  case report => exact fun s x => attestationReportReady_completes x
  case rwdata =>
    refine fun s slot size ha => ⟨fun p hp ho => ?_, fun p hp ho => ?_, execRwdataRead_refused,
      fun v p => execRwdataWrite_place v ha, fun hp v => execRwdataWrite_refused v hp⟩
    · rw [exec_rwdataRead, execRwdataRead_place ha hp, if_pos ho]
    · rw [exec_rwdataRead, execRwdataRead_place ha hp, if_neg (by simp [ho])]
  case aperture =>
    exact fun s off size ha hz ho =>
      ⟨fun hd hb => ⟨execApertureRead_good ha hz ho hd hb, fun v => execApertureWrite_stores v ha hz ho hd⟩,
       fun hd hb => execApertureRead_bad ha hz ho hd hb,
       fun hd => ⟨execApertureRead_beyond hd, fun v => execApertureWrite_beyond v hd⟩⟩
  case unsized => exact fun s off size v h => congrArg Host.Outcome.next (State.hostWrite_unsized v h)
  case node =>
    intro s v hp
    rw [exec_registerWrite, execRegisterWrite, State.hostWrite_mgmt v (by decide) (by decide) hp, State.writeMgmt_node]
  case elog =>
    intro s v hp hv
    rw [exec_registerWrite, execRegisterWrite, State.hostWrite_mgmt v (by decide) (by decide) hp, State.writeMgmt_elog s hv]
  case cdesc =>
    intro s v ha
    rw [exec_registerWrite, execRegisterWrite, State.hostWrite_page v (by decide) (by decide) (by decide) ha]
    exact congrArg Host.Outcome.next (State.writePage_cdesc s 0 v)

end Sys2Proof.Machine
end

section
/-! `NOP` (R57): the words that decode to it, and what it does. -/

namespace Sys2Proof

/-! ### Bits of a word -/

theorem append_eq_zero_iff {m n : Nat} (x : BitVec m) (y : BitVec n) : x ++ y = 0 ↔ x = 0 ∧ y = 0 := by
  constructor
  · intro h
    have hx := congrArg (BitVec.extractLsb' n m) h
    have hy := congrArg (BitVec.extractLsb' 0 n) h
    rw [BitVec.extractLsb'_append_eq_left] at hx
    rw [BitVec.extractLsb'_append_eq_right] at hy
    exact ⟨by simpa using hx, by simpa using hy⟩
  · rintro ⟨rfl, rfl⟩
    simp

/-- A field is zero when its lower `m` bits and its upper `n` bits are. -/
theorem extract_split_eq_zero_iff {w : Word} (s m n : Nat) :
    w.extractLsb' s (n + m) = 0 ↔ w.extractLsb' s m = 0 ∧ w.extractLsb' (s + m) n = 0 := by
  rw [← BitVec.extractLsb'_append_extractLsb'_eq_extractLsb' rfl, append_eq_zero_iff, and_comm]

theorem getLsbD_eq_false_iff_extract (w : Word) (k : Nat) : w.getLsbD k = false ↔ w.extractLsb' k 1 = 0 := by
  simp [BitVec.toNat_eq, BitVec.getLsbD, Nat.testBit_eq_decide_div_mod_eq, Nat.shiftRight_eq_div_pow]

theorem extract_eq_zero_of_and_eq_zero {w m : Word} (s n : Nat) (hm : m.extractLsb' s n = BitVec.allOnes n)
    (h : w &&& m = 0) : w.extractLsb' s n = 0 := by
  have hw := congrArg (BitVec.extractLsb' s n) h
  rw [BitVec.extractLsb'_and, hm, BitVec.and_allOnes] at hw
  simpa using hw

/-- A base word is its fields (R18). -/
theorem base_word_ext {w v : Word} (hlen : wLen w = wLen v) (hop : wOp w = wOp v) (hd : wD w = wD v) (ha : wA w = wA v)
    (hb : wB w = wB v) : w = v := by
  simp only [wLen, wOp, wD, wA, wB, BitVec.toNat_eq, BitVec.extractLsb'_toNat, Nat.shiftRight_eq_div_pow] at *
  omega

/-- A word w1 that is zero outside the guard's bits 19:16 holds only a guard. -/
theorem exists_guard_of_extract {w : Word} (hlow : w.extractLsb' 0 16 = 0) (hhigh : w.extractLsb' 20 12 = 0) :
    ∃ x : BitVec 4, w = x.setWidth 32 <<< 16 := by
  refine ⟨w.extractLsb' 16 4, ?_⟩
  simp [BitVec.toNat_eq, Nat.shiftRight_eq_div_pow, Nat.shiftLeft_eq] at hlow hhigh ⊢
  omega

theorem guardOnly_iff (w : Word) : w &&& ~~~0x000F0000#32 = 0 ↔ ∃ x : BitVec 4, w = x.setWidth 32 <<< 16 := by
  constructor
  · exact fun h => exists_guard_of_extract (extract_eq_zero_of_and_eq_zero 0 16 (by decide) h)
      (extract_eq_zero_of_and_eq_zero 20 12 (by decide) h)
  · rintro ⟨x, rfl⟩
    revert x
    decide

/-! ### What the decoder accepts -/

theorem ite_some_eq_none_iff {α : Type} {c : Prop} [Decidable c] {x : α} {o : Option α} :
    (if c then some x else o) = none ↔ ¬ c ∧ o = none := by
  split <;> simp [*]

theorem ite_else_some_eq_none_iff {α : Type} {c : Prop} [Decidable c] {x : α} {o : Option α} :
    (if c then o else some x) = none ↔ c ∧ o = none := by
  split <;> simp [*]

theorem kindOf_eq_vec_iff : ∀ k : BitVec 2, kindOf k = .vec ↔ k = 0 := by decide

theorem rndOf_eq_ne_iff : ∀ r : BitVec 3, rndOf r = some .ne ↔ r = 0 := by decide

theorem formOf_mem_formsBE_iff : ∀ l : BitVec 2, formOf l ∈ formsBE ↔ l = 0 ∨ l = 2 := by decide

theorem slotErr_slotNone_iff (sp : OpSpec) (f : Form) (k : Kind) (n : BitVec 8) (ty : Nat) :
    slotErr sp slotNone f k n ty = none ↔ k = .vec ∧ n = 0 := by
  cases k <;> cases f <;> simp [slotErr, slotNone, mustPair, BitVec.toNat_eq]
  omega

theorem form_mem_of_encErr {op : Op} {e : Enc} (h : encErr op e = none) : e.form ∈ (opSpec op).forms := by
  simp only [encErr, ite_some_eq_none_iff] at h
  simpa using h.1

/-- The decoder's answer for an assigned opcode: a form that the opcode accepts, and fields that pass R44. -/
theorem decodeWords_cons_ok {w : Word} {ws : List Word} {op : Op} {i : Instr} (hop : Op.ofCode (wOp w) = some op)
    (h : decodeWords (w :: ws) = .ok i) :
    ∃ e, formOf (wLen w) ∈ (opSpec op).forms ∧
      decodeFields op w (ws.getD 0 0) (ws.getD 1 0) (ws.getD 2 0) (ws.getD 3 0) (ws.getD 4 0) (ws.getD 5 0) = .ok e ∧
      encErr op e = none ∧ i = Instr.ofOp e op := by
  simp only [decodeWords, hop] at h
  split at h
  · cases h
  split at h
  · cases h
  next hform =>
  split at h
  · cases h
  next e hfields =>
  split at h
  · cases h
  next herr =>
  cases h
  exact ⟨e, by simpa using hform, hfields, herr, rfl⟩

theorem decodeFields_base {op : Op} {w w1 w2 p0 p1 p2 p3 : Word} {e : Enc} (hlen : wLen w = 0)
    (h : decodeFields op w w1 w2 p0 p1 p2 p3 = .ok e) : e = baseEnc (opSpec op) w := by
  rw [decodeFields, hlen] at h
  cases h
  rfl

theorem decodeFields_extended {op : Op} {w w1 w2 p0 p1 p2 p3 : Word} {e : Enc} (hlen : wLen w = 2)
    (h : decodeFields op w w1 w2 p0 p1 p2 p3 = .ok e) :
    ∃ r, rndOf (w1.extractLsb' 29 3) = some r ∧ w2.getLsbD 13 = false ∧ e = extEnc .extended r w w1 w2 0 0 0 0 := by
  have hform : formOf (wLen w) = .extended := by rw [hlen]; rfl
  simp only [decodeFields, hform] at h
  cases hr : rndOf (w1.extractLsb' 29 3) with
  | none => simp [hr] at h
  | some r =>
    cases hres : w2[13] with
    | true => simp [hr, hres] at h
    | false => exact ⟨r, rfl, hres, by simpa [hr, hres, eq_comm] using h⟩

/-! ### The words of `NOP` -/

/-- The fields that the decoder accepts of a `NOP`: the guard, and what its forms do not carry, are free (R57). -/
structure NopFields (e : Enc) : Prop where
  form : e.form = .base ∨ e.form = .extended
  d    : e.d = 0
  a    : e.ak = .vec ∧ e.a = 0
  b    : e.bk = .vec ∧ e.b = 0
  c    : e.ck = .vec ∧ e.c = 0
  ty   : e.ty = 0
  rnd  : e.rnd = .ne
  sat  : e.sat = false
  opx  : e.opx = 0
  mod  : e.mod = 0
  le   : e.le = false
  ld   : e.ld = 0
  nw   : e.nw = false
  imm  : e.imm = 0

/-- The checks of R44 leave a `NOP` no field but its guard. -/
theorem nopFields_of_encErr {e : Enc} (h : encErr .nop e = none) : NopFields e := by
  have hform : e.form = .base ∨ e.form = .extended := by simpa [opSpec, formsBE] using form_mem_of_encErr h
  have hchecks : e.ty.toNat = 0 ∧ e.rnd = .ne ∧ e.sat = false ∧ e.opx.toNat = 0 ∧ e.mod = 0 ∧
      (e.nw = true → e.le = true ∧ e.d = 0) ∧ e.le = false ∧ e.d.toNat = 0 ∧ e.imm = 0 ∧
      (e.ak = .vec ∧ e.a = 0) ∧ (e.bk = .vec ∧ e.b = 0) ∧ (e.ck = .vec ∧ e.c = 0) ∧ e.ld = 0 := by
    simp only [encErr, ite_some_eq_none_iff, Bool.and_eq_true, decide_eq_true_eq] at h
    rcases hform with hf | hf <;>
      simpa [opSpec, formsBE, dMax, immOk, modOk, extraOk, absent, hf, ite_some_eq_none_iff,
        ite_else_some_eq_none_iff, slotErr_slotNone_iff] using h
  obtain ⟨hty, hrnd, hsat, hopx, hmod, hnw, hle, hd, himm, ha, hb, hc, hld⟩ := hchecks
  exact ⟨hform, BitVec.eq_of_toNat_eq hd, ha, hb, hc, BitVec.eq_of_toNat_eq hty, hrnd, hsat, BitVec.eq_of_toNat_eq hopx,
    hmod, hle, hld, by simpa [hle] using hnw, himm⟩

theorem NopFields.base_word {w : Word} (hop : wOp w = 0) (hlen : wLen w = 0)
    (h : NopFields (baseEnc (opSpec .nop) w)) : w = 0 :=
  base_word_ext hlen hop h.d ((append_eq_zero_iff 0#1 _).1 h.a.2).2 ((append_eq_zero_iff 0#1 _).1 h.b.2).2

section Extended

variable {r : Rnd} {w w1 w2 : Word} (h : NopFields (extEnc .extended r w w1 w2 0 0 0 0))
include h

theorem NopFields.extended_word (hop : wOp w = 0) (hlen : wLen w = 2) : w = 2 :=
  base_word_ext hlen hop h.d ((append_eq_zero_iff _ _).1 h.a.2).2 ((append_eq_zero_iff _ _).1 h.b.2).2

/-- Every field of w1 (R21) but the guard is zero. -/
theorem NopFields.w1_guardOnly (hr : rndOf (w1.extractLsb' 29 3) = some r) : w1 &&& ~~~0x000F0000#32 = 0 := by
  have hak := (kindOf_eq_vec_iff _).1 h.a.1
  have hbk := (kindOf_eq_vec_iff _).1 h.b.1
  have hck := (kindOf_eq_vec_iff _).1 h.c.1
  have hah := ((append_eq_zero_iff (w1.extractLsb' 2 1) _).1 h.a.2).1
  have hbh := ((append_eq_zero_iff (w1.extractLsb' 5 1) _).1 h.b.2).1
  have hnw := (getLsbD_eq_false_iff_extract w1 20).1 h.nw
  have hle := (getLsbD_eq_false_iff_extract w1 21).1 h.le
  have hrnd := (rndOf_eq_ne_iff _).1 (hr.trans (congrArg some h.rnd))
  have hlow : w1.extractLsb' 0 16 = 0 := by
    rw [extract_split_eq_zero_iff 0 2 14, extract_split_eq_zero_iff 2 1 13, extract_split_eq_zero_iff 3 2 11,
      extract_split_eq_zero_iff 5 1 10, extract_split_eq_zero_iff 6 2 8]
    exact ⟨hak, hah, hbk, hbh, hck, h.c.2⟩
  have hhigh : w1.extractLsb' 20 12 = 0 := by
    rw [extract_split_eq_zero_iff 20 1 11, extract_split_eq_zero_iff 21 1 10, extract_split_eq_zero_iff 22 2 8,
      extract_split_eq_zero_iff 24 5 3]
    exact ⟨hnw, hle, h.ld, h.opx, hrnd⟩
  exact (guardOnly_iff w1).2 (exists_guard_of_extract hlow hhigh)

/-- Every field of w2 (R22) is zero. -/
theorem NopFields.w2_eq_zero (hres : w2.getLsbD 13 = false) : w2 = 0 := by
  have hsat := (getLsbD_eq_false_iff_extract w2 4).1 h.sat
  have hres0 := (getLsbD_eq_false_iff_extract w2 13).1 hres
  have hw2 : w2.extractLsb' 0 32 = 0 := by
    rw [extract_split_eq_zero_iff 0 4 28, extract_split_eq_zero_iff 4 1 27, extract_split_eq_zero_iff 5 8 19,
      extract_split_eq_zero_iff 13 1 18]
    exact ⟨h.ty, hsat, h.mod, hres0, h.imm⟩
  simpa using hw2

end Extended

/-- No words of opcode 0 decode but the zero word, and the word 2 with a guard. -/
theorem nop_words_of_decodeWords {w : Word} {ws : List Word} {i : Instr} (hop : wOp w = 0)
    (h : decodeWords (w :: ws) = .ok i) :
    w = 0 ∨ (w = 2 ∧ ws.getD 0 0 &&& ~~~0x000F0000#32 = 0 ∧ ws.getD 1 0 = 0) := by
  have hcode : Op.ofCode (wOp w) = some .nop := by rw [hop]; decide
  obtain ⟨e, hform, hfields, herr, -⟩ := decodeWords_cons_ok hcode h
  have hnop := nopFields_of_encErr herr
  rcases (formOf_mem_formsBE_iff _).1 hform with hlen | hlen
  · rw [decodeFields_base hlen hfields] at hnop
    exact .inl (hnop.base_word hop hlen)
  · obtain ⟨r, hr, hres, rfl⟩ := decodeFields_extended hlen hfields
    exact .inr ⟨hnop.extended_word hop hlen, hnop.w1_guardOnly hr, hnop.w2_eq_zero hres⟩

theorem eq_ok_of_toOption {ε α : Type} {r : Except ε α} {x : α} (h : r.toOption = some x) : r = .ok x := by
  cases r with
  | error _ => cases h
  | ok _ => cases h; rfl

/-- The extended `NOP` decodes with each of the 16 guards. -/
theorem decodeWords_nop_guard (x : BitVec 4) : decodeWords [2, x.setWidth 32 <<< 16, 0] =
    .ok (.nop (extEnc .extended .ne 2 (x.setWidth 32 <<< 16) 0 0 0 0 0)) := by
  apply eq_ok_of_toOption
  revert x
  decide

end Sys2Proof

namespace Sys2Proof.Machine

/-! ### `NOP` executed -/

theorem Issues.encErr_none {op : Op} {e : Enc} {s : State} {w : Wave} {sp : Split} (h : Issues s op e w sp) :
    encErr op e = none := by
  have hlegal := h.legal
  rw [earlyTrap, ite_some_eq_none_iff, Bool.or_eq_true, not_or] at hlegal
  simpa using hlegal.1.1

theorem usesOf_nop {e : Enc} (h : NopFields e) : usesOf .nop e = ⟨[], [], [], []⟩ := by
  rcases h.form with hf | hf <;>
    simp [usesOf, opSpec, srcUse, slotNone, h.a.1, h.b.1, h.c.1, blockUses, hf]

theorem issueOf_nop_uses {e : Enc} (h : NopFields e) (w : Wave) (sp : Split) :
    (issueOf .nop e w sp).uses = ⟨[], [], [], []⟩ := by
  simp [Issue.uses, usesOf_nop h, blockPairs, indexUse, rsvUse, rsvRead, rsvWritten]

theorem predUse_nop (e : Enc) : predUse .nop e = [] := rfl

theorem pendMeets_nothing (copy : Nat) (p : Pend) : pendMeets ⟨[], [], [], []⟩ [] copy p = false := by
  unfold pendMeets
  cases p.predDst <;> cases p.dst <;> simp [meetsAny]

/-- `NOP` is not among the events of R35, and it names no register that an outstanding write could reach (R36). -/
theorem latchAfter_nop {e : Enc} (h : NopFields e) (w : Wave) (sp : Split) : latchAfter .nop e w sp = w.latch := by
  have ht : touchesUnwaited (issueOf .nop e w sp) w = false := by
    simp [touchesUnwaited, issueOf_nop_uses h, predUse_nop, pendMeets_nothing]
  simp [latchAfter, latchesDrop, dropsLatches, opSpec, ht]

/-- An instruction with no effect but to advance leaves its wave as the issue made it, but for the split. -/
theorem finish_nothing_wave {op : Op} {e : Enc} {s : State} {w : Wave} {sp : Split} (h : Issues s op e w sp)
    (hj : NoJoin e sp) :
    ∃ t w', finish (issueOf op e w sp) (.done (issued op e s w sp)) = t ∧ Completed s t w w' sp (passed e sp) ∧
      { w' with splits := w.splits } = { w with latch := latchAfter op e w sp } := by
  obtain ⟨_, hw, hp⟩ := issuer_some h.issuing
  exact finish_done_completed (issued_only op e s w sp) (issued_wave hw) ⟨rfl⟩ (fun _ _ => rfl) hp rfl rfl hj

theorem execNop_completes {e : Enc} {s : State} {w : Wave} {sp : Split} (h : Issues s .nop e w sp) (hj : NoJoin e sp) :
    ∃ t w', execNop e s = .next t ∧ Completed s t w w' sp (passed e sp) ∧ { w' with splits := w.splits } = w := by
  obtain ⟨t, w', ht, hc, hw'⟩ := finish_nothing_wave h hj
  rw [latchAfter_nop (nopFields_of_encErr h.encErr_none)] at hw'
  exact ⟨t, w', by rw [execNop, runInstr_next h, ht], hc, hw'⟩

/-- Settles O10: it holds. The checks of R44 leave a `NOP` only its guard, so that it names no register and keeps the latches,
and so that its words are those of R57. -/
theorem nopOnlyAdvances : Obligations.NopOnlyAdvances := by
  refine ⟨fun s e w sp h hj => ?_, ⟨_, rfl⟩, fun w1 h => ?_, fun w ws i => nop_words_of_decodeWords⟩
  · rw [exec_nop]
    exact execNop_completes h hj
  · obtain ⟨x, rfl⟩ := (guardOnly_iff w1).1 h
    exact ⟨_, decodeWords_nop_guard x⟩

end Sys2Proof.Machine
end

section
/-! Vector results thread by thread (R33, R34, R84, R146): the value that a thread's destination or latch slot holds, and its flags. -/

namespace Sys2Proof.Machine

/-! ### The result of one thread -/

/-- Writing one thread's result: its register or pair unless `NW`, its slot with `LE`, and its flags (R34, R84). -/
def Wave.threadResult (e : Enc) (wide : Bool) (f : Nat → FRes) (w : Wave) (t : Nat) : Wave :=
  let w := if e.nw then w else w.setVW e.d.toNat wide t (f t).bits
  let w := if e.le then w.setLatch e.ld.toNat t (if wide then (f t).bits % 2 ^ 64 else (f t).bits % 2 ^ 32) else w
  if (f t).fl = 0 then w else w.raise t (f t).fl

theorem Wave.vecResult_eq_forEach (w : Wave) (e : Enc) (wide : Bool) (en : Word) (f : Nat → FRes) :
    w.vecResult e wide en f =
      forEach (lanesOf en) (Wave.threadResult e wide f) (if e.le then w.openLatch e.ld.toNat else w) := rfl

@[simp] theorem Wave.fp_setVW (w : Wave) (r : Nat) (wide : Bool) (t x : Nat) : (w.setVW r wide t x).fp = w.fp := by
  cases wide <;> rfl

@[simp] theorem Wave.fp_openLatch (w : Wave) (b : Nat) : (w.openLatch b).fp = w.fp := by
  unfold Wave.openLatch; split <;> rfl

theorem Wave.fp_raise (w : Wave) (t u : Nat) (fl : Byte) :
    sget 0 (w.raise t fl).fp u = if u = t then sget 0 w.fp u ||| fl else sget 0 w.fp u := by
  show sget 0 (sset 0 w.fp t _) u = _
  rw [sget_sset]
  split
  · next h => rw [h]
  · rfl

theorem Wave.fp_threadResult (e : Enc) (wide : Bool) (f : Nat → FRes) (w : Wave) (t u : Nat) :
    sget 0 (w.threadResult e wide f t).fp u = if u = t then sget 0 w.fp u ||| (f t).fl else sget 0 w.fp u := by
  have hfp : ∀ x : Wave, x.fp = w.fp → sget 0 (if (f t).fl = 0 then x else x.raise t (f t).fl).fp u =
      if u = t then sget 0 w.fp u ||| (f t).fl else sget 0 w.fp u := by
    intro x hx
    split
    · next h => simp [h, hx]
    · rw [Wave.fp_raise, hx]
  refine hfp _ ?_
  cases e.le <;> cases e.nw <;> simp [Wave.setLatch]

theorem Wave.fp_threadResult_of_no_flag (e : Enc) (wide : Bool) {f : Nat → FRes} (w : Wave) {t : Nat} (h : (f t).fl = 0) :
    (w.threadResult e wide f t).fp = w.fp := by
  unfold Wave.threadResult
  rw [if_pos h]
  cases e.le <;> cases e.nw <;> simp [Wave.setLatch]

/-- Raising flags changes no value that an instruction writes. -/
@[simp] theorem written_raise (e : Enc) (w : Wave) (wide : Bool) (t u : Nat) (fl : Byte) :
    written e (w.raise t fl) wide u = written e w wide u := rfl

theorem latchSlot_setLatch (w : Wave) (b t u x : Nat) :
    latchSlot (w.setLatch b t x).latch b u = if u = t then BitVec.ofNat 64 x else latchSlot w.latch b u := by
  show sget 0 (sset 0 w.latch.slots (b * 32 + t) _) (b * 32 + u) = _
  rw [sget_sset]
  simp only [Nat.add_left_cancel_iff]
  rfl

/-- The place of a result holds it: the latch slot with `NW`, and the register or pair without. -/
theorem Wave.written_threadResult {e : Enc} (hl : e.nw = true → e.le = true) (wide : Bool) (f : Nat → FRes) (w : Wave) {t : Nat}
    (ht : t < 32) : written e (w.threadResult e wide f t) wide t = (f t).bits % 2 ^ (if wide then 64 else 32) := by
  have hr : ∀ x : Wave, written e (if (f t).fl = 0 then x else x.raise t (f t).fl) wide t = written e x wide t := by
    intro x; split <;> simp
  refine (hr _).trans ?_
  unfold written
  cases hn : e.nw
  · have hv : ∀ (x : Wave) y, vecValue (x.setLatch e.ld.toNat t y) e.d.toNat wide t = vecValue x e.d.toNat wide t := fun _ _ => rfl
    simp only [Bool.false_eq_true, if_false]
    rw [apply_ite (fun x : Wave => vecValue x e.d.toNat wide t), hv, ite_self, Wave.vecValue_setVW _ _ _ _ _ ht]
    cases wide <;> rfl
  · simp only [hl hn, if_true, latchSlot_setLatch, BitVec.toNat_ofNat]
    cases wide <;> simp
    omega

/-- The result of a thread changes no other thread's. -/
theorem Wave.written_threadResult_ne (e : Enc) (wide : Bool) (f : Nat → FRes) (w : Wave) {t u : Nat} (ht : t < 32) (hu : u < 32)
    (h : u ≠ t) : written e (w.threadResult e wide f t) wide u = written e w wide u := by
  have hr : ∀ x : Wave, written e (if (f t).fl = 0 then x else x.raise t (f t).fl) wide u = written e x wide u := by
    intro x; split <;> simp
  refine (hr _).trans ?_
  unfold written
  have hs : ∀ (x : Wave) y, latchSlot (x.setLatch e.ld.toNat t y).latch e.ld.toNat u = latchSlot x.latch e.ld.toNat u :=
    fun x y => by rw [latchSlot_setLatch, if_neg h]
  have hv : ∀ (x : Wave) y, vecValue (x.setLatch e.ld.toNat t y) e.d.toNat wide u = vecValue x e.d.toNat wide u := fun _ _ => rfl
  cases e.nw
  · simp only [Bool.false_eq_true, if_false]
    rw [apply_ite (fun x : Wave => vecValue x e.d.toNat wide u), hv, ite_self,
      vecValue_congr (fun r => Wave.vreg_setVW_ne _ _ _ _ _ r _ ht hu h)]
  · simp only [if_true]
    rw [apply_ite (fun x : Wave => (latchSlot x.latch e.ld.toNat u).toNat), hs, ite_self]

/-! ### The results of the enabled threads -/

/-- What no step of a list changes. -/
theorem forEach_keeps {α β : Type} (obs : α → β) (g : α → Nat → α) (l : List Nat) (h : ∀ x, ∀ u ∈ l, obs (g x u) = obs x) (x : α) :
    obs (forEach l g x) = obs x := by
  unfold forEach
  induction l generalizing x with
  | nil => rfl
  | cons u r ih => exact (ih (fun x v hv => h x v (by simp [hv])) _).trans (h x u (by simp))

/-- What only the step of `t` changes is after all steps what it is after that step. -/
theorem forEach_own {α β : Type} (obs : α → β) (g : α → Nat → α) {l : List Nat} (hd : l.Nodup) {t : Nat} (ht : t ∈ l)
    (h : ∀ x, ∀ u ∈ l, u ≠ t → obs (g x u) = obs x) (x : α) : ∃ y, obs y = obs x ∧ obs (forEach l g x) = obs (g y t) := by
  induction l generalizing x with
  | nil => cases ht
  | cons u r ih =>
    obtain ⟨hu, hr⟩ := List.nodup_cons.1 hd
    by_cases hut : u = t
    · subst hut
      exact ⟨x, rfl, forEach_keeps obs g r
        (fun y v hv => h y v (List.mem_cons_of_mem _ hv) fun hvu => hu (hvu ▸ hv)) (g x u)⟩
    · obtain ⟨y, hy, hown⟩ := ih hr ((List.mem_cons.1 ht).resolve_left (Ne.symm hut))
        (fun y v hv => h y v (List.mem_cons_of_mem _ hv)) (g x u)
      exact ⟨y, hy.trans (h x u List.mem_cons_self hut), hown⟩

theorem nodup_lanesOf (m : Word) : (lanesOf m).Nodup := List.nodup_range.filter _

/-- What a vector result leaves of the thread values: where the result of each enabled thread is, and its flags. -/
structure ThreadResults (e : Enc) (w w' : Wave) (en : Word) (wide : Bool) (f : Nat → FRes) : Prop where
  written : ∀ t < 32, en.getLsbD t = true → written e w' wide t = (f t).bits % 2 ^ (if wide then 64 else 32)
  flags   : ∀ t < 32, en.getLsbD t = true → sget 0 w'.fp t = sget 0 w.fp t ||| (f t).fl
  noFlags : (∀ t, (f t).fl = 0) → w'.fp = w.fp

theorem Wave.vecResult_threadResults (w : Wave) {e : Enc} (hl : e.nw = true → e.le = true) (wide : Bool) (en : Word)
    (f : Nat → FRes) : ThreadResults e w (w.vecResult e wide en f) en wide f := by
  rw [Wave.vecResult_eq_forEach]
  have hopen : (if e.le then w.openLatch e.ld.toNat else w).fp = w.fp := by split <;> simp
  generalize (if e.le then w.openLatch e.ld.toNat else w) = w₀ at hopen
  refine ⟨fun t ht hen => ?_, fun t ht hen => ?_, fun hfl => ?_⟩
  · obtain ⟨y, _, hy⟩ := forEach_own (fun x => Machine.written e x wide t) (Wave.threadResult e wide f) (nodup_lanesOf en)
      (mem_lanesOf.2 ⟨ht, hen⟩)
      (fun x u hu hut => Wave.written_threadResult_ne e wide f x (mem_lanesOf.1 hu).1 ht (Ne.symm hut)) w₀
    exact hy.trans (Wave.written_threadResult hl wide f y ht)
  · obtain ⟨y, hy0, hy⟩ := forEach_own (fun x => sget 0 x.fp t) (Wave.threadResult e wide f) (nodup_lanesOf en)
      (mem_lanesOf.2 ⟨ht, hen⟩)
      (fun x u _ hut => by rw [Wave.fp_threadResult, if_neg (Ne.symm hut)]) w₀
    rw [hy, Wave.fp_threadResult, if_pos rfl, hy0, hopen]
  · exact (forEach_keeps Wave.fp _ _ (fun x u _ => Wave.fp_threadResult_of_no_flag e wide x (hfl u)) w₀).trans hopen

/-! ### Instructions -/

theorem le_of_nw_of_encErr {op : Op} {e : Enc} (h : encErr op e = none) (hn : e.nw = true) : e.le = true := by
  simp only [encErr, ite_some_eq_none_iff] at h
  obtain ⟨-, -, -, -, -, -, hlatch, -⟩ := h
  simp only [hn, Bool.true_and, Bool.or_eq_true, not_or] at hlatch
  simpa using hlatch.1

/-- `TYPE` is one that the opcode lists (R29). -/
theorem type_mem_of_encErr {op : Op} {e : Enc} (h : encErr op e = none) (hb : op ≠ .bra) (hc : op ≠ .call) :
    e.ty.toNat ∈ (opSpec op).types := by
  simp only [encErr, ite_some_eq_none_iff] at h
  obtain ⟨-, hty, -⟩ := h
  simpa [hb, hc] using hty

/-- A vector instruction completes, and each enabled thread has its result. -/
theorem runInstr_vec_threadResults {op : Op} {e : Enc} {s : State} {w : Wave} {sp : Split} (h : Issues s op e w sp)
    (hj : NoJoin e sp) {body : Issue → State → Res} (wide : Bool) (f : Nat → FRes)
    (hb : body (issueOf op e w sp) (issued op e s w sp) = (issueOf op e w sp).vec (issued op e s w sp) wide f) :
    ∃ t w', runInstr op e s body = .next t ∧ Completed s t w w' sp (passed e sp) ∧
      VecResult op e w w' sp (if wide then 2 else 1) ∧ ThreadResults e w w' (enabledOf op e w sp) wide f := by
  obtain ⟨t, w', hrun, hcompleted, hvec⟩ := runInstr_vec h hj _ wide f hb rfl
  refine ⟨t, w', hrun, hcompleted, hvec, ?_⟩
  have hres := Wave.vecResult_threadResults { w with latch := latchAfter op e w sp } (le_of_nw_of_encErr h.encErr_none) wide
    (enabledOf op e w sp) f
  obtain ⟨t₁, w₁, ht₁, hc₁, hw₁⟩ := finish_wave h hj (fun x => x.vecResult e wide (enabledOf op e w sp) f) fun x =>
    congrArg (fun y : Wave => { y with p := x.p }) (Wave.vecResult_write x e wide _ f).rest
  have htt : t = t₁ := by
    rw [runInstr_next h, hb, Issue.vec, issueOf_uid] at hrun
    exact (Host.Outcome.next.inj hrun).symm.trans ht₁
  subst htt
  obtain rfl : w' = w₁ := Option.some.inj (hcompleted.wave.symm.trans hc₁.wave)
  rw [← hw₁] at hres
  exact ⟨hres.written, hres.flags, hres.noFlags⟩

end Sys2Proof.Machine
end

section
/-! Packed elements (R68) and the integer results of R147 and R149. -/

namespace Sys2Proof.Machine

/-! ### Packed elements -/

theorem elem_lt (w x k : Nat) : elem w x k < 2 ^ w := Nat.mod_lt _ (Nat.two_pow_pos w)

theorem packElems_lt (w : Nat) (l : List Nat) : packElems w l < 2 ^ (w * l.length) := by
  induction l with
  | nil => simp [packElems]
  | cons x r ih =>
    rw [packElems, List.length_cons, Nat.mul_succ, Nat.add_comm (w * _), Nat.pow_add]
    calc x % 2 ^ w + 2 ^ w * packElems w r
        < 2 ^ w + 2 ^ w * packElems w r := Nat.add_lt_add_right (Nat.mod_lt _ (Nat.two_pow_pos w)) _
      _ = 2 ^ w * (packElems w r + 1) := by rw [Nat.mul_succ, Nat.add_comm]
      _ ≤ 2 ^ w * 2 ^ (w * r.length) := Nat.mul_le_mul_left _ ih

/-- An element of packed elements. -/
theorem elem_packElems (w : Nat) {l : List Nat} {k : Nat} (hk : k < l.length) : elem w (packElems w l) k = l[k] % 2 ^ w := by
  induction l generalizing k with
  | nil => cases hk
  | cons x r ih =>
    unfold elem packElems
    cases k with
    | zero => simp
    | succ k =>
      have hdiv : (x % 2 ^ w + 2 ^ w * packElems w r) / 2 ^ w = packElems w r := by
        rw [Nat.add_mul_div_left _ _ (Nat.two_pow_pos w), Nat.div_eq_of_lt (Nat.mod_lt _ (Nat.two_pow_pos w)), Nat.zero_add]
      rw [Nat.mul_succ, Nat.add_comm (w * k), Nat.pow_add, ← Nat.div_div_eq_div_mul, hdiv]
      exact ih (by simpa using hk)

/-- An element of a register or pair of `n` bits that packed elements fill. -/
theorem elem_packed {w n c : Nat} (r : Nat → Nat) (hn : w * c = n) {k : Nat} (hk : k < c) :
    elem w (packElems w ((List.range c).map r) % 2 ^ n) k = r k % 2 ^ w := by
  have hlt := packElems_lt w ((List.range c).map r)
  rw [List.length_map, List.length_range, hn] at hlt
  rw [Nat.mod_eq_of_lt hlt, elem_packElems w (by simpa using hk)]
  simp

theorem elem_packRes {w n c : Nat} (r : Nat → FRes) (hn : w * c = n) {k : Nat} (hk : k < c) :
    elem w ((packRes w ((List.range c).map r)).bits % 2 ^ n) k = (r k).bits % 2 ^ w := by
  unfold packRes
  rw [List.map_map]
  exact elem_packed (fun j => (r j).bits) hn hk

theorem or_foldl_fl (l : List FRes) (x y : Byte) :
    x ||| l.foldl (fun f r => f ||| r.fl) y = l.foldl (fun f r => f ||| r.fl) (x ||| y) := by
  induction l generalizing y with
  | nil => rfl
  | cons r l ih => rw [List.foldl_cons, List.foldl_cons, ih, BitVec.or_assoc]

/-- The flags of a packed result are those of its elements (R68). -/
theorem or_packRes_fl (w c : Nat) (r : Nat → FRes) (x : Byte) :
    x ||| (packRes w ((List.range c).map r)).fl = (List.range c).foldl (fun y k => y ||| (r k).fl) x := by
  unfold packRes
  rw [or_foldl_fl, List.foldl_map]
  exact congrArg (fun y => (List.range c).foldl (fun y k => y ||| (r k).fl) y) BitVec.or_zero

theorem foldl_or_zero (c : Nat) (x : Byte) : (List.range c).foldl (fun y _ => y ||| (0 : Byte)) x = x := by
  induction c generalizing x with
  | zero => rfl
  | succ c ih => rw [List.range_succ, List.foldl_append, ih]; exact BitVec.or_zero

/-- A flag that some of `c` elements raise is raised once. -/
theorem foldl_or_ite (c : Nat) (p : Nat → Prop) [DecidablePred p] (fl x : Byte) :
    (List.range c).foldl (fun y k => y ||| if p k then 0 else fl) x = if ∀ k < c, p k then x else x ||| fl := by
  induction c with
  | zero => simp
  | succ c ih =>
    rw [List.range_succ, List.foldl_append, ih, List.foldl_cons, List.foldl_nil]
    simp only [Nat.forall_lt_succ_right]
    by_cases hall : ∀ k < c, p k
    · simp only [eq_true hall, true_and, if_true]
      by_cases hc : p c
      · rw [if_pos hc, if_pos hc]; exact BitVec.or_zero
      · rw [if_neg hc, if_neg hc]
    · simp only [eq_false hall, false_and, if_false]
      split
      · exact BitVec.or_zero
      · rw [BitVec.or_assoc, BitVec.or_self]

/-! ### Integers and their codes -/

theorem two_pow_pred {n : Nat} (hn : 0 < n) : 2 ^ n = 2 * 2 ^ (n - 1) := by
  obtain ⟨m, rfl⟩ : ∃ m, n = m + 1 := ⟨n - 1, by omega⟩
  rw [Nat.pow_succ', Nat.add_sub_cancel]

/-- The integer that an element's bits are. -/
def laneInt {n : Nat} (sg : Bool) (x : BitVec n) : Int := if sg then x.toInt else x.toNat

theorem readInt_elem {n : Nat} (hn : 0 < n) (sg : Bool) (x k : Nat) : readInt sg n (elem n x k) = laneInt sg (lane n x k) := by
  have hx := elem_lt n x k
  have hp := two_pow_pred hn
  unfold readInt laneInt lane
  rw [BitVec.toInt_eq_toNat_cond, BitVec.toNat_ofNat, Nat.mod_eq_of_lt hx]
  generalize elem n x k = y at hx
  rw [hp] at hx ⊢
  generalize 2 ^ (n - 1) = h at hx
  cases sg
  · simp
  · simp only [Bool.true_and, decide_eq_true_eq, if_true]
    split <;> split <;> omega

/-- A wrapped integer is its code modulo 2^n. -/
theorem ofNat_wrapInt (n : Nat) (x : Int) : BitVec.ofNat n (wrapInt n x) = BitVec.ofInt n x := by
  apply BitVec.eq_of_toNat_eq
  rw [BitVec.toNat_ofNat, Nat.mod_eq_of_lt (wrapInt_lt n x), BitVec.toNat_ofInt]
  rfl

theorem ofInt_laneInt {n : Nat} (sg : Bool) (x : BitVec n) : BitVec.ofInt n (laneInt sg x) = x := by
  cases sg
  · rw [laneInt, if_neg Bool.false_ne_true, BitVec.ofInt_natCast, BitVec.ofNat_toNat, BitVec.setWidth_eq]
  · exact BitVec.ofInt_toInt

theorem laneInt_lt_iff {n : Nat} (sg : Bool) (x y : BitVec n) :
    laneInt sg x < laneInt sg y ↔ (if sg then x.slt y else x.ult y) = true := by
  cases sg
  · simp [laneInt, BitVec.ult_eq_decide]
  · simp [laneInt, BitVec.slt_eq_decide]

/-- The high half of a product is its quotient by 2^n. -/
theorem extract_ofInt_high (n : Nat) (z : Int) : (BitVec.ofInt (2 * n) z).extractLsb' n n = BitVec.ofInt n (z / (2 ^ n : Nat)) := by
  apply BitVec.eq_of_toNat_eq
  have hp : (0 : Int) < (2 ^ n : Nat) := by exact_mod_cast Nat.two_pow_pos n
  have h2 : ((2 ^ (2 * n) : Nat) : Int) = (2 ^ n : Nat) * (2 ^ n : Nat) := by rw [Nat.two_mul, Nat.pow_add]; push_cast; rfl
  have hkey : z % (2 ^ (2 * n) : Nat) / (2 ^ n : Nat) % (2 ^ n : Nat) = z / (2 ^ n : Nat) % (2 ^ n : Nat) := by
    rw [h2, Int.emod_def z, Int.mul_assoc, Int.sub_mul_ediv_left _ _ (Int.ne_of_gt hp), Int.sub_mul_emod_self_left]
  have hnn : 0 ≤ z % (2 ^ (2 * n) : Nat) := Int.emod_nonneg _ (by rw [h2]; exact Int.ne_of_gt (Int.mul_pos hp hp))
  rw [BitVec.extractLsb'_toNat, Nat.shiftRight_eq_div_pow, BitVec.toNat_ofInt, BitVec.toNat_ofInt, ← hkey]
  apply Int.ofNat.inj
  show (((z % (2 ^ (2 * n) : Nat)).toNat / 2 ^ n % 2 ^ n : Nat) : Int) = _
  rw [Int.natCast_emod, Int.natCast_ediv, Int.toNat_of_nonneg hnn]
  exact (Int.toNat_of_nonneg (Int.emod_nonneg _ (Int.ne_of_gt hp))).symm

theorem ofInt_mul_high {n : Nat} (sg : Bool) (a b : BitVec n) :
    BitVec.ofInt n (laneInt sg a * laneInt sg b / (2 ^ n : Nat)) =
      if sg then (a.signExtend (2 * n) * b.signExtend (2 * n)).extractLsb' n n
      else (a.setWidth (2 * n) * b.setWidth (2 * n)).extractLsb' n n := by
  rw [← extract_ofInt_high, BitVec.ofInt_mul]
  cases sg
  · simp only [laneInt, Bool.false_eq_true, if_false, BitVec.ofInt_natCast, BitVec.ofNat_toNat]
  · rfl

theorem ofInt_min {n : Nat} (sg : Bool) (a b : BitVec n) :
    BitVec.ofInt n (min (laneInt sg a) (laneInt sg b)) = if laneInt sg b < laneInt sg a then b else a := by
  split
  · next h => rw [Int.min_eq_right (Int.le_of_lt h), ofInt_laneInt]
  · next h => rw [Int.min_eq_left (Int.not_lt.1 h), ofInt_laneInt]

theorem ofInt_max {n : Nat} (sg : Bool) (a b : BitVec n) :
    BitVec.ofInt n (max (laneInt sg a) (laneInt sg b)) = if laneInt sg a < laneInt sg b then b else a := by
  split
  · next h => rw [Int.max_eq_right (Int.le_of_lt h), ofInt_laneInt]
  · next h => rw [Int.max_eq_left (Int.not_lt.1 h), ofInt_laneInt]

theorem ofInt_natAbs {n : Nat} (a : BitVec n) : BitVec.ofInt n (a.toInt.natAbs : Int) = if a.slt 0 then -a else a := by
  have hslt : a.slt 0 = true ↔ a.toInt < 0 := by simp [BitVec.slt_eq_decide]
  split
  · next h => rw [Int.ofNat_natAbs_of_nonpos (Int.le_of_lt (hslt.1 h)), BitVec.ofInt_neg, BitVec.ofInt_toInt]
  · next h => rw [Int.natAbs_of_nonneg (Int.not_lt.1 fun hlt => h (hslt.2 hlt)), BitVec.ofInt_toInt]

/-! ### The results of R149 -/

/-- The exact result of R149 for an integer opcode on elements of `n` bits. -/
def intFn (op : Op) (n : Nat) : Int → Int → Int → Int :=
  match op with
  | .iadd => fun a b _ => a + b
  | .isub => fun a b _ => a - b
  | .imul => fun a b _ => a * b
  | .imulh => fun a b _ => a * b / (2 ^ n : Nat)
  | .imad => fun a b c => a * b + c
  | .imin => fun a b _ => min a b
  | .imax => fun a b _ => max a b
  | .iabs => fun a _ _ => (a.natAbs : Int)
  | _ => fun a _ _ => -a

/-- The integer opcodes of R149 in vector registers. -/
def intOps : List Op := [.iadd, .isub, .imul, .imulh, .imad, .imin, .imax, .iabs, .ineg]

theorem exec_intOps {op : Op} (hop : op ∈ intOps) (e : Enc) (s : State) :
    exec (Instr.ofOp e op) s = runInstr op e s fun i s => i.intOp s (intFn op (intWidth i.e.ty.toNat)) := by
  simp only [intOps, List.mem_cons, List.not_mem_nil, or_false] at hop
  rcases hop with rfl | rfl | rfl | rfl | rfl | rfl | rfl | rfl | rfl <;> rfl

/-- The exact result on the integers of elements is, modulo 2^n, the result of R149 on their bits. -/
theorem ofInt_intFn {n : Nat} {op : Op} (hop : op ∈ intOps) {sg : Bool} (habs : op = .iabs → sg = true) (a b c : BitVec n) :
    BitVec.ofInt n (intFn op n (laneInt sg a) (laneInt sg b) (laneInt sg c)) = intSpec op sg a b c := by
  simp only [intOps, List.mem_cons, List.not_mem_nil, or_false] at hop
  rcases hop with rfl | rfl | rfl | rfl | rfl | rfl | rfl | rfl | rfl
  · simp only [intFn, intSpec, BitVec.ofInt_add, ofInt_laneInt]
  · simp only [intFn, intSpec, Int.sub_eq_add_neg, BitVec.ofInt_add, BitVec.ofInt_neg, ofInt_laneInt, BitVec.sub_eq_add_neg]
  · simp only [intFn, intSpec, BitVec.ofInt_mul, ofInt_laneInt]
  · exact ofInt_mul_high sg a b
  · simp only [intFn, intSpec, BitVec.ofInt_add, BitVec.ofInt_mul, ofInt_laneInt]
  · simp only [intFn, intSpec, ofInt_min, laneInt_lt_iff]
  · simp only [intFn, intSpec, ofInt_max, laneInt_lt_iff]
  · rw [habs rfl]; exact ofInt_natAbs a
  · simp only [intFn, intSpec, BitVec.ofInt_neg, ofInt_laneInt]

/-! ### Results with and without `SAT` -/

theorem intWidth_pos (ty : Nat) : 0 < intWidth ty := by
  unfold intWidth; split <;> decide

/-- The elements of an integer `TYPE` fill its register or pair (R68). -/
theorem intWidth_mul_intCount {op : Op} (hop : op ∈ intOps) (e : Enc) (w : Wave) (sp : Split) :
    intWidth e.ty.toNat * intCount e.ty.toNat = if (issueOf op e w sp).wideTy then 64 else 32 := by
  have hwide : (opSpec op).wide = [2, 3] := by
    simp only [intOps, List.mem_cons, List.not_mem_nil, or_false] at hop
    rcases hop with rfl | rfl | rfl | rfl | rfl | rfl | rfl | rfl | rfl <;> rfl
  simp only [Issue.wideTy, issueOf_op, issueOf_e, hwide]
  generalize e.ty.toNat = ty
  unfold intWidth intCount
  split <;> simp_all

/-- The exact result of element `k` of thread `t`, on the elements of the operands. -/
def Issue.intExact (i : Issue) (t k : Nat) : Int :=
  let n := intWidth i.e.ty.toNat
  let x (r : Nat) : Int := laneInt (intSigned i.e.ty.toNat) (lane n r k)
  intFn i.op n (x (i.a i.wideTy t)) (x (i.b i.wideTy t)) (x (i.c i.wideTy t))

/-- An integer opcode completes; each element of a thread's result is its exact result saturated or wrapped, with its flags (R147). -/
theorem intOps_complete {op : Op} (hop : op ∈ intOps) {s : State} {e : Enc} {w : Wave} {sp : Split} (h : Issues s op e w sp)
    (hj : NoJoin e sp) :
    let i := issueOf op e w sp
    let n := intWidth e.ty.toNat
    let r (t k : Nat) : FRes := intElem e.sat (intSigned e.ty.toNat) n (i.intExact t k)
    ∃ (t : State) (w' : Wave), exec (Instr.ofOp e op) s = .next t ∧ t.wave? w.uid = some w' ∧
      ∀ t < 32, i.en.getLsbD t = true →
        (∀ k < intCount e.ty.toNat, elem n (written e w' i.wideTy t) k = (r t k).bits) ∧
        sget 0 w'.fp t = (List.range (intCount e.ty.toNat)).foldl (fun y k => y ||| (r t k).fl) (sget 0 w.fp t) := by
  intro i n r
  have hlt : ∀ t k, (r t k).bits % 2 ^ n = (r t k).bits := fun t k => by
    refine Nat.mod_eq_of_lt ?_
    simp only [r, intElem]
    split <;> exact wrapInt_lt _ _
  obtain ⟨t, w', hrun, hc, -, hres⟩ := runInstr_vec_threadResults h hj i.wideTy
    (fun t => packRes n ((List.range (intCount e.ty.toNat)).map (r t)))
    (body := fun i s => i.intOp s (intFn op (intWidth i.e.ty.toNat))) (by
      simp only [Issue.intOp, intResult, readInt_elem (intWidth_pos _)]; rfl)
  refine ⟨t, w', (exec_intOps hop e s).trans hrun, hc.wave, fun t ht hen => ⟨fun k hk => ?_, ?_⟩⟩
  · rw [hres.written t ht hen]
    exact (elem_packRes (r t) (intWidth_mul_intCount hop e w sp) hk).trans (hlt t k)
  · rw [hres.flags t ht hen, or_packRes_fl]

/-- Without `SAT` each element is the result of R149 modulo 2^n. -/
theorem lane_intElem_wraps {op : Op} (hop : op ∈ intOps) {e : Enc} {w : Wave} {sp : Split}
    (habs : op = .iabs → intSigned e.ty.toNat = true) (t k : Nat) :
    let i := issueOf op e w sp
    let n := intWidth e.ty.toNat
    BitVec.ofNat n (intElem false (intSigned e.ty.toNat) n (i.intExact t k)).bits =
      intSpec op (intSigned e.ty.toNat) (lane n (i.a i.wideTy t) k) (lane n (i.b i.wideTy t) k) (lane n (i.c i.wideTy t) k) :=
  (ofNat_wrapInt _ _).trans (ofInt_intFn hop habs _ _ _)

theorem intMin_le_intMax (sg : Bool) (n : Nat) : intMin sg n ≤ intMax sg n := by
  have := Nat.two_pow_pos n
  have := Nat.two_pow_pos (n - 1)
  unfold intMin intMax
  split <;> omega

theorem clampInt_eq (sg : Bool) (n : Nat) (x : Int) :
    clampInt sg n x = if x < intMin sg n then intMin sg n else if intMax sg n < x then intMax sg n else x := by
  have := intMin_le_intMax sg n
  unfold clampInt
  split <;> (try split) <;> omega

theorem clampInt_eq_self_iff (sg : Bool) (n : Nat) (x : Int) : clampInt sg n x = x ↔ intMin sg n ≤ x ∧ x ≤ intMax sg n := by
  have := intMin_le_intMax sg n
  unfold clampInt
  omega

theorem emod_of_nonneg_or_neg {m x : Int} (hl : -m ≤ x) (hu : x < m) : x % m = if 0 ≤ x then x else x + m := by
  split
  · next h => exact Int.emod_eq_of_lt h hu
  · next h => rw [← Int.add_emod_right, Int.emod_eq_of_lt (by omega) (by omega)]

/-- A code of a value within the range reads as that value. -/
theorem readInt_wrapInt {n : Nat} (hn : 0 < n) (sg : Bool) {x : Int} (hl : intMin sg n ≤ x) (hu : x ≤ intMax sg n) :
    readInt sg n (wrapInt n x) = x := by
  have hp := two_pow_pred hn
  unfold readInt wrapInt
  unfold intMin at hl
  unfold intMax at hu
  rw [hp] at hu ⊢
  generalize 2 ^ (n - 1) = p at *
  cases sg
  · simp only [Bool.false_and, Bool.false_eq_true, if_false] at *
    rw [Int.emod_eq_of_lt hl (by omega), Int.toNat_of_nonneg hl]
  · simp only [Bool.true_and, decide_eq_true_eq, if_true] at *
    rw [emod_of_nonneg_or_neg (by omega) (by omega)]
    split <;> split <;> omega

/-- `IABS` takes signed types alone (R149). -/
theorem intSigned_of_iabs {e : Enc} (h : encErr .iabs e = none) : intSigned e.ty.toNat = true := by
  have hty := type_mem_of_encErr h (by decide) (by decide)
  simp only [opSpec, specV1, List.mem_cons, List.not_mem_nil, or_false] at hty
  rcases hty with hty | hty | hty | hty <;> rw [hty] <;> rfl

/-- The results of R149, wrapped per element. -/
theorem intOps_wrap {op : Op} (hop : op ∈ intOps) {s : State} {e : Enc} {w : Wave} {sp : Split} (h : Issues s op e w sp)
    (hj : NoJoin e sp) (hsat : e.sat = false) :
    let i := issueOf op e w sp
    let n := intWidth e.ty.toNat
    ∃ (t : State) (w' : Wave), exec (Instr.ofOp e op) s = .next t ∧ t.wave? w.uid = some w' ∧
      ∀ t < 32, i.en.getLsbD t = true → ∀ k < intCount e.ty.toNat,
        lane n (written e w' i.wideTy t) k =
          intSpec op (intSigned e.ty.toNat) (lane n (i.a i.wideTy t) k) (lane n (i.b i.wideTy t) k) (lane n (i.c i.wideTy t) k) := by
  intro i n
  obtain ⟨t, w', hexec, hwave, hres⟩ := intOps_complete hop h hj
  refine ⟨t, w', hexec, hwave, fun t ht hen k hk => ?_⟩
  have habs : op = .iabs → intSigned e.ty.toNat = true := fun hop => intSigned_of_iabs (hop ▸ h.encErr_none)
  refine (congrArg (BitVec.ofNat n) ((hres t ht hen).1 k hk)).trans ?_
  rw [hsat]
  exact lane_intElem_wraps hop habs t k

theorem mem_intOps_of_sum {op : Op} (hop : op ∈ [Op.iadd, .isub]) : op ∈ intOps := by
  simp only [List.mem_cons, List.not_mem_nil, or_false] at hop
  rcases hop with rfl | rfl <;> decide

/-- The exact sum or difference is that of the elements read as integers. -/
theorem intExact_sum {op : Op} (hop : op ∈ [Op.iadd, .isub]) (e : Enc) (w : Wave) (sp : Split) (t k : Nat) :
    let i := issueOf op e w sp
    let n := intWidth e.ty.toNat
    let sg := intSigned e.ty.toNat
    i.intExact t k = readInt sg n (elem n (i.a i.wideTy t) k) +
      (if op = .iadd then 1 else -1) * readInt sg n (elem n (i.b i.wideTy t) k) := by
  simp only [List.mem_cons, List.not_mem_nil, or_false] at hop
  rcases hop with rfl | rfl
  · simp [Issue.intExact, intFn, readInt_elem (intWidth_pos _)]
  · simp [Issue.intExact, intFn, readInt_elem (intWidth_pos _), Int.sub_eq_add_neg]

/-- A saturated element is the nearest value of its range, and raises `IS` exactly when its exact result lies outside (R79). -/
theorem intElem_saturates {n : Nat} (hn : 0 < n) (sg : Bool) (x : Int) :
    readInt sg n (intElem true sg n x).bits =
      (if x < intMin sg n then intMin sg n else if intMax sg n < x then intMax sg n else x) ∧
    (intElem true sg n x).fl = if intMin sg n ≤ x ∧ x ≤ intMax sg n then 0 else flIS := by
  have hrange := intMin_le_intMax sg n
  refine ⟨?_, by simp only [intElem, if_true, clampInt_eq_self_iff]⟩
  rw [← clampInt_eq]
  exact readInt_wrapInt hn sg (by unfold clampInt; omega) (by unfold clampInt; omega)

/-- `IADD` and `ISUB` with `SAT` (R147). -/
theorem intSums_saturate {op : Op} (hop : op ∈ [Op.iadd, .isub]) {s : State} {e : Enc} {w : Wave} {sp : Split} (h : Issues s op e w sp)
    (hj : NoJoin e sp) (hsat : e.sat = true) :
    let i := issueOf op e w sp
    let n := intWidth e.ty.toNat
    let sg := intSigned e.ty.toNat
    ∃ (t : State) (w' : Wave), exec (Instr.ofOp e op) s = .next t ∧ t.wave? w.uid = some w' ∧
      ∀ t < 32, i.en.getLsbD t = true →
        (∀ k < intCount e.ty.toNat, readInt sg n (elem n (written e w' i.wideTy t) k) =
          if i.intExact t k < intMin sg n then intMin sg n
          else if intMax sg n < i.intExact t k then intMax sg n else i.intExact t k) ∧
        sget 0 w'.fp t = if ∀ k < intCount e.ty.toNat, intMin sg n ≤ i.intExact t k ∧ i.intExact t k ≤ intMax sg n
          then sget 0 w.fp t else sget 0 w.fp t ||| flIS := by
  dsimp only
  obtain ⟨t, w', hexec, hwave, hres⟩ := intOps_complete (mem_intOps_of_sum hop) h hj
  refine ⟨t, w', hexec, hwave, fun t ht hen => ?_⟩
  obtain ⟨hbits, hflags⟩ := hres t ht hen
  rw [hsat] at hbits hflags
  have hsaturates := fun k => intElem_saturates (intWidth_pos e.ty.toNat) (intSigned e.ty.toNat) ((issueOf op e w sp).intExact t k)
  refine ⟨fun k hk => by rw [hbits k hk]; exact (hsaturates k).1, ?_⟩
  rw [hflags]
  simp only [fun k => (hsaturates k).2]
  exact foldl_or_ite _ (fun k => intMin _ _ ≤ (issueOf op e w sp).intExact t k ∧ (issueOf op e w sp).intExact t k ≤ intMax _ _) _ _

end Sys2Proof.Machine
end

section
/-! Floating-point results of R159 and R160, element by element. -/

namespace Sys2Proof.Machine

/-! ### Codes of the formats of `TYPE` 0 to 2 -/

/-- The codes that an arithmetic result can be are below the sign bit. -/
theorem fmtOf_codes_lt {ty : Nat} (h : ty ≤ 2) :
    (fmtOf ty).nanCode < (fmtOf ty).signBit ∧ (fmtOf ty).infCode < (fmtOf ty).signBit ∧
    (fmtOf ty).maxCode < (fmtOf ty).signBit := by
  match ty, h with
  | 0, _ | 1, _ | 2, _ => decide

/-- The elements of a floating `TYPE` fill a register (R68). -/
theorem fmtOf_width_mul {ty : Nat} (h : ty ≤ 2) : (fmtOf ty).width * (32 / (fmtOf ty).width) = 32 := by
  match ty, h with
  | 0, _ | 1, _ | 2, _ => decide

theorem Fmt.two_pow_width (f : Fmt) : 2 ^ f.width = f.signBit + f.signBit := by
  unfold Fmt.width Fmt.signBit
  rw [show 1 + f.eb + f.fb = f.eb + f.fb + 1 by omega, Nat.pow_succ]
  omega

theorem withSign_lt {f : Fmt} (neg : Bool) {mag : Nat} (h : mag < f.signBit) : withSign f neg mag < 2 ^ f.width := by
  rw [f.two_pow_width]
  cases neg
  · exact Nat.lt_add_right _ h
  · exact Nat.add_lt_add_left h _

/-- A rounded result is a code of its format. -/
theorem RoundsTo.bits_lt {ty : Nat} (hty : ty ≤ 2) {r : Rnd} {sat nv : Bool} {k bits : Nat} {v : FVal} {fl : Byte}
    (h : RoundsTo (fmtOf ty) r sat k v nv bits fl) : bits < 2 ^ (fmtOf ty).width := by
  obtain ⟨hnan, hinf, hmax⟩ := fmtOf_codes_lt hty
  have hlimit : ∀ (c : Prop) [Decidable c], (if c then (fmtOf ty).maxCode else (fmtOf ty).infCode) < (fmtOf ty).signBit :=
    fun c _ => by split <;> assumption
  cases v with
  | nan => rw [h.1]; exact withSign_lt false hnan
  | inf n => rw [h.1]; exact withSign_lt n (hlimit _)
  | num n x => cases x with
    | zero => rw [h.1]; exact withSign_lt n (Nat.two_pow_pos _)
    | succ x =>
      obtain ⟨c, mag, -, -, -, -, hcode⟩ := h
      split at hcode
      · rw [hcode.1]; exact withSign_lt n (hlimit _)
      · next hle => rw [hcode.1]; exact withSign_lt n (Nat.lt_of_le_of_lt (Nat.le_of_not_lt hle) hmax)

/-! ### Arithmetic (R159) -/

/-- The opcodes of R159. -/
def fltOps : List Op := [.fadd, .fsub, .fmul, .ffma, .faddp, .fsubp, .fmulp, .ffmap]

theorem exec_fltOps {op : Op} (hop : op ∈ fltOps) (e : Enc) (s : State) :
    exec (Instr.ofOp e op) s = runInstr op e s fun i s => i.fltOp s (exactOf op) := by
  simp only [fltOps, List.mem_cons, List.not_mem_nil, or_false] at hop
  rcases hop with rfl | rfl | rfl | rfl | rfl | rfl | rfl | rfl <;> rfl

theorem type_le_of_fltOps {op : Op} (hop : op ∈ fltOps) {e : Enc} (h : encErr op e = none) : e.ty.toNat ≤ 2 := by
  simp only [fltOps, List.mem_cons, List.not_mem_nil, or_false] at hop
  rcases hop with rfl | rfl | rfl | rfl | rfl | rfl | rfl | rfl <;>
  · have hty := type_mem_of_encErr h (by decide) (by decide)
    simp only [opSpec, specF2, List.mem_cons, List.not_mem_nil, or_false] at hty
    omega

/-- R159: each element is its exact result rounded once, and the thread's flags are those of its elements. -/
theorem fltOps_round {op : Op} (hop : op ∈ fltOps) {s : State} {e : Enc} {w : Wave} {sp : Split} (h : Issues s op e w sp)
    (hj : NoJoin e sp) :
    let i := issueOf op e w sp
    let f := fmtOf e.ty.toNat
    let x (t k : Nat) := fltSpec op e.rnd f (fval f (elem f.width (i.a false t) k)) (fval f (elem f.width (i.b false t) k))
      (fval f (elem f.width (i.c false t) k))
    ∃ (t : State) (w' : Wave), exec (Instr.ofOp e op) s = .next t ∧ t.wave? w.uid = some w' ∧
      ∀ t < 32, i.en.getLsbD t = true → ∃ fl : Nat → Byte,
        (∀ k < 32 / f.width, RoundsTo f e.rnd e.sat (x t k).2.2 (x t k).1 (x t k).2.1 (elem f.width (written e w' false t) k) (fl k)) ∧
        sget 0 w'.fp t = (List.range (32 / f.width)).foldl (fun y k => y ||| fl k) (sget 0 w.fp t) := by
  intro i f x
  let r (t k : Nat) : FRes := roundRes f e.rnd e.sat (exactOf op e.rnd (decodeF f (elem f.width (i.a false t) k))
    (decodeF f (elem f.width (i.b false t) k)) (decodeF f (elem f.width (i.c false t) k)))
  have hty := type_le_of_fltOps hop h.encErr_none
  obtain ⟨hfb, hinf, hnan, hbias⟩ := fmtOf_ieee hty
  have hround : ∀ t k, RoundsTo f e.rnd e.sat (x t k).2.2 (x t k).1 (x t k).2.1 (r t k).bits (r t k).fl := fun t k =>
    exactOf_roundsTo hop f hfb hinf hnan hbias e.rnd e.sat _ _ _
  obtain ⟨t, w', hrun, hc, -, hres⟩ := runInstr_vec_threadResults h hj false
    (fun t => packRes f.width ((List.range (32 / f.width)).map (r t))) (body := fun i s => i.fltOp s (exactOf op)) rfl
  refine ⟨t, w', (exec_fltOps hop e s).trans hrun, hc.wave, fun t ht hen => ⟨fun k => (r t k).fl, fun k hk => ?_, ?_⟩⟩
  · rw [hres.written t ht hen]
    have helem := elem_packRes (r t) (fmtOf_width_mul hty) hk
    rw [Nat.mod_eq_of_lt (RoundsTo.bits_lt hty (hround t k))] at helem
    exact helem ▸ hround t k
  · rw [hres.flags t ht hen, or_packRes_fl]

/-! ### Minimum and maximum (R160) -/

/-- Ordering −0 below +0 changes the order of no other values. -/
theorem cmpVal_signedZero_neg_iff (a b : Val) :
    cmpVal true a b < 0 ↔ cmpVal false a b < 0 ∨ (a.isZero && a.neg? && (b.isZero && !b.neg?)) = true := by
  by_cases hz : (a.isZero && b.isZero) = true
  · obtain ⟨ha, hb⟩ := Bool.and_eq_true_iff.1 hz
    obtain ⟨n, e, rfl⟩ : ∃ n e, a = .fin n 0 e := by unfold Val.isZero at ha; split at ha <;> simp_all
    obtain ⟨n', e', rfl⟩ : ∃ n e, b = .fin n 0 e := by unfold Val.isZero at hb; split at hb <;> simp_all
    cases n <;> cases n' <;> simp [cmpVal, sumAt, Val.isZero, Val.neg?]
  · have hcmp : cmpVal true a b = cmpVal false a b := by
      unfold cmpVal
      simp only [Bool.true_and, Bool.false_and, hz]
    have hneg : (a.isZero && a.neg? && (b.isZero && !b.neg?)) = false := by
      cases hza : a.isZero <;> cases hzb : b.isZero <;> simp_all
    rw [hcmp, hneg]
    simp

theorem ValIs.zero_eq {u : Int} {v : Val} {x : FVal} (h : ValIs u v x) (n : Bool) :
    (v.isZero && (v.neg? == n)) = decide (x = .num n 0) := by
  cases v with
  | nan => cases x <;> first | rfl | exact h.elim
  | inf k => cases x <;> first | rfl | exact h.elim
  | fin k m e => cases x with
    | nan | inf => exact h.elim
    | num k' x =>
      obtain rfl : k = k' := h.1
      have hx := h.zero_iff
      cases m with
      | zero => rw [hx.2 rfl]; cases k <;> cases n <;> rfl
      | succ m => simp [Val.isZero, mt hx.1 (Nat.succ_ne_zero m)]

/-- `FMIN` and `FMAX` are those of R160. -/
theorem fminmax_eq_minmaxSpec {f : Fmt} (hinf : f.hasInf = true) (wantMax : Bool) (a b : Nat) :
    fminmax f wantMax a b = minmaxSpec f wantMax a b := by
  have ha := decodeF_is f hinf a
  have hb := decodeF_is f hinf b
  unfold fminmax minmaxSpec
  dsimp only
  rw [ha.isNan, hb.isNan]
  by_cases hna : fval f a = .nan
  · by_cases hnb : fval f b = .nan <;> simp [hna, hnb]
  · by_cases hnb : fval f b = .nan
    · simp [hna, hnb]
    · have hfirst : cmpVal true (decodeF f a) (decodeF f b) < 0 ↔
          ((fval f a).below (fval f b) || (decide (fval f a = .num true 0) && decide (fval f b = .num false 0))) = true := by
        rw [cmpVal_signedZero_neg_iff, (cmpVal_is ha hb hna hnb).1, Bool.or_eq_true, ← ha.zero_eq true, ← hb.zero_eq false]
        simp
      simp only [beq_eq_false_iff_ne.2 hna, beq_eq_false_iff_ne.2 hnb, hna, hnb, Bool.and_self, Bool.false_eq_true, if_false,
        hfirst, Bool.decide_eq_true]
      generalize ((fval f a).below (fval f b) || (decide (fval f a = .num true 0) && decide (fval f b = .num false 0))) = first
      cases first <;> cases wantMax <;> rfl

theorem fminmax_lt {ty : Nat} (hty : ty ≤ 2) (wantMax : Bool) {a b : Nat} (ha : a < 2 ^ (fmtOf ty).width)
    (hb : b < 2 ^ (fmtOf ty).width) : fminmax (fmtOf ty) wantMax a b < 2 ^ (fmtOf ty).width := by
  unfold fminmax
  dsimp only
  split
  · exact withSign_lt false (fmtOf_codes_lt hty).1
  · repeat' split
    all_goals assumption

/-- The opcodes of R160. -/
def minmaxOps : List Op := [.fmin, .fmax, .fminp, .fmaxp]

theorem exec_minmaxOps {op : Op} (hop : op ∈ minmaxOps) (e : Enc) (s : State) :
    exec (Instr.ofOp e op) s = runInstr op e s fun i s => i.minmaxOp s (op == .fmax || op == .fmaxp) := by
  simp only [minmaxOps, List.mem_cons, List.not_mem_nil, or_false] at hop
  rcases hop with rfl | rfl | rfl | rfl <;> rfl

theorem type_le_of_minmaxOps {op : Op} (hop : op ∈ minmaxOps) {e : Enc} (h : encErr op e = none) : e.ty.toNat ≤ 2 := by
  simp only [minmaxOps, List.mem_cons, List.not_mem_nil, or_false] at hop
  rcases hop with rfl | rfl | rfl | rfl <;>
  · have hty := type_mem_of_encErr h (by decide) (by decide)
    simp only [opSpec, specF2, List.mem_cons, List.not_mem_nil, or_false] at hty
    omega

/-- R160: each element is one of the operands' or the canonical NaN, and no flag is raised. -/
theorem minmaxOps_choose {op : Op} (hop : op ∈ minmaxOps) {s : State} {e : Enc} {w : Wave} {sp : Split} (h : Issues s op e w sp)
    (hj : NoJoin e sp) :
    let i := issueOf op e w sp
    let f := fmtOf e.ty.toNat
    ∃ (t : State) (w' : Wave), exec (Instr.ofOp e op) s = .next t ∧ t.wave? w.uid = some w' ∧ w'.fp = w.fp ∧
      ∀ t < 32, i.en.getLsbD t = true → ∀ k < 32 / f.width,
        elem f.width (written e w' false t) k =
          minmaxSpec f (op == .fmax || op == .fmaxp) (elem f.width (i.a false t) k) (elem f.width (i.b false t) k) := by
  intro i f
  have hty := type_le_of_minmaxOps hop h.encErr_none
  obtain ⟨-, hinf, -⟩ := fmtOf_ieee hty
  obtain ⟨t, w', hrun, hc, -, hres⟩ := runInstr_vec_threadResults h hj
    (body := fun i s => i.minmaxOp s (op == .fmax || op == .fmaxp)) false _ rfl
  refine ⟨t, w', (exec_minmaxOps hop e s).trans hrun, hc.wave, hres.noFlags fun _ => rfl, fun t ht hen k hk => ?_⟩
  rw [hres.written t ht hen, ← fminmax_eq_minmaxSpec hinf]
  exact (elem_packed _ (fmtOf_width_mul hty) hk).trans (Nat.mod_eq_of_lt (fminmax_lt hty _ (elem_lt _ _ _) (elem_lt _ _ _)))

/-! ### The obligation -/

/-- Settles O8: it holds. Each clause is that of its opcodes: wrapped and saturated integers, rounded results, and chosen operands. -/
theorem wrappedAndSaturatedResults : Obligations.WrappedAndSaturatedResults := by
  unfold Obligations.WrappedAndSaturatedResults
  refine ⟨?wrapped, ?saturated, ?rounded, ?chosen⟩
  case wrapped => exact fun op hop s e w sp h hj hsat => intOps_wrap hop h hj hsat
  case saturated =>
    intro op hop s e w sp h hj hsat
    have hsums := intSums_saturate hop h hj hsat
    simp only [intExact_sum hop] at hsums
    exact hsums
  case rounded => exact fun op hop s e w sp h hj => fltOps_round hop h hj
  case chosen => exact fun op hop s e w sp h hj => minmaxOps_choose hop h hj

end Sys2Proof.Machine
end

section
/-! Special values and presentation time (R84, R106-R108, R179). -/

namespace Sys2Proof.Machine

/-! ### What the issue shows of its wave and state -/

/-- An issued instruction sees of its wave all but the latches, which may be held ones (R35). -/
theorem issueOf_wave (op : Op) (e : Enc) (w : Wave) (sp : Split) : ∃ l, (issueOf op e w sp).w = { w with latch := l } := by
  unfold issueOf
  cases sp.held with
  | none => exact ⟨w.latch, rfl⟩
  | some l => exact ⟨l, rfl⟩

theorem issueOf_writesDone (op : Op) (e : Enc) (w : Wave) (sp : Split) (l : List Nat) :
    (issueOf op e w sp).w.writesDone l = w.writesDone l := by
  obtain ⟨x, hx⟩ := issueOf_wave op e w sp
  rw [hx]; rfl

/-- The issue changes nothing of the state but waves. -/
theorem issued_eq (op : Op) (e : Enc) (s : State) (w : Wave) (sp : Split) :
    ∃ ws, issued op e s w sp = { s with waves := ws } := by
  unfold issued
  split
  · exact ⟨_, rfl⟩
  · exact ⟨s.waves, rfl⟩

@[simp] theorem issued_pt (op : Op) (e : Enc) (s : State) (w : Wave) (sp : Split) : (issued op e s w sp).pt = s.pt := by
  obtain ⟨ws, hs⟩ := issued_eq op e s w sp
  rw [hs]

/-- The instruction at issue with the wave's own latches. -/
def ownIssue (op : Op) (e : Enc) (w : Wave) (sp : Split) : Issue := { w, sp, op, e, en := enabledOf op e w sp }

/-! ### `MOVS` -/

/-- The special values are those of the wave and the state at the issue (R179). -/
theorem special_issued (e : Enc) (s : State) (w : Wave) (sp : Split) (t : Nat) :
    (issueOf .movs e w sp).special (issued .movs e s w sp) t = (ownIssue .movs e w sp).special s t := by
  obtain ⟨l, hl⟩ := issueOf_wave .movs e w sp
  obtain ⟨ws, hs⟩ := issued_eq .movs e s w sp
  unfold Issue.special
  rw [hl, hs]
  rfl

section Registers

variable {e : Enc} {w w' : Wave} {en : Word} {f : Nat → FRes} {t : Nat}

theorem ThreadResults.vreg (h : ThreadResults e w w' en false f) (hnw : e.nw = false) (ht : t < 32) (hen : en.getLsbD t = true) :
    w'.vreg e.d.toNat t = BitVec.ofNat 32 (f t).bits := by
  have hw := h.written t ht hen
  rw [Machine.written, hnw] at hw
  exact BitVec.eq_of_toNat_eq (by rw [BitVec.toNat_ofNat]; exact hw)

theorem ThreadResults.vpair (h : ThreadResults e w w' en true f) (hnw : e.nw = false) (ht : t < 32) (hen : en.getLsbD t = true) :
    w'.vpair e.d.toNat t = BitVec.ofNat 64 (f t).bits := by
  have hw := h.written t ht hen
  rw [Machine.written, hnw] at hw
  exact BitVec.eq_of_toNat_eq (by rw [BitVec.toNat_ofNat]; exact hw)

end Registers

/-- The kernel identifier is the queue's number and the packet's index (R294). -/
theorem Kernel.ofNat_ident (k : Kernel) : BitVec.ofNat 32 k.ident = BitVec.ofNat 10 k.q ++ BitVec.ofNat 22 k.index := by
  apply BitVec.eq_of_toNat_eq
  rw [BitVec.toNat_append, ← Nat.shiftLeft_add_eq_or_of_lt (BitVec.isLt _), Nat.shiftLeft_eq, BitVec.toNat_ofNat, BitVec.toNat_ofNat,
    BitVec.toNat_ofNat, Kernel.ident]
  omega

/-- `MOVS` completes with its special value in every enabled thread. -/
theorem movs_completes {s : State} {e : Enc} {w : Wave} {sp : Split} (h : Issues s .movs e w sp) (hj : NoJoin e sp)
    (hdone : e.opx = 10 → w.writesDone (issueOf .movs e w sp).sfqBefore = true) :
    ∃ (t : State) (w' : Wave), exec (.movs e) s = .next t ∧ Completed s t w w' sp (passed e sp) ∧
      VecResult .movs e w w' sp (destRegs .movs e) ∧
      ThreadResults e w w' (enabledOf .movs e w sp) (e.opx == 8 || e.opx == 9)
        fun t => ⟨(ownIssue .movs e w sp).special s t, 0⟩ := by
  rw [exec_movs, execMovs, show destRegs .movs e = if e.opx == 8 || e.opx == 9 then 2 else 1 from rfl]
  refine runInstr_vec_threadResults h hj _ _ ?_
  have hnowait : ¬(e.opx = 10 && !(issueOf .movs e w sp).w.writesDone (issueOf .movs e w sp).sfqBefore) = true := by
    rw [issueOf_writesDone]
    simpa using hdone
  simp only [issueOf_e, special_issued]
  exact if_neg hnowait

/-- Each special value of R179. -/
theorem movs_values {s : State} {e : Enc} {w w' : Wave} {sp : Split} {en : Word}
    (h : ThreadResults e w w' en (e.opx == 8 || e.opx == 9)
      fun t => ⟨(ownIssue .movs e w sp).special s t, 0⟩)
    (hnw : e.nw = false) {t : Nat} (ht : t < 32) (hen : en.getLsbD t = true) :
    (e.opx = 0 → w'.vreg e.d.toNat t = BitVec.ofNat 32 (32 * w.idx + t)) ∧
    (e.opx = 1 → w'.vreg e.d.toNat t = BitVec.ofNat 32 w.lane) ∧
    (e.opx = 2 → w'.vreg e.d.toNat t = BitVec.ofNat 32 w.idx) ∧
    (∀ g, s.group? w.group = some g →
      (e.opx = 3 → w'.vreg e.d.toNat t = BitVec.ofNat 32 g.idx) ∧
      (∀ c, s.convoy? g.convoy = some c → e.opx = 4 → w'.vreg e.d.toNat t = BitVec.ofNat 32 c.idx) ∧
      (e.opx = 5 → w'.vreg e.d.toNat t = BitVec.ofNat 32 g.member)) ∧
    (∀ k, s.kernel? w.kernel = some k → e.opx = 6 →
      w'.vreg e.d.toNat t = BitVec.ofNat 10 k.q ++ BitVec.ofNat 22 k.index) ∧
    (e.opx = 7 → w'.vreg e.d.toNat t = BitVec.ofNat 32 sp.segw) ∧
    (e.opx = 8 → w'.vpair e.d.toNat t = s.pt) ∧ (e.opx = 9 → w'.vpair e.d.toNat t = w.dl) ∧
    (e.opx = 10 → w'.vreg e.d.toNat t = (sget 0 w.fp t).setWidth 32) := by
  have hreg (hw : (e.opx == 8 || e.opx == 9) = false) : w'.vreg e.d.toNat t = BitVec.ofNat 32
      ((ownIssue .movs e w sp).special s t) := by
    rw [hw] at h; exact h.vreg hnw ht hen
  have hpair (hw : (e.opx == 8 || e.opx == 9) = true) : w'.vpair e.d.toNat t = BitVec.ofNat 64
      ((ownIssue .movs e w sp).special s t) := by
    rw [hw] at h; exact h.vpair hnw ht hen
  refine ⟨fun ho => ?_, fun ho => ?_, fun ho => ?_, fun g hg => ⟨fun ho => ?_, fun c hc ho => ?_, fun ho => ?_⟩,
    fun k hk ho => ?_, fun ho => ?_, fun ho => ?_, fun ho => ?_, fun ho => ?_⟩
  · rw [hreg (by rw [ho]; rfl)]; simp [Issue.special, ownIssue, ho]
  · rw [hreg (by rw [ho]; rfl)]; simp [Issue.special, ownIssue, ho]
  · rw [hreg (by rw [ho]; rfl)]; simp [Issue.special, ownIssue, ho]
  · rw [hreg (by rw [ho]; rfl)]; simp [Issue.special, ownIssue, ho, hg]
  · rw [hreg (by rw [ho]; rfl)]; simp [Issue.special, ownIssue, ho, hg, hc]
  · rw [hreg (by rw [ho]; rfl)]; simp [Issue.special, ownIssue, ho, hg]
  · rw [hreg (by rw [ho]; rfl), ← k.ofNat_ident]; simp [Issue.special, ownIssue, ho, hk]
  · rw [hreg (by rw [ho]; rfl)]; simp [Issue.special, ownIssue, ho]
  · rw [hpair (by rw [ho]; rfl)]; simp [Issue.special, ownIssue, ho]
  · rw [hpair (by rw [ho]; rfl)]; simp [Issue.special, ownIssue, ho]
  · rw [hreg (by rw [ho]; rfl)]; simp [Issue.special, ownIssue, ho]

/-! ### Placing an instruction that changes its wave or waits -/

/-- An instruction whose result is a change of its wave that keeps number and splits. -/
theorem finish_modWave {op : Op} {e : Enc} {s : State} {w : Wave} {sp : Split} (h : Issues s op e w sp) (hj : NoJoin e sp)
    (g : Wave → Wave) (hu : ∀ x, (g x).uid = x.uid) (hs : ∀ x, (g x).splits = x.splits) :
    ∃ t w', finish (issueOf op e w sp) (.done ((issued op e s w sp).modWave w.uid g)) = t ∧ OnlyWave s t w.uid ∧
      t.wave? w.uid = some w' ∧ { w' with splits := w.splits } = g { w with latch := latchAfter op e w sp } ∧
      w'.split? sp.num = some (passed e sp) := by
  obtain ⟨_, hw, hp⟩ := issuer_some h.issuing
  have hg : ∀ x : Wave, x.uid = w.uid → (g x).uid = w.uid := fun x hx => (hu x).trans hx
  obtain ⟨honly, w', hwave, hrest, -, hsplit⟩ := finish_done (i := issueOf op e w sp)
    (s := (issued op e s w sp).modWave w.uid g) (w := g { w with latch := latchAfter op e w sp }) (p := sp)
    (by rw [issueOf_uid, State.wave?_modWave _ _ _ g hg, issued_wave hw]; simp)
    (by unfold Wave.split? at *; rw [hs]; exact hp) (by rw [issueOf_len]; exact hj)
  rw [issueOf_uid] at honly hwave
  rw [issueOf_sp, issueOf_len] at hsplit
  rw [hs] at hrest
  exact ⟨_, w', rfl, ((issued_only op e s w sp).trans (OnlyWave.modWave _ _ g hg)).trans honly, hwave, hrest, hsplit⟩

/-- The issuing split as it waits at its instruction (R114). -/
def Issue.waitingSplit (i : Issue) (wt : Wait) (p : Split) : Split :=
  { p with st := .blocked wt, held := some i.w.latch, latchOff := p.held.isSome && p.latchOff, issues := 0,
           begun := match wt with | .score _ | .copies _ => p.begun | _ => true }

/-- Its wave. -/
def Issue.waitingWave (i : Issue) (wt : Wait) (w : Wave) : Wave :=
  { w.modSplit i.sp.num (i.waitingSplit wt) with stored := w.stored || wt.leavesLane }

theorem finish_block (i : Issue) (wt : Wait) (s : State) :
    finish i (.block wt s) = s.modWave i.w.uid (i.waitingWave wt) := by
  cases wt <;> rfl

theorem Issue.split?_waitingWave (i : Issue) (wt : Wait) {w : Wave} {p : Split} (h : w.split? i.sp.num = some p) :
    (i.waitingWave wt w).split? i.sp.num = some (i.waitingSplit wt p) := by
  refine (Wave.split?_modSplit w i.sp.num i.sp.num (i.waitingSplit wt) fun _ hn => hn).trans ?_
  rw [h]; simp

/-- A split waits at its instruction, and no register of its wave changes. -/
theorem finish_block_waitsOn {op : Op} {e : Enc} {s : State} {w : Wave} {sp : Split} (h : Issues s op e w sp) (wt : Wait) :
    WaitsOn (fun _ => s) w sp wt (.next (finish (issueOf op e w sp) (.block wt (issued op e s w sp)))) := by
  obtain ⟨_, hw, hp⟩ := issuer_some h.issuing
  have hu : ∀ x : Wave, x.uid = w.uid → ((issueOf op e w sp).waitingWave wt x).uid = w.uid := fun _ hx => hx
  refine ⟨_, (issueOf op e w sp).waitingWave wt { w with latch := latchAfter op e w sp },
    (issueOf op e w sp).waitingSplit wt sp, rfl, ?_, ?_, ⟨rfl, rfl, rfl⟩,
    (issueOf op e w sp).split?_waitingWave wt (w := { w with latch := latchAfter op e w sp }) hp, rfl, rfl, rfl, rfl⟩
  · rw [finish_block, issueOf_uid]
    exact (issued_only op e s w sp).trans (OnlyWave.modWave _ _ _ hu)
  · rw [finish_block, issueOf_uid, State.wave?_modWave _ _ _ _ hu, issued_wave hw]
    simp

/-! ### Presentation time (R106-R108) -/

theorem tnow_gives {s : State} {e : Enc} {w : Wave} {sp : Split} (h : Issues s .tnow e w sp) (hj : NoJoin e sp)
    (hen : Enabled .tnow e w sp) : GivesScalar .tnow e (fun _ => s) w sp true s.pt.toNat (exec (.tnow e) s) := by
  rw [exec_tnow, execTnow]
  exact runOnce_sca h hj hen true s.pt.toNat (by rw [issued_pt])

/-- `DLGET` reads the deadline or the class of its wave. -/
theorem dlget_gives {s : State} {e : Enc} {w : Wave} {sp : Split} (h : Issues s .dlget e w sp) (hj : NoJoin e sp)
    (hen : Enabled .dlget e w sp) :
    (e.opx = 0 → GivesScalar .dlget e (fun _ => s) w sp true w.dl.toNat (exec (.dlget e) s)) ∧
    (e.opx = 1 → GivesScalar .dlget e (fun _ => s) w sp false w.cls (exec (.dlget e) s)) := by
  obtain ⟨l, hl⟩ := issueOf_wave .dlget e w sp
  rw [exec_dlget, execDlget]
  refine ⟨fun ho => runOnce_sca h hj hen true w.dl.toNat ?_, fun ho => runOnce_sca h hj hen false w.cls ?_⟩
  · rw [issueOf_e, ho, hl]; rfl
  · rw [issueOf_e, ho, hl]; rfl

/-- `SETDL` sets deadline and class, the class not above that of the launch. -/
theorem setdl_sets {s : State} {e : Enc} {w : Wave} {sp : Split} (h : Issues s .setdl e w sp) (hj : NoJoin e sp)
    (hen : Enabled .setdl e w sp) :
    ∃ (t : State) (w' : Wave), exec (.setdl e) s = .next t ∧ OnlyWave s t w.uid ∧ GoesOn e w sp t w' ∧
      { w' with splits := w.splits, latch := w.latch, dl := w.dl, cls := w.cls } = w ∧
      w'.dl = sp.spair e.a.toNat ∧ w'.cls = max e.opx.toNat w.launchCls := by
  obtain ⟨t, w', ht, honly, hwave, hw', hsplit⟩ := finish_modWave h hj
    (fun w => { w with dl := sp.spair e.a.toNat, cls := max e.opx.toNat w.launchCls }) (fun _ => rfl) fun _ => rfl
  refine ⟨t, w', ?_, honly, ⟨hwave, ⟨?_, ?_, ?_⟩, hsplit⟩, ?_, ?_, ?_⟩
  · rw [exec_setdl, execSetdl, runOnce_next h _ (.inl hen), ← ht, issueOf_uid, issueOf_sp, issueOf_e]
  · exact (congrArg Wave.v hw' :)
  · exact (congrArg Wave.p hw' :)
  · exact (congrArg Wave.fp hw' :)
  · exact (congrArg (fun y : Wave => { y with latch := w.latch, dl := w.dl, cls := w.cls }) hw' :)
  · exact (congrArg Wave.dl hw' :)
  · exact (congrArg Wave.cls hw' :)

/-- `TWAIT` goes on when PT has reached its target, and waits otherwise. -/
theorem twait_waits {s : State} {e : Enc} {w : Wave} {sp : Split} (h : Issues s .twait e w sp) (hj : NoJoin e sp)
    (hen : Enabled .twait e w sp) :
    (s.reached (sp.spair e.a.toNat) = true → Advances .twait e (fun _ => s) w sp (exec (.twait e) s)) ∧
    (s.reached (sp.spair e.a.toNat) = false →
      WaitsOn (fun _ => s) w sp (.twait (sp.spair e.a.toNat) e.form.words) (exec (.twait e) s)) := by
  have hreached : (issued .twait e s w sp).reached (sp.spair e.a.toNat) = s.reached (sp.spair e.a.toNat) := by
    rw [State.reached, issued_pt]; rfl
  rw [exec_twait, execTwait, runOnce_next h _ (.inl hen)]
  dsimp only
  rw [issueOf_sp, issueOf_e, issueOf_len, hreached]
  refine ⟨fun hr => ?_, fun hr => ?_⟩
  · rw [if_pos hr]
    obtain ⟨t, w', ht, hc, hnone⟩ := finish_nothing h hj
    exact ⟨t, w', congrArg _ ht, hc, hnone⟩
  · rw [hr]
    exact finish_block_waitsOn h _

/-! ### The release of a timed wait (R107) -/

/-- A split past the instruction of `len` words that an event has completed (R114). -/
def Split.pastWait (len : Nat) (p : Split) : Split :=
  { p with st := .ready, replay := none, held := none, begun := false, pc := p.pc + BitVec.ofNat 64 (4 * len) }

theorem completeSplit_eq (s : State) (u n len : Nat) :
    completeSplit s u n len = s.modWave u fun w => (w.modSplit n (Split.pastWait len)).boundary n := rfl

theorem Wave.split?_pastWait {w : Wave} {n : Nat} {p : Split} (hp : w.split? n = some p) (len : Nat) :
    (w.modSplit n (Split.pastWait len)).split? n = some (p.pastWait len) := by
  rw [Wave.split?_modSplit w n n (Split.pastWait len) fun _ h => h, hp]
  simp

/-- An event that completes the instruction of a split without a stack changes nothing else. -/
theorem completeSplit_released {s : State} {u n len : Nat} {w : Wave} {p : Split} (hw : s.wave? u = some w)
    (hp : w.split? n = some p) (hstack : p.stack = []) : Released s (completeSplit s u n len) u w p len := by
  obtain rfl : p.num = n := Wave.split?_num hp
  have hpast := Wave.split?_pastWait hp len
  have hu : ∀ x : Wave, x.uid = u → ((x.modSplit p.num (Split.pastWait len)).boundary p.num).uid = u :=
    fun x hx => by rw [Wave.boundary_uid]; exact hx
  have hstay := Wave.boundary_stay hpast (by simp [Split.pastWait, hstack])
  refine ⟨OnlyWave.modWave s u _ hu, (w.modSplit p.num (Split.pastWait len)).modSplit p.num fun _ => p.pastWait len, ?_, rfl, ?_⟩
  · rw [completeSplit_eq, State.wave?_modWave _ _ _ _ hu, hw, ← hstay]
    simp
  · rw [Wave.split?_modSplit _ p.num p.num (fun _ => p.pastWait len) fun _ _ => rfl, hpast]
    simp [Split.pastWait]

theorem twaiting_eq {s : State} {u n : Nat} {w : Wave} {p : Split} {target : DWord} {len : Nat} (hw : s.wave? u = some w)
    (hctx : (s.ctx w.ctx).st = .running) (hp : w.split? n = some p) (hst : p.st = .blocked (.twait target len)) :
    s.twaiting u n = some (target, len) := by
  simp [State.twaiting, hw, hctx, hp, hst]

/-- A timed wait ends when PT has reached its target (R107), and not before. -/
theorem twaitRelease_releases {s : State} {u n : Nat} {w : Wave} {p : Split} {target : DWord} {len : Nat} (hw : s.wave? u = some w)
    (hctx : (s.ctx w.ctx).st = .running) (hp : w.split? n = some p) (hst : p.st = .blocked (.twait target len))
    (hstack : p.stack = []) :
    (s.reached target = true → ∃ (t : State), exec (.twaitRelease u n) s = .next t ∧ Released s t u w p len) ∧
    (s.reached target = false → exec (.twaitRelease u n) s = .next s) := by
  rw [exec_twaitRelease, execTwaitRelease, tryTwaitRelease, twaiting_eq hw hctx hp hst]
  refine ⟨fun hr => ⟨completeSplit s u n len, ?_, completeSplit_released hw hp hstack⟩, fun hr => ?_⟩
  · simp [made, hr]
  · simp [made, hr]

/-! ### The obligation -/

/-- Settles O31: it holds, each clause from the lemma above about its instruction or event. -/
theorem specialValuesAndTime : Obligations.SpecialValuesAndTime := by
  unfold Obligations.SpecialValuesAndTime
  refine ⟨?movs, ?tnow, ?dlget, ?setdl, ?twait, ?release⟩
  case movs =>
    intro s e w sp h hj hdone
    obtain ⟨t, w', hexec, hc, hvec, hres⟩ := movs_completes h hj hdone
    exact ⟨t, w', hexec, hc, hvec, fun hnw t ht hen => movs_values hres hnw ht hen⟩
  case tnow => exact fun s e w sp h hj hen => tnow_gives h hj hen
  case dlget => exact fun s e w sp h hj hen => dlget_gives h hj hen
  case setdl => exact fun s e w sp h hj hen => setdl_sets h hj hen
  case twait => exact fun s e w sp h hj hen => twait_waits h hj hen
  case release => exact fun s u n w p target len hw hctx hp hst hstack => twaitRelease_releases hw hctx hp hst hstack

end Sys2Proof.Machine
end

section
/-! Results in predicates (R139, R143, R176), and `SHFL` (R175). -/

namespace Sys2Proof.Machine

/-! ### What an issued instruction sees -/

@[simp] theorem issueOf_pred (op : Op) (e : Enc) (w : Wave) (sp : Split) (n : Nat) :
    (issueOf op e w sp).w.pred n = w.pred n := by
  obtain ⟨l, hl⟩ := issueOf_wave op e w sp
  rw [hl]; rfl

@[simp] theorem issueOf_vreg (op : Op) (e : Enc) (w : Wave) (sp : Split) (r t : Nat) :
    (issueOf op e w sp).w.vreg r t = w.vreg r t := by
  obtain ⟨l, hl⟩ := issueOf_wave op e w sp
  rw [hl]; rfl

@[simp] theorem issueOf_vpair (op : Op) (e : Enc) (w : Wave) (sp : Split) (r t : Nat) :
    (issueOf op e w sp).w.vpair r t = w.vpair r t := by
  simp [Wave.vpair]

theorem immSx_lt (e : Enc) (n : Nat) : immSx e n < 2 ^ n := wrapInt_lt n _

/-- Operand A of an opcode with integer immediates is a number of its width. -/
theorem Issue.a_lt (i : Issue) (wide : Bool) (t : Nat) (h : i.imm wide < 2 ^ (if wide then 64 else 32)) :
    i.a wide t < 2 ^ (if wide then 64 else 32) := i.src_lt _ _ wide _ t h

theorem Issue.sA_lt (i : Issue) (wide : Bool) : i.sA wide < 2 ^ (if wide then 64 else 32) :=
  i.src_lt _ _ wide _ 0 (immSx_lt _ _)

theorem Issue.sB_lt (i : Issue) (wide : Bool) : i.sB wide < 2 ^ (if wide then 64 else 32) := by
  unfold Issue.sB
  split
  · cases wide
    · exact Nat.mod_lt _ (by decide)
    · exact i.e.lit.isLt
  · exact i.src_lt _ _ wide _ 0 (immSx_lt _ _)

/-! ### Masks of threads -/

theorem natMask_lt (f : Nat → Bool) (n : Nat) : natMask f n < 2 ^ n := by
  induction n with
  | zero => simp [natMask]
  | succ n ih =>
    rw [natMask, Nat.pow_succ]
    split <;> omega

theorem testBit_natMask (f : Nat → Bool) (n t : Nat) : (natMask f n).testBit t = (decide (t < n) && f t) := by
  induction n with
  | zero => simp [natMask]
  | succ n ih =>
    have hlt := natMask_lt f n
    rw [natMask]
    rcases Nat.lt_trichotomy t n with ht | rfl | ht
    · have hsum : (natMask f n + if f n then 2 ^ n else 0).testBit t = (natMask f n).testBit t := by
        split
        · rw [Nat.add_comm, Nat.testBit_two_pow_add_gt ht]
        · rfl
      rw [hsum, ih]
      simp [ht, Nat.lt_succ_of_lt ht]
    · cases hf : f t with
      | false => simp [ih]
      | true => rw [if_pos rfl, Nat.add_comm, Nat.testBit_two_pow_add_eq, ih]; simp
    · rw [Nat.testBit_lt_two_pow]
      · simp; omega
      · calc natMask f n + (if f n then 2 ^ n else 0) < 2 ^ n + 2 ^ n := by split <;> omega
          _ = 2 ^ (n + 1) := by rw [Nat.pow_succ]; omega
          _ ≤ 2 ^ t := Nat.pow_le_pow_right (by decide) ht

/-- A mask of threads holds the threads that satisfy its test. -/
theorem getLsbD_maskOf (f : Nat → Bool) {t : Nat} (ht : t < 32) : (maskOf f).getLsbD t = f t := by
  unfold maskOf
  rw [BitVec.getLsbD_ofNat, testBit_natMask]
  simp [ht]

/-! ### Predicates -/

/-- The predicate opcodes of R143. -/
def predOps : List Op := [.pand, .por, .pxor, .pnot, .pmov]

/-- The mask that a predicate opcode makes of its sources (R143). -/
def predMask (op : Op) (e : Enc) (w : Wave) (sp : Split) : Word :=
  let a := w.pred e.a.toNat
  let b := w.pred e.b.toNat
  match op with
  | .pand => a &&& b | .por => a ||| b | .pxor => a ^^^ b | .pnot => ~~~a
  | _ => if e.ak = .sca then sp.sreg e.a.toNat else a

theorem exec_predOps {op : Op} (hop : op ∈ predOps) (e : Enc) (s : State) :
    exec (Instr.ofOp e op) s = runInstr op e s fun i s => i.predOp s (predMask op i.e i.w i.sp) := by
  simp only [predOps, List.mem_cons, List.not_mem_nil, or_false] at hop
  rcases hop with rfl | rfl | rfl | rfl | rfl <;> rfl

theorem predMask_issueOf (op : Op) (e : Enc) (w : Wave) (sp : Split) :
    predMask op e (issueOf op e w sp).w sp = predMask op e w sp := by
  simp only [predMask, issueOf_pred]

theorem predOps_complete {op : Op} (hop : op ∈ predOps) {s : State} {e : Enc} {w : Wave} {sp : Split} (h : Issues s op e w sp)
    (hj : NoJoin e sp) :
    ∃ (t : State) (w' : Wave), exec (Instr.ofOp e op) s = .next t ∧ Completed s t w w' sp (passed e sp) ∧
      PredResult op e w w' sp e.d.toNat (enabledOf op e w sp) (predMask op e w sp) := by
  rw [exec_predOps hop]
  exact runInstr_pred h hj e.d.toNat _ _ (by rw [issueOf_e, issueOf_sp, predMask_issueOf]; rfl)

/-! ### `VOTE` -/

theorem segBase_eq_iff {n : Nat} (hn : 0 < n) (j t : Nat) : segBase n j = segBase n t ↔ j / n = t / n := by
  have hbase : ∀ k, segBase n k = n * (k / n) := fun k => by
    have := Nat.div_add_mod k n
    unfold segBase
    omega
  rw [hbase, hbase, Nat.mul_right_inj (by omega)]

/-- The contributing threads of a thread's segment (R173). -/
theorem Issue.mem_segOf (i : Issue) (hn : 0 < i.sp.segw) (t j : Nat) :
    j ∈ i.segOf t ↔ j < 32 ∧ i.en.getLsbD j = true ∧ j / i.sp.segw = t / i.sp.segw := by
  simp [Issue.segOf, mem_lanesOf, segBase_eq_iff hn, and_assoc]

/-- The value of `VOTE` for a thread, over the predicate's values in its segment (R176). -/
def voteValue (mode : Nat) (l : List Bool) : Bool :=
  match mode with
  | 0 => l.all id
  | 1 => l.any id
  | _ => l.all id || !l.any id

theorem vote_completes {s : State} {e : Enc} {w : Wave} {sp : Split} (h : Issues s .vote e w sp) (hj : NoJoin e sp) :
    ∃ (t : State) (w' : Wave), exec (.vote e) s = .next t ∧ Completed s t w w' sp (passed e sp) ∧
      PredResult .vote e w w' sp e.d.toNat (enabledOf .vote e w sp) (maskOf fun t =>
        voteValue e.opx.toNat (((issueOf .vote e w sp).segOf t).map fun j => (w.pred e.a.toNat).getLsbD j)) := by
  rw [exec_vote, execVote]
  exact runInstr_pred h hj e.d.toNat _ _ (by simp only [issueOf_pred, issueOf_e]; rfl)

/-- All, any, or all equal of the contributing threads of the segment (R176). -/
theorem voteValue_segOf_iff (i : Issue) (hn : 0 < i.sp.segw) (p : Word) (t : Nat) :
    let v (mode : Nat) : Bool := voteValue mode ((i.segOf t).map fun j => p.getLsbD j)
    let same (j : Nat) : Prop := j < 32 ∧ i.en.getLsbD j = true ∧ j / i.sp.segw = t / i.sp.segw
    (v 0 = true ↔ ∀ j, same j → p.getLsbD j = true) ∧ (v 1 = true ↔ ∃ j, same j ∧ p.getLsbD j = true) ∧
    (v 2 = true ↔ (∀ j, same j → p.getLsbD j = true) ∨ ∀ j, same j → p.getLsbD j = false) := by
  intro v same
  have hmem : ∀ j, j ∈ i.segOf t ↔ same j := i.mem_segOf hn t
  refine ⟨?_, ?_, ?_⟩ <;> simp [v, voteValue, hmem]

/-! ### `SHFL` -/

theorem Wave.setP_eq (w : Wave) (n : Nat) (m v : Word) : w.setP n m v = { w with p := (w.setP n m v).p } := by
  unfold Wave.setP; split <;> rfl

/-- A vector result leaves predicates. -/
theorem VecWrite.preds {e : Enc} {w w' : Wave} {en : Word} {d n : Nat} (h : VecWrite e w w' en d n) : w'.p = w.p :=
  (congrArg Wave.p h.rest :)

/-- What a result leaves of the latches that the issue leaves is what `LE` writes (R34). -/
theorem LatchResult.latchWritten {op : Op} {e : Enc} {w x w' : Wave} {sp : Split} {n : Nat} (hx : x.latch = latchAfter op e w sp)
    (h : LatchResult e (enabledOf op e w sp) e.d.toNat n x w') : LatchWritten op e w w' sp n := by
  have hslot : ∀ b t, latchSlot x.latch b t = latchSlot w.latch b t := fun b t => by
    rw [hx]; unfold latchAfter; split <;> rfl
  refine ⟨by rw [h.valid, hx], h.slots, fun t ht hen => ?_, fun b hb hne t ht => ?_⟩
  · rw [h.rest t ht hen, hx, ← hx, hslot]
  · rw [h.other b hb hne t ht, hslot]

/-- A vector result after a predicate result: the predicate, and the rest as a vector result alone leaves it. -/
structure VecPredResult (op : Op) (e : Enc) (w w' : Wave) (sp : Split) (wide : Bool) (f : Nat → FRes) (x : Wave) : Prop where
  vec     : VecFrame e w w' (enabledOf op e w sp) e.d.toNat (if wide then 2 else 1)
  latch   : e.le = false → w'.latch = latchAfter op e w sp
  latched : e.le = true → LatchWritten op e w w' sp (if wide then 2 else 1)
  results : ThreadResults e w w' (enabledOf op e w sp) wide f
  preds   : w'.p = x.p

/-- An instruction that changes predicates and then writes a vector result. -/
theorem finish_vec_after_preds {op : Op} {e : Enc} {s : State} {w : Wave} {sp : Split} (h : Issues s op e w sp) (hj : NoJoin e sp)
    (g : Wave → Wave) (hg : ∀ x, g x = { x with p := (g x).p }) (wide : Bool) (f : Nat → FRes) :
    ∃ t w', finish (issueOf op e w sp) ((issueOf op e w sp).vec ((issued op e s w sp).modWave w.uid g) wide f) = t ∧
      Completed s t w w' sp (passed e sp) ∧ VecPredResult op e w w' sp wide f (g { w with latch := latchAfter op e w sp }) := by
  have hvec : ∀ x : Wave, VecWrite e (g x) ((g x).vecResult e wide (enabledOf op e w sp) f) (enabledOf op e w sp) e.d.toNat _ :=
    fun x => Wave.vecResult_write (g x) e wide _ f
  obtain ⟨t, w', ht, hc, hw'⟩ := finish_wave h hj (fun x => (g x).vecResult e wide (enabledOf op e w sp) f) fun x => by
    have hrest := congrArg (fun y : Wave => { y with v := x.v, badV := x.badV, p := x.p, fp := x.fp, latch := x.latch }) (hvec x).rest
    refine Eq.trans hrest ?_
    rw [hg x]
  have huid : ∀ x : Wave, x.uid = w.uid → (g x).uid = w.uid := fun x hx => by rw [hg x]; exact hx
  refine ⟨t, w', ?_, hc, ?_⟩
  · rw [← ht, Issue.vec, issueOf_uid, State.modWave_modWave _ _ _ _ huid, issueOf_e, issueOf_en]
  · have hwrite := hvec { w with latch := latchAfter op e w sp }
    have hres := Wave.vecResult_threadResults (g { w with latch := latchAfter op e w sp }) (le_of_nw_of_encErr h.encErr_none) wide
      (enabledOf op e w sp) f
    have hlatch := Wave.vecResult_latch (g { w with latch := latchAfter op e w sp }) e wide (enabledOf op e w sp) f
    rw [← hw'] at hwrite hres hlatch
    rw [hg] at hwrite hres hlatch
    have hlatched := fun hle => (hlatch hle).latchWritten (op := op) (w := w) (sp := sp) rfl
    exact {
      vec := hwrite.vec
      latch := hwrite.latch
      latched := fun hle => ⟨(hlatched hle).valid, (hlatched hle).slots, (hlatched hle).rest, (hlatched hle).other⟩
      results := ⟨hres.written, hres.flags, hres.noFlags⟩
      preds := hwrite.preds }

/-- The predicates after `SHFL`: the extended form writes whether each thread's source lies in its segment (R175). -/
def Wave.shflPreds (e : Enc) (en : Word) (src : Nat → Nat × Bool) (w : Wave) : Wave :=
  if e.form = .base then w else w.setP e.c.toNat en (maskOf fun t => (src t).2)

theorem Wave.shflPreds_eq (e : Enc) (en : Word) (src : Nat → Nat × Bool) (w : Wave) :
    w.shflPreds e en src = { w with p := (w.shflPreds e en src).p } := by
  unfold Wave.shflPreds
  split
  · rfl
  · exact Wave.setP_eq ..

theorem Wave.pred_shflPreds_other {e : Enc} (en : Word) (src : Nat → Nat × Bool) (w : Wave) {k : Nat}
    (hk : e.form = .base ∨ k ≠ e.c.toNat) : (w.shflPreds e en src).pred k = w.pred k := by
  unfold Wave.shflPreds
  rcases hk with hk | hk
  · rw [if_pos hk]
  · split
    · rfl
    · rw [Wave.pred_setP, if_neg (fun h => hk h.1)]

theorem Wave.pred_shflPreds_same {e : Enc} (en : Word) (src : Nat → Nat × Bool) (w : Wave) (hform : e.form ≠ .base)
    (hc : e.c.toNat ≠ 7) {t : Nat} (ht : t < 32) : ((w.shflPreds e en src).pred e.c.toNat).getLsbD t =
      if en.getLsbD t then (src t).2 else (w.pred e.c.toNat).getLsbD t := by
  rw [Wave.shflPreds, if_neg hform, Wave.pred_setP, if_pos ⟨rfl, hc⟩]
  simp only [BitVec.getLsbD_or, BitVec.getLsbD_and, BitVec.getLsbD_not, getLsbD_maskOf _ ht]
  cases en.getLsbD t <;> simp [ht]

/-- The source thread of `SHFL` for a thread, and whether it lies in the segment. -/
def Issue.shflSrc (i : Issue) (t : Nat) : Nat × Bool := shflFrom i.e.opx.toNat i.sp.segw t (i.b false t)

theorem State.modWave_id (s : State) (u : Nat) : s.modWave u (fun w => w) = s := by
  simp [State.modWave]

theorem shfl_completes {s : State} {e : Enc} {w : Wave} {sp : Split} (h : Issues s .shfl e w sp) (hj : NoJoin e sp) :
    let i := issueOf .shfl e w sp
    ∃ (t : State) (w' : Wave), exec (.shfl e) s = .next t ∧ Completed s t w w' sp (passed e sp) ∧
      VecPredResult .shfl e w w' sp i.wideTy (fun t => ⟨i.a i.wideTy (if (i.shflSrc t).2 then (i.shflSrc t).1 else t), 0⟩)
        (Wave.shflPreds e i.en i.shflSrc { w with latch := latchAfter .shfl e w sp }) := by
  intro i
  obtain ⟨t, w', ht, hc, hres⟩ := finish_vec_after_preds h hj (Wave.shflPreds e i.en i.shflSrc)
    (Wave.shflPreds_eq e i.en i.shflSrc) i.wideTy fun t => ⟨i.a i.wideTy (if (i.shflSrc t).2 then (i.shflSrc t).1 else t), 0⟩
  refine ⟨t, w', ?_, hc, hres⟩
  rw [exec_shfl, execShfl, runInstr_next h, ← ht]
  unfold Wave.shflPreds
  by_cases hf : e.form = .base
  · simp only [issueOf_e, hf, if_true, State.modWave_id]; rfl
  · simp only [issueOf_e, hf, if_false, issueOf_uid]; rfl

theorem shfl_imm_lt (e : Enc) (w : Wave) (sp : Split) (wide : Bool) :
    (issueOf .shfl e w sp).imm wide < 2 ^ (if wide then 64 else 32) := immSx_lt _ _

/-- Settles O13: it holds. The predicate opcodes and `VOTE` are predicate results; `SHFL` is a predicate result and then a vector
result, of which the second leaves the predicates of the first. -/
theorem predicateAndShuffleInstructionsComplete : Obligations.PredicateAndShuffleInstructionsComplete := by
  unfold Obligations.PredicateAndShuffleInstructionsComplete
  refine ⟨?preds, ?vote, ?shfl⟩
  case preds => exact fun op hop s e w sp h hj => predOps_complete hop h hj
  case vote =>
    intro s e w sp h hj i same p
    obtain ⟨t, w', hexec, hc, hres⟩ := vote_completes h hj
    refine ⟨t, w', _, hexec, hc, hres, fun t ht hn => ?_⟩
    obtain ⟨hall, hany, hequal⟩ := voteValue_segOf_iff i hn p t
    rw [getLsbD_maskOf _ ht]
    exact ⟨fun ho => by rw [ho]; exact hall, fun ho => by rw [ho]; exact hany, fun ho => by rw [ho]; exact hequal⟩
  case shfl =>
    intro s e w sp h hj i src
    obtain ⟨t, w', hexec, hc, hres⟩ := shfl_completes h hj
    have hpred : ∀ k, w'.pred k = (Wave.shflPreds e i.en i.shflSrc { w with latch := latchAfter .shfl e w sp }).pred k := fun k => by
      simp only [Wave.pred, hres.preds]; rfl
    refine ⟨t, w', hexec, hc, hres.vec, hres.results.noFlags fun _ => rfl, hres.latch, hres.latched, fun t ht hen => ?_,
      fun k hk => ?_, fun hform h7 t ht => ?_⟩
    · rw [hres.results.written t ht hen]
      exact Nat.mod_eq_of_lt (i.a_lt _ _ (shfl_imm_lt e w sp _))
    · rw [hpred, Wave.pred_shflPreds_other _ _ _ hk]; rfl
    · rw [hpred, Wave.pred_shflPreds_same _ _ _ hform h7 ht]; rfl

/-! ### `SCMP` -/

/-- The integer comparison of two codes is that of their bits (R60). -/
theorem icmpHolds_eq_cmpSpec {n : Nat} (cc : Nat) (sg : Bool) (x y : BitVec n) :
    icmpHolds cc (laneInt sg x) (laneInt sg y) = cmpSpec cc sg x y := by
  have hlt : ∀ a b : BitVec n, (if sg then a.slt b else a.ult b) = decide (laneInt sg a < laneInt sg b) := fun a b => by
    rw [Bool.eq_iff_iff, ← laneInt_lt_iff, decide_eq_true_iff]
  have heq : (x == y) = decide (laneInt sg x = laneInt sg y) := by
    rw [Bool.eq_iff_iff, beq_iff_eq, decide_eq_true_iff]
    refine ⟨fun h => by rw [h], fun h => ?_⟩
    rw [← ofInt_laneInt sg x, h, ofInt_laneInt]
  have hle : ∀ a b : BitVec n, (!decide (laneInt sg b < laneInt sg a)) = decide (laneInt sg a ≤ laneInt sg b) := fun a b => by
    rw [← decide_not, decide_eq_decide, Int.not_lt]
  match cc with
  | 0 => exact heq.symm
  | 1 => exact decide_not.trans (congrArg Bool.not heq.symm)
  | 2 => exact (hlt x y).symm
  | 3 => exact ((congrArg Bool.not (hlt y x)).trans (hle x y)).symm
  | 4 => exact (hlt y x).symm
  | _ + 5 => exact ((congrArg Bool.not (hlt x y)).trans (hle y x)).symm

theorem readInt_eq_laneInt {n x : Nat} (hn : 0 < n) (sg : Bool) (hx : x < 2 ^ n) :
    readInt sg n x = laneInt sg (BitVec.ofNat n x) := by
  have helem : elem n x 0 = x := by simp [elem, Nat.mod_eq_of_lt hx]
  have hr := readInt_elem hn sg x 0
  rwa [lane, helem] at hr

/-- The comparison that `SCMP` makes (R139). -/
def Issue.scmpHolds (i : Issue) : Bool := icmpHolds i.e.opx.toNat i.sIntA i.sIntB

theorem Issue.scmpHolds_eq (i : Issue) {n : Nat} (hn : 0 < n) (hw : i.sWidth = n) (hA : i.sA i.wideTy < 2 ^ n)
    (hB : i.sB i.wideTy < 2 ^ n) : i.scmpHolds = cmpSpec i.e.opx.toNat (intSigned i.e.ty.toNat)
      (BitVec.ofNat n (i.sA i.wideTy)) (BitVec.ofNat n (i.sB i.wideTy)) := by
  rw [Issue.scmpHolds, Issue.sIntA, Issue.sIntB, hw, readInt_eq_laneInt hn _ hA, readInt_eq_laneInt hn _ hB, icmpHolds_eq_cmpSpec]

/-- Settles O16: it holds. The operands are numbers of the width of `TYPE`, so that the comparison of the integers that they are
is that of their bits. -/
theorem scalarCompareCompletes : Obligations.ScalarCompareCompletes := by
  unfold Obligations.ScalarCompareCompletes
  intro s e w sp h hj hen i
  obtain ⟨t, w', ht, hc, hres⟩ := finish_pred h hj e.d.toNat sp.mask (if i.scmpHolds then 0xFFFFFFFF#32 else 0)
  refine ⟨t, w', i.scmpHolds, ?_, hc, hres, fun hwide => ?_, fun hwide => ?_⟩
  · rw [exec_scmp, execScmp, runOnce_next h _ (.inl hen), ← ht, issueOf_uid]; rfl
  · have hA := i.sA_lt i.wideTy
    have hB := i.sB_lt i.wideTy
    rw [i.scmpHolds_eq (n := 32) (by decide) (by simp [Issue.sWidth, hwide]) (by simpa [hwide] using hA) (by simpa [hwide] using hB),
      hwide]; rfl
  · have hA := i.sA_lt i.wideTy
    have hB := i.sB_lt i.wideTy
    rw [i.scmpHolds_eq (n := 64) (by decide) (by simp [Issue.sWidth, hwide]) (by simpa [hwide] using hA) (by simpa [hwide] using hB),
      hwide]; rfl

end Sys2Proof.Machine
end

section
/-! Index registers (R157, R158) and segment widths (R144). -/

namespace Sys2Proof.Machine

/-! ### `XSET` -/

/-- The issuing split with the index register that `XSET` writes (R157). -/
def Issue.withIndex (i : Issue) (p : Split) : Split :=
  { p with x := sset 0 p.x i.e.d.toNat <|
      BitVec.ofNat 32 (i.xsetField i.e.bk i.e.b * 256 + i.xsetField i.e.ak i.e.a) }

theorem xset_completes {s : State} {e : Enc} {w : Wave} {sp : Split} (h : Issues s .xset e w sp) (hj : NoJoin e sp)
    (hen : Enabled .xset e w sp) :
    ∃ (t : State) (w' : Wave), exec (.xset e) s = .next t ∧
      Completed s t w w' sp (passed e ((issueOf .xset e w sp).withIndex sp)) ∧ NoVectorEffect .xset e w w' sp := by
  obtain ⟨t, w', ht, hc, hnone⟩ := finish_split h hj (issueOf .xset e w sp).withIndex (fun _ => rfl) rfl rfl
  refine ⟨t, w', ?_, hc, hnone⟩
  rw [exec_xset, execXset, runOnce_next h _ (.inl hen), ← ht, issueOf_uid]
  rfl

/-! ### `LDX` -/

/-- With no failing thread every enabled thread's index names a register (R158). -/
theorem Issue.indexed_of_no_fails {i : Issue} (h : i.indexFails = 0) {t : Nat} (ht : t < 32) (hen : i.en.getLsbD t = true) :
    ∃ r, i.indexed t = some r := by
  have hbit := congrArg (fun m : Word => m.getLsbD t) h
  simp only [Issue.indexFails, BitVec.getLsbD_and, getLsbD_maskOf _ ht, hen, Bool.true_and] at hbit
  exact Option.isSome_iff_exists.1 (by simpa using hbit)

theorem vecValue_lt (w : Wave) (r : Nat) (wide : Bool) (t : Nat) : vecValue w r wide t < 2 ^ (if wide then 64 else 32) := by
  cases wide
  · exact (w.vreg r t).isLt
  · exact (w.vpair r t).isLt

theorem ldx_completes {s : State} {e : Enc} {w : Wave} {sp : Split} (h : Issues s .ldx e w sp) (hj : NoJoin e sp)
    (hfails : (issueOf .ldx e w sp).indexFails = 0) :
    let i := issueOf .ldx e w sp
    ∃ (t : State) (w' : Wave), exec (.ldx e) s = .next t ∧ Completed s t w w' sp (passed e sp) ∧
      VecResult .ldx e w w' sp (destRegs .ldx e) ∧
      ThreadResults e w w' (enabledOf .ldx e w sp) i.wideTy fun t => ⟨vecValue w ((i.indexed t).getD 0) i.wideTy t, 0⟩ := by
  intro i
  rw [exec_ldx, execLdx]
  refine runInstr_vec_threadResults h hj i.wideTy _ ?_
  simp only [hfails, issueOf_vpair, issueOf_vreg]
  rfl

/-! ### `STX` -/

/-- The store of one thread's operand into the register that its index names (R158). -/
def Issue.storeIndexed (i : Issue) (w : Wave) (t : Nat) : Wave :=
  w.setVW ((i.indexed t).getD 0) i.wideTy t (i.a i.wideTy t)

/-- The stores of the enabled threads. -/
def Issue.stxResult (i : Issue) (w : Wave) : Wave := forEach (lanesOf i.en) i.storeIndexed w

theorem Issue.stxResult_rest (i : Issue) (w : Wave) : { i.stxResult w with v := w.v, badV := w.badV } = w := by
  refine (forEach_keeps (fun y : Wave => { y with v := w.v, badV := w.badV }) i.storeIndexed (lanesOf i.en) (fun x u _ => ?_) w).trans
    rfl
  unfold Issue.storeIndexed Wave.setVW
  cases i.wideTy <;> rfl

theorem Wave.vreg_setVW_other (w : Wave) {d t r : Nat} (wide : Bool) (x : Nat) (ht : t < 32) (hd : r ≠ d)
    (hpair : wide = false ∨ r ≠ d + 1) : (w.setVW d wide t x).vreg r t = w.vreg r t := by
  unfold Wave.setVW
  cases wide
  · simp [Wave.vreg_setV _ _ _ _ _ _ ht ht, hd]
  · have hpair : r ≠ d + 1 := by simpa using hpair
    simp [Wave.vreg_setV _ _ _ _ _ _ ht ht, hd, hpair]

/-- An enabled thread's register holds its operand. -/
theorem Issue.vecValue_stxResult (i : Issue) (w : Wave) {t b : Nat} (ht : t < 32) (hen : i.en.getLsbD t = true)
    (hb : i.indexed t = some b) :
    vecValue (i.stxResult w) b i.wideTy t = i.a i.wideTy t % 2 ^ (if i.wideTy then 64 else 32) := by
  obtain ⟨y, -, hy⟩ := forEach_own (fun x => vecValue x b i.wideTy t) i.storeIndexed (nodup_lanesOf i.en)
    (mem_lanesOf.2 ⟨ht, hen⟩)
    (fun x u hu hut => vecValue_congr (fun r => Wave.vreg_setVW_ne _ _ _ _ _ r _ (mem_lanesOf.1 hu).1 ht (Ne.symm hut)) _ _) w
  refine hy.trans ?_
  rw [Issue.storeIndexed, hb, Option.getD_some, Wave.vecValue_setVW _ _ _ _ _ ht]
  cases i.wideTy <;> rfl

/-- No store of `STX` reaches another register of a thread. -/
theorem Issue.vreg_stxResult_other (i : Issue) (w : Wave) {t r : Nat} (ht : t < 32)
    (hsome : i.en.getLsbD t = true → ∃ b, i.indexed t = some b)
    (hr : i.en.getLsbD t = false ∨ ∀ b, i.indexed t = some b → r ≠ b ∧ (i.wideTy = false ∨ r ≠ b + 1)) :
    (i.stxResult w).vreg r t = w.vreg r t := by
  refine forEach_keeps (fun x : Wave => x.vreg r t) i.storeIndexed _ (fun x u hu => ?_) w
  obtain ⟨hu32, huen⟩ := mem_lanesOf.1 hu
  by_cases hut : u = t
  · subst hut
    obtain ⟨b, hb⟩ := hsome huen
    obtain ⟨hd, hpair⟩ := hr.resolve_left (by simp [huen]) b hb
    rw [Issue.storeIndexed, hb]
    exact Wave.vreg_setVW_other _ _ _ ht hd hpair
  · exact Wave.vreg_setVW_ne _ _ _ _ _ _ _ hu32 ht (Ne.symm hut)

theorem stx_completes {s : State} {e : Enc} {w : Wave} {sp : Split} (h : Issues s .stx e w sp) (hj : NoJoin e sp)
    (hfails : (issueOf .stx e w sp).indexFails = 0) :
    ∃ (t : State) (w' : Wave), exec (.stx e) s = .next t ∧ Completed s t w w' sp (passed e sp) ∧
      { w' with splits := w.splits } = (issueOf .stx e w sp).stxResult { w with latch := latchAfter .stx e w sp } := by
  obtain ⟨t, w', ht, hc, hw'⟩ := finish_wave h hj (issueOf .stx e w sp).stxResult fun x =>
    congrArg (fun y : Wave => { y with p := x.p, fp := x.fp, latch := x.latch }) ((issueOf .stx e w sp).stxResult_rest x)
  refine ⟨t, w', ?_, hc, hw'⟩
  rw [exec_stx, execStx, runInstr_next h, ← ht, hfails, issueOf_uid]
  rfl

/-! ### The traps of R158 -/

theorem index_traps {op : Op} (hop : op ∈ [Op.ldx, .stx]) {s : State} {e : Enc} {w : Wave} {sp : Split} (h : Issues s op e w sp)
    (hfails : (issueOf op e w sp).indexFails ≠ 0) :
    exec (Instr.ofOp e op) s = .next (finish (issueOf op e w sp)
      (.trap (maskTrap .bounds (issueOf op e w sp).indexFails 0 false) (issued op e s w sp))) := by
  simp only [List.mem_cons, List.not_mem_nil, or_false] at hop
  rcases hop with rfl | rfl
  · show execLdx e s = _
    rw [execLdx, runInstr_next h, if_pos (by simpa using hfails)]
  · show execStx e s = _
    rw [execStx, runInstr_next h, if_pos (by simpa using hfails)]

/-! ### `SEGW` -/

theorem segw_completes {s : State} {e : Enc} {w : Wave} {sp : Split} (h : Issues s .segw e w sp) (hj : NoJoin e sp)
    (hen : Enabled .segw e w sp) (hok : segwOk ((issueOf .segw e w sp).sA false) = true) :
    ∃ (t : State) (w' : Wave), exec (.segw e) s = .next t ∧
      Completed s t w w' sp (passed e { sp with segw := (issueOf .segw e w sp).sA false }) ∧ NoVectorEffect .segw e w w' sp := by
  obtain ⟨t, w', ht, hc, hnone⟩ := finish_split h hj (fun p => { p with segw := (issueOf .segw e w sp).sA false })
    (fun _ => rfl) rfl rfl
  refine ⟨t, w', ?_, hc, hnone⟩
  rw [exec_segw, execSegw, runOnce_next h _ (.inl hen), ← ht]
  simp only [hok, if_true, issueOf_uid, issueOf_sp]

theorem segw_traps {s : State} {e : Enc} {w : Wave} {sp : Split} (h : Issues s .segw e w sp) (hen : Enabled .segw e w sp)
    (hbad : segwOk ((issueOf .segw e w sp).sA false) = false) :
    exec (.segw e) s = .next (finish (issueOf .segw e w sp)
      (.trap ((issueOf .segw e w sp).plainTrap .illegal) (issued .segw e s w sp))) := by
  rw [exec_segw, execSegw, runOnce_next h _ (.inl hen)]
  simp only [hbad, Bool.false_eq_true, if_false]

/-- Settles O17: it holds. `XSET` and `SEGW` change the issuing split, `LDX` is a vector result, and the stores of `STX` go one by one
to the registers that the indexes name. -/
theorem indexRegistersAndSegments : Obligations.IndexRegistersAndSegments := by
  unfold Obligations.IndexRegistersAndSegments
  refine ⟨?xset, ?ldx, ?stx, ?traps, ?segw⟩
  case xset =>
    intro s e w sp h hj hen
    obtain ⟨t, w', hexec, hc, hnone⟩ := xset_completes h hj hen
    exact ⟨t, w', _, hexec, hc, hnone, rfl, fun k hk => sget_sset_ne _ _ _ hk, sget_sset_self _ _ _ _⟩
  case ldx =>
    intro s e w sp h hj hfails
    obtain ⟨t, w', hexec, hc, hvec, hres⟩ := ldx_completes h hj hfails
    refine ⟨t, w', hexec, hc, hvec, fun t ht hen => ?_⟩
    obtain ⟨r, hr⟩ := Issue.indexed_of_no_fails hfails ht hen
    refine ⟨r, hr, ?_⟩
    rw [hres.written t ht hen, hr]
    exact Nat.mod_eq_of_lt (vecValue_lt ..)
  case stx =>
    intro s e w sp h hj hfails i
    obtain ⟨t, w', hexec, hc, hw'⟩ := stx_completes h hj hfails
    have hrest := i.stxResult_rest { w with latch := latchAfter .stx e w sp }
    rw [← hw'] at hrest
    have hvreg : ∀ r t, w'.vreg r t = (i.stxResult { w with latch := latchAfter .stx e w sp }).vreg r t := fun r t =>
      (congrArg (fun y : Wave => y.vreg r t) hw' :)
    have hvalue : ∀ b t, vecValue w' b i.wideTy t =
        vecValue (i.stxResult { w with latch := latchAfter .stx e w sp }) b i.wideTy t := fun b t =>
      vecValue_congr (fun r => hvreg r t) b i.wideTy
    refine ⟨t, w', hexec, hc, (congrArg Wave.p hrest :), (congrArg Wave.fp hrest :), (congrArg Wave.latch hrest :),
      fun t ht hen b hb => ⟨fun hwide => ?_, fun hwide => ?_⟩, fun t ht r hr => ?_⟩
    · have hv := (hvalue b t).trans (i.vecValue_stxResult _ ht hen hb)
      rw [hwide] at hv
      exact BitVec.eq_of_toNat_eq (by rw [BitVec.toNat_ofNat]; exact hv)
    · have hv := (hvalue b t).trans (i.vecValue_stxResult _ ht hen hb)
      rw [hwide] at hv
      exact BitVec.eq_of_toNat_eq (by rw [BitVec.toNat_ofNat]; exact hv)
    · rw [hvreg, i.vreg_stxResult_other _ ht (Issue.indexed_of_no_fails hfails ht) hr]
      rfl
  case traps => exact fun op hop s e w sp h hfails => index_traps hop h hfails
  case segw => exact fun s e w sp h hj hen => ⟨segw_completes h hj hen, segw_traps h hen⟩

end Sys2Proof.Machine
end

section
/-! Splits of a wave (R115-R121): division, stacks, merging, and where an instruction leaves its split. -/

namespace Sys2Proof.Machine

/-! ### Splits by number -/

theorem Wave.split?_mem {w : Wave} {n : Nat} {p : Split} (h : w.split? n = some p) : p ∈ w.splits := List.mem_of_find?_eq_some h

theorem Wave.split?_eq_none_iff (w : Wave) (n : Nat) : w.split? n = none ↔ ∀ p ∈ w.splits, p.num ≠ n := by
  simp [Wave.split?]

/-- In a list of objects with different keys a key names one. -/
theorem eq_of_nodup_map {α β : Type} (key : α → β) {l : List α} (hd : (l.map key).Nodup) {x y : α} (hx : x ∈ l) (hy : y ∈ l)
    (h : key x = key y) : x = y := by
  induction l with
  | nil => cases hx
  | cons a r ih =>
    obtain ⟨ha, hr⟩ := List.nodup_cons.1 hd
    rcases List.mem_cons.1 hx with hxa | hxr
    · rcases List.mem_cons.1 hy with hya | hyr
      · exact hxa.trans hya.symm
      · exact absurd (List.mem_map.2 ⟨y, hyr, by rw [← h, hxa]⟩) ha
    · rcases List.mem_cons.1 hy with hya | hyr
      · exact absurd (List.mem_map.2 ⟨x, hxr, by rw [h, hya]⟩) ha
      · exact ih hr hxr hyr

/-- The splits of a wave have different numbers, so that a number names one. -/
theorem Wave.eq_of_num {w : Wave} (hd : (w.splits.map Split.num).Nodup) {p q : Split} (hp : p ∈ w.splits) (hq : q ∈ w.splits)
    (h : q.num = p.num) : q = p := eq_of_nodup_map Split.num hd hq hp h

/-- The other splits stay when one is changed, its number kept. -/
theorem Wave.modSplit_others (w : Wave) (n : Nat) (f : Split → Split) (hf : ∀ p, p.num = n → (f p).num = n) :
    OtherSplits w (w.modSplit n f) n := fun k hk => by
  rw [Wave.split?_modSplit w n k f hf]
  simp [hk]

theorem Wave.split?_modSplit_self {w : Wave} {n : Nat} {p : Split} (hp : w.split? n = some p) (f : Split → Split)
    (hf : ∀ p, p.num = n → (f p).num = n) : (w.modSplit n f).split? n = some (f p) := by
  rw [Wave.split?_modSplit w n n f hf, hp]
  simp

theorem Wave.map_num_modSplit (w : Wave) (n : Nat) (f : Split → Split) (hf : ∀ p, p.num = n → (f p).num = n) :
    (w.modSplit n f).splits.map Split.num = w.splits.map Split.num := by
  simp only [Wave.modSplit, List.map_map]
  refine List.map_congr_left fun p _ => ?_
  by_cases hp : p.num = n <;> simp [hp, hf p]

/-- With different numbers, changing a split is putting the changed split in its place. -/
theorem Wave.modSplit_const {w : Wave} {n : Nat} {p : Split} (hd : (w.splits.map Split.num).Nodup) (hp : w.split? n = some p)
    (f : Split → Split) : w.modSplit n f = w.modSplit n fun _ => f p := by
  simp only [Wave.modSplit]
  congr 1
  refine List.map_congr_left fun q hq => ?_
  by_cases hn : q.num = n
  · rw [if_pos hn, if_pos hn, Wave.eq_of_num hd (Wave.split?_mem hp) hq (hn.trans (Wave.split?_num hp).symm)]
  · rw [if_neg hn, if_neg hn]

/-- A split of the wave after a change of split `n` is the changed one or has another number. -/
theorem Wave.mem_modSplit {w : Wave} {n : Nat} {q' : Split} {f : Split → Split} (h : q' ∈ (w.modSplit n f).splits)
    (hn : q'.num ≠ n) (hf : ∀ p, p.num = n → (f p).num = n) : q' ∈ w.splits := by
  obtain ⟨q, hq, rfl⟩ := List.mem_map.1 h
  by_cases hqn : q.num = n
  · rw [if_pos hqn] at hn
    exact absurd (hf q hqn) hn
  · rwa [if_neg hqn]

/-! ### Merging (R117) -/

/-- A split merges with none when no other split of its wave stands at its PC. -/
theorem Wave.mergeAt_alone {w : Wave} {n : Nat} {p : Split} (hp : w.split? n = some p) (hd : (w.splits.map Split.num).Nodup)
    (hpc : ∀ q ∈ w.splits, q.num ≠ n → q.pc ≠ p.pc) : w.mergeAt n = w := by
  have hone : (w.splits.filter fun q => w.mergeable q && q.pc == p.pc).length < 2 := by
    have hnums : ((w.splits.filter fun q => w.mergeable q && q.pc == p.pc).map Split.num).Nodup :=
      hd.sublist (List.filter_sublist.map Split.num)
    have hsub : ((w.splits.filter fun q => w.mergeable q && q.pc == p.pc).map Split.num) ⊆ [n] := fun k hk => by
      obtain ⟨q, hq, rfl⟩ := List.mem_map.1 hk
      obtain ⟨hmem, hhere⟩ := List.mem_filter.1 hq
      rw [Bool.and_eq_true, beq_iff_eq] at hhere
      exact List.mem_singleton.2 (Decidable.byContradiction fun hn => hpc q hmem hn hhere.2)
    have hlen := hnums.length_le_of_subset hsub
    rw [List.length_map, List.length_singleton] at hlen
    exact Nat.lt_succ_of_le hlen
  unfold Wave.mergeAt
  rw [hp]
  simp [hone]

/-! ### The issue boundary (R120) -/

/-- A split that is changed and reaches no join of its own stays as changed. -/
theorem Wave.boundary_modSplit_stay {w : Wave} {n : Nat} {p : Split} (hp : w.split? n = some p) (f : Split → Split)
    (hf : ∀ p, p.num = n → (f p).num = n) (hj : ∀ x ∈ (f p).stack.head?, (f p).pc ≠ x.ja) :
    (w.modSplit n f).boundary n = w.modSplit n fun _ => f p := by
  rw [Wave.boundary_stay (Wave.split?_modSplit_self hp f hf) hj, Wave.modSplit_modSplit w n f _ hf]

/-- A boundary at which one check acts and the next does nothing (R120). -/
theorem Wave.boundary_once {w : Wave} {p q : Split} {popped : Bool} (hp : w.split? p.num = some p)
    (hs : p.stack ≠ []) (hstep : p.stackStep = some (q, popped)) (hq : ∀ y ∈ q.stack.head?, q.pc ≠ y.ja) :
    w.boundary p.num =
      if popped then (w.modSplit p.num fun _ => q).mergeAt p.num else w.modSplit p.num fun _ => q := by
  obtain ⟨fuel, hfuel⟩ : ∃ fuel, 2 * p.stack.length = fuel + 1 :=
    ⟨2 * p.stack.length - 1, by have := List.length_pos_iff.2 hs; omega⟩
  unfold Wave.boundary
  rw [hp]
  simp only [hfuel, Split.stackRun, hstep, Split.stackRun_stay hq, Bool.or_false]

/-- A split after the check of its top entry `x` in phase 1, over the entries `r` (R120). -/
def Split.exchanged (x : StackEntry) (r : List StackEntry) (p : Split) : Split :=
  { p with mask := x.rest, pc := x.pc, stack := { x with phase := 2, done := p.mask } :: r }

/-- A split after the check of its top entry `x` in phase 2. -/
def Split.united (x : StackEntry) (r : List StackEntry) (p : Split) : Split := { p with mask := p.mask ||| x.done, stack := r }

section Reconvergence

variable {p : Split} {x : StackEntry} {r : List StackEntry} (hs : p.stack = x :: r) (hpc : p.pc = x.ja)
include hs hpc

theorem Split.stackStep_exchange (h1 : x.phase = 1) : p.stackStep = some (p.exchanged x r, false) := by
  simp [Split.stackStep, Split.exchanged, hs, hpc, h1]

theorem Split.stackStep_unite (h2 : x.phase = 2) : p.stackStep = some (p.united x r, r.isEmpty) := by
  simp [Split.stackStep, Split.united, hs, hpc, h2]

variable {w : Wave} (hp : w.split? p.num = some p)
include hp

/-- At the join of an entry of phase 1 the parts are exchanged. -/
theorem Wave.boundary_exchange (h1 : x.phase = 1) (hne : x.pc ≠ x.ja) :
    w.boundary p.num = w.modSplit p.num fun _ => p.exchanged x r :=
  (Wave.boundary_once hp (by simp [hs]) (Split.stackStep_exchange hs hpc h1) (by simpa [Split.exchanged] using hne)).trans rfl

/-- At the join of an entry of phase 2 it is popped, and the parts are united. -/
theorem Wave.boundary_unite (h2 : x.phase = 2) (hr : ∀ y ∈ r.head?, y.ja ≠ x.ja)
    (hmerge : r ≠ [] ∨ ∀ q ∈ w.splits, q.num ≠ p.num → q.pc ≠ x.ja) (hd : (w.splits.map Split.num).Nodup) :
    w.boundary p.num = w.modSplit p.num fun _ => p.united x r := by
  have hkeep : ∀ q : Split, q.num = p.num → (p.united x r).num = p.num := fun _ _ => rfl
  have hstay : ∀ y ∈ (p.united x r).stack.head?, (p.united x r).pc ≠ y.ja := fun y hy hja => hr y hy (hja.symm.trans hpc)
  rw [Wave.boundary_once hp (by simp [hs]) (Split.stackStep_unite hs hpc h2) hstay]
  split
  · next hempty =>
    have hother := hmerge.resolve_left (by simpa using hempty)
    refine Wave.mergeAt_alone (Wave.split?_modSplit_self hp _ hkeep) ?_ fun q hq hn => ?_
    · rwa [Wave.map_num_modSplit w p.num _ hkeep]
    · exact fun hq' => hother q (Wave.mem_modSplit hq hn hkeep) hn (hq'.trans hpc)
  · rfl

end Reconvergence

/-! ### Where an instruction leaves its wave -/

/-- A change of the issuing wave before or as its split is placed. -/
theorem issued_modWave {op : Op} {e : Enc} {s : State} {w : Wave} {sp : Split} (h : Issues s op e w sp) (g : Wave → Wave)
    (hu : ∀ x, (g x).uid = x.uid) :
    OnlyWave s ((issued op e s w sp).modWave w.uid g) w.uid ∧
      ((issued op e s w sp).modWave w.uid g).wave? w.uid = some (g { w with latch := latchAfter op e w sp }) := by
  obtain ⟨-, hw, -⟩ := issuer_some h.issuing
  have hg : ∀ x : Wave, x.uid = w.uid → (g x).uid = w.uid := fun x hx => (hu x).trans hx
  refine ⟨(issued_only op e s w sp).trans (OnlyWave.modWave _ _ g hg), ?_⟩
  rw [State.wave?_modWave _ _ _ g hg, issued_wave hw]
  simp

/-- The issuing split after a control transfer, before it merges (R128). -/
def Split.jumped (target : DWord) (p : Split) : Split :=
  { p with st := .ready, replay := none, held := none, begun := false, also := [], pc := target }

/-- The wave of a control transfer. -/
def Wave.jump (n : Nat) (target : DWord) (w : Wave) : Wave :=
  ((w.modSplit n (Split.jumped target)).boundary n).mergeAt n

theorem finish_jump_eq (i : Issue) (s : State) (target : DWord) :
    finish i (.jump s target) = s.modWave i.w.uid (Wave.jump i.sp.num target) := rfl

theorem Wave.jump_uid (n : Nat) (target : DWord) (w : Wave) : (w.jump n target).uid = w.uid := by
  rw [Wave.jump, Wave.mergeAt_uid, Wave.boundary_uid]
  rfl

/-- A transfer to an address where no other split stands, and which is no join of the split's own, only moves the split. -/
theorem Wave.jump_alone {w : Wave} {n : Nat} {p : Split} {target : DWord} (hp : w.split? n = some p)
    (hd : (w.splits.map Split.num).Nodup) (hj : ∀ x ∈ p.stack.head?, target ≠ x.ja)
    (hpc : ∀ q ∈ w.splits, q.num ≠ n → q.pc ≠ target) : w.jump n target = w.modSplit n fun _ => p.jumped target := by
  have hconst : ∀ q : Split, q.num = n → (p.jumped target).num = n := fun _ _ => show p.num = n from Wave.split?_num hp
  rw [Wave.jump, Wave.boundary_modSplit_stay hp (Split.jumped target) (fun _ h => h) hj]
  refine Wave.mergeAt_alone (Wave.split?_modSplit_self hp _ hconst) ?_ fun q hq hn => hpc q (Wave.mem_modSplit hq hn hconst) hn
  rwa [Wave.map_num_modSplit w n _ hconst]

/-- Such a transfer of the issuing split. -/
theorem finish_jump_alone {op : Op} {e : Enc} {s : State} {w : Wave} {sp : Split} (h : Issues s op e w sp) {target : DWord}
    (hd : (w.splits.map Split.num).Nodup) (hj : ∀ x ∈ sp.stack.head?, target ≠ x.ja)
    (hpc : ∀ q ∈ w.splits, q.num ≠ sp.num → q.pc ≠ target) :
    ∃ t w', finish (issueOf op e w sp) (.jump (issued op e s w sp) target) = t ∧ OnlyWave s t w.uid ∧ t.wave? w.uid = some w' ∧
      SameRegs w w' ∧ w'.split? sp.num = some (movedTo e sp target) ∧ OtherSplits w w' sp.num := by
  obtain ⟨-, -, hp⟩ := issuer_some h.issuing
  obtain ⟨honly, hwave⟩ := issued_modWave h (Wave.jump sp.num target) (Wave.jump_uid _ _)
  rw [Wave.jump_alone (w := { w with latch := latchAfter op e w sp }) hp hd hj hpc] at hwave
  rw [finish_jump_eq, issueOf_uid, issueOf_sp]
  exact ⟨_, _, rfl, honly, hwave, ⟨rfl, rfl, rfl⟩, Wave.split?_modSplit_self hp _ fun _ _ => rfl,
    Wave.modSplit_others w sp.num _ fun _ _ => rfl⟩

/-- A split that its instruction has completed goes past it, and acts on its stack there (R114, R120). -/
theorem finish_done_eq (i : Issue) (s : State) : finish i (.done s) = s.modWave i.w.uid fun w =>
    (w.modSplit i.sp.num fun p => p.jumped (p.pc + BitVec.ofNat 64 (4 * i.len))).boundary i.sp.num := rfl

end Sys2Proof.Machine
end

section
/-! `BRC` (R115-R118, R120, R131) and `JOIN` (R119, R132). -/

namespace Sys2Proof.Machine

/-! ### The lowest free split number (R115) -/

theorem Wave.split?_ne_none_of_any {w : Wave} {k : Nat} (h : (w.splits.any fun p => p.num == k) = true) : w.split? k ≠ none := by
  obtain ⟨p, hp, hk⟩ := List.any_eq_true.1 h
  exact fun hn => (Wave.split?_eq_none_iff w k).1 hn p hp (by simpa using hk)

/-- A wave of fewer than four splits has a free number of the four. -/
theorem Wave.exists_free {w : Wave} (h : w.splits.length < 4) : ∃ k < 4, ∀ p ∈ w.splits, p.num ≠ k := by
  refine Classical.byContradiction fun hall => ?_
  have hsub : List.range 4 ⊆ w.splits.map Split.num := fun k hk => Classical.byContradiction fun hfree =>
    hall ⟨k, List.mem_range.1 hk, fun p hp hpk => hfree (List.mem_map.2 ⟨p, hp, hpk⟩)⟩
  have hlen := List.nodup_range.length_le_of_subset hsub
  rw [List.length_range, List.length_map] at hlen
  omega

theorem Wave.freeSplit_free {w : Wave} (h : w.splits.length < 4) :
    w.split? w.freeSplit = none ∧ ∀ k < w.freeSplit, w.split? k ≠ none := by
  obtain ⟨k, hk4, hk⟩ := Wave.exists_free h
  cases hf : (List.range 4).find? (fun k => !w.splits.any fun p => p.num == k) with
  | none =>
    have := List.find?_eq_none.1 hf k (List.mem_range.2 hk4)
    simp at this
    obtain ⟨p, hp, hpk⟩ := this
    exact absurd hpk (hk p hp)
  | some n =>
    obtain ⟨hfree, -, hlow⟩ := List.find?_range_eq_some.1 hf
    have hn : w.freeSplit = n := by simp [Wave.freeSplit, hf]
    rw [hn]
    refine ⟨(Wave.split?_eq_none_iff w n).2 (by simpa using hfree), fun j hj => Wave.split?_ne_none_of_any ?_⟩
    simpa using hlow j hj

/-! ### Dividing a split (R116) -/

/-- The part of a divided split that goes on. -/
def Split.keptPart (taken : Word) (next : DWord) (p : Split) : Split :=
  { p with mask := p.mask &&& ~~~taken, pc := next, st := .ready, replay := none, held := none, begun := false, also := [] }

/-- The new split `k` with the threads that take the branch. -/
def Split.takenPart (k : Nat) (taken : Word) (target : DWord) (p : Split) : Split :=
  { p with num := k, mask := taken, pc := target, st := .ready, replay := none, stack := [], begun := false, held := none,
           latchOff := false, yielded := false, marked := none, issues := 0, lost := 0, waiting := none, also := [] }

/-- The divided wave before its splits are checked for merging. -/
def Wave.divided (w : Wave) (sp : Split) (taken : Word) (target next : DWord) : Wave :=
  { w with splits := (w.modSplit sp.num (Split.keptPart taken next)).splits ++ [sp.takenPart w.freeSplit taken target]
           pend := w.pend.map fun (p : Pend) => p.addCopy sp.num w.freeSplit }

theorem Wave.divide_eq (w : Wave) (sp : Split) (taken : Word) (target next : DWord) :
    w.divide sp taken target next = ((w.divided sp taken target next).boundary sp.num).mergeAt w.freeSplit := rfl

section Divide

variable {w : Wave} {sp : Split} {taken : Word} {target next : DWord}

/-- The splits of the divided wave by number. -/
theorem Wave.split?_divided (k : Nat) : (w.divided sp taken target next).split? k =
    ((w.modSplit sp.num (Split.keptPart taken next)).split? k).or
      (if w.freeSplit = k then some (sp.takenPart w.freeSplit taken target) else none) := by
  rw [show (w.divided sp taken target next).split? k = List.find? (fun p => p.num == k)
    ((w.modSplit sp.num (Split.keptPart taken next)).splits ++ [sp.takenPart w.freeSplit taken target]) from rfl,
    List.find?_append, List.find?_singleton]
  congr 1
  simp [Split.takenPart]

variable (hp : w.split? sp.num = some sp) (hlen : w.splits.length < 4)
include hp hlen

theorem Wave.freeSplit_ne : w.freeSplit ≠ sp.num := fun h => by
  rw [← h, (Wave.freeSplit_free hlen).1] at hp
  cases hp

/-- The issuing split, the new one, and the others of the divided wave. -/
theorem Wave.divided_splits :
    (w.divided sp taken target next).split? sp.num = some (sp.keptPart taken next) ∧
    (w.divided sp taken target next).split? w.freeSplit = some (sp.takenPart w.freeSplit taken target) ∧
    ∀ k, k ≠ sp.num → k ≠ w.freeSplit → (w.divided sp taken target next).split? k = w.split? k := by
  have hkeep : ∀ p : Split, p.num = sp.num → (p.keptPart taken next).num = sp.num := fun _ h => h
  have hfree := Wave.freeSplit_ne hp hlen
  refine ⟨?_, ?_, fun k hk hkf => ?_⟩
  · rw [Wave.split?_divided, Wave.split?_modSplit_self hp _ hkeep]; rfl
  · rw [Wave.split?_divided, Wave.modSplit_others w sp.num _ hkeep _ hfree, (Wave.freeSplit_free hlen).1]
    simp
  · rw [Wave.split?_divided, Wave.modSplit_others w sp.num _ hkeep k hk, if_neg (Ne.symm hkf), Option.or_none]

omit hp in
theorem Wave.nodup_divided (hd : (w.splits.map Split.num).Nodup) :
    ((w.divided sp taken target next).splits.map Split.num).Nodup := by
  have hkeep : ∀ p : Split, p.num = sp.num → (p.keptPart taken next).num = sp.num := fun _ h => h
  have hfree := (Wave.split?_eq_none_iff w _).1 (Wave.freeSplit_free hlen).1
  rw [show (w.divided sp taken target next).splits.map Split.num =
      (w.modSplit sp.num (Split.keptPart taken next)).splits.map Split.num ++ [w.freeSplit] by simp [Wave.divided, Split.takenPart],
    Wave.map_num_modSplit w sp.num _ hkeep, List.nodup_append]
  simpa [hd] using hfree

/-- No split of the divided wave but the new one stands at the target. -/
theorem Wave.divided_target_alone (hd : (w.splits.map Split.num).Nodup) (hne : target ≠ next)
    (hpc : ∀ q ∈ w.splits, q.num ≠ sp.num → q.pc ≠ target) :
    ∀ q ∈ (w.divided sp taken target next).splits, q.num ≠ w.freeSplit → q.pc ≠ target := by
  have hkeep : ∀ p : Split, p.num = sp.num → (p.keptPart taken next).num = sp.num := fun _ h => h
  intro q hq hn
  by_cases hqsp : q.num = sp.num
  · rw [Wave.eq_of_num (Wave.nodup_divided hlen hd) (Wave.split?_mem (Wave.divided_splits hp hlen).1) hq hqsp]
    exact Ne.symm hne
  · rcases List.mem_append.1 hq with hq | hq
    · exact hpc q (Wave.mem_modSplit hq hqsp hkeep) hqsp
    · rw [List.mem_singleton.1 hq] at hn
      exact absurd rfl hn

/-- The division changes nothing of the divided wave: no part reaches a join or meets another split. -/
theorem Wave.divide_stays (hd : (w.splits.map Split.num).Nodup) (hj : ∀ x ∈ sp.stack.head?, next ≠ x.ja) (hne : target ≠ next)
    (hpc : ∀ q ∈ w.splits, q.num ≠ sp.num → q.pc ≠ target) :
    w.divide sp taken target next = w.divided sp taken target next := by
  obtain ⟨hself, hnew, -⟩ := Wave.divided_splits (taken := taken) (target := target) (next := next) hp hlen
  have hnodup := Wave.nodup_divided (sp := sp) (taken := taken) (target := target) (next := next) hlen hd
  have hstay : (w.divided sp taken target next).boundary sp.num = w.divided sp taken target next := by
    rw [Wave.boundary_stay hself hj]
    unfold Wave.modSplit
    congr 1
    refine (List.map_congr_left fun q hq => ?_).trans (List.map_id _)
    split
    · next hn => exact (Wave.eq_of_num hnodup (Wave.split?_mem hself) hq hn).symm
    · rfl
  rw [Wave.divide_eq, hstay]
  exact Wave.mergeAt_alone hnew hnodup (Wave.divided_target_alone hp hlen hd hne hpc)

end Divide

theorem Wave.divide_uid (w : Wave) (sp : Split) (taken : Word) (target next : DWord) :
    (w.divide sp taken target next).uid = w.uid := by
  rw [Wave.divide_eq, Wave.mergeAt_uid, Wave.boundary_uid]
  rfl

/-! ### Stack order (R120) -/

/-- The issuing split in stack order: the taken threads go first, and the entry holds the others. -/
def Split.stacked (taken : Word) (target : DWord) (t : StackEntry) (p : Split) : Split :=
  { p with mask := taken, pc := target, stack := t :: p.stack, st := .ready, replay := none, held := none, begun := false, also := [] }

theorem Wave.pushEntry_eq (w : Wave) (sp : Split) (taken : Word) (ja target next : DWord) :
    w.pushEntry sp taken ja target next = (w.modSplit sp.num
      (Split.stacked taken target { ja, rest := sp.mask &&& ~~~taken, pc := next, phase := 1, done := 0 })).boundary sp.num := rfl

/-- In stack order the issuing split alone changes, where it does not stand at its join at once. -/
theorem Wave.pushEntry_stays {w : Wave} {sp : Split} (hp : w.split? sp.num = some sp) (taken : Word) {ja target : DWord} (next : DWord)
    (hja : target ≠ ja) : w.pushEntry sp taken ja target next = w.modSplit sp.num fun _ =>
      sp.stacked taken target { ja, rest := sp.mask &&& ~~~taken, pc := next, phase := 1, done := 0 } := by
  rw [Wave.pushEntry_eq]
  exact Wave.boundary_modSplit_stay hp _ (fun _ h => h) (by simpa [Split.stacked] using hja)

theorem Wave.pushEntry_uid (w : Wave) (sp : Split) (taken : Word) (ja target next : DWord) :
    (w.pushEntry sp taken ja target next).uid = w.uid := by
  rw [Wave.pushEntry_eq, Wave.boundary_uid]
  rfl

/-! ### `BRC` (R131) -/

/-- The threads of the split for which the branch is taken. -/
def Issue.brcTaken (i : Issue) : Word :=
  i.sp.mask &&& (if i.e.d.getLsbD 3 then ~~~(i.w.pred (i.e.d.toNat % 8)) else i.w.pred (i.e.d.toNat % 8))

/-- Dividing the issuing wave, or taking the branch in stack order. -/
def Issue.brcWave (i : Issue) (w : Wave) : Wave :=
  if w.splits.length < 4 && w.trap.isNone then w.divide i.sp i.brcTaken i.target14 i.nextPc
  else w.pushEntry i.sp i.brcTaken i.joinAddr i.target14 i.nextPc

theorem Issue.brcWave_uid (i : Issue) (w : Wave) : (i.brcWave w).uid = w.uid := by
  unfold Issue.brcWave
  split
  · exact w.divide_uid ..
  · exact w.pushEntry_uid ..

section Brc

variable {s : State} {e : Enc} {w : Wave} {sp : Split} (h : Issues s .brc e w sp) (hen : Enabled .brc e w sp)
include h hen

/-- A branch that no thread takes. -/
theorem brc_none (hj : NoJoin e sp) (htaken : (issueOf .brc e w sp).brcTaken = 0) :
    ∃ (t : State) (w' : Wave), exec (.brc e) s = .next t ∧ Completed s t w w' sp (passed e sp) := by
  obtain ⟨t, w', ht, hc, -⟩ := finish_nothing h hj
  refine ⟨t, w', ?_, hc⟩
  rw [exec_brc, execBrc, runOnce_next h _ (.inl hen), ← ht]
  exact congrArg (fun r => Host.Outcome.next (finish (issueOf .brc e w sp) r)) (if_pos htaken)

/-- A branch that every active thread takes is a transfer. -/
theorem exec_brc_all (hne : (issueOf .brc e w sp).brcTaken ≠ 0) (hall : (issueOf .brc e w sp).brcTaken = sp.mask)
    (hgood : targetBad (issueOf .brc e w sp).target14 = none) :
    exec (.brc e) s = .next (finish (issueOf .brc e w sp) (.jump (issued .brc e s w sp) (issueOf .brc e w sp).target14)) := by
  rw [exec_brc, execBrc, runOnce_next h _ (.inl hen)]
  refine congrArg (fun r => Host.Outcome.next (finish (issueOf .brc e w sp) r)) ((if_neg hne).trans ((if_pos hall).trans ?_))
  rw [Issue.transfer, hgood]
  rfl

/-- A branch that some threads take and others do not. -/
theorem exec_brc_some (hne : (issueOf .brc e w sp).brcTaken ≠ 0) (hsome : (issueOf .brc e w sp).brcTaken ≠ sp.mask)
    (hgood : targetBad (issueOf .brc e w sp).target14 = none) :
    exec (.brc e) s = .next ((issued .brc e s w sp).modWave w.uid (issueOf .brc e w sp).brcWave) := by
  rw [exec_brc, execBrc, runOnce_next h _ (.inl hen)]
  refine congrArg Host.Outcome.next ((congrArg (finish (issueOf .brc e w sp)) ((if_neg hne).trans (if_neg hsome))).trans ?_)
  rw [hgood, issueOf_uid]
  rfl


/-- A branch that every active thread takes moves the split to the target, where no other stands. -/
theorem brc_all (hne : (issueOf .brc e w sp).brcTaken ≠ 0) (hall : (issueOf .brc e w sp).brcTaken = sp.mask)
    (hgood : targetBad (issueOf .brc e w sp).target14 = none) (hd : (w.splits.map Split.num).Nodup)
    (hjoin : ∀ x ∈ sp.stack.head?, (issueOf .brc e w sp).target14 ≠ x.ja)
    (hpc : ∀ q ∈ w.splits, q.num ≠ sp.num → q.pc ≠ (issueOf .brc e w sp).target14) :
    ∃ (t : State) (w' : Wave), exec (.brc e) s = .next t ∧ OnlyWave s t w.uid ∧ t.wave? w.uid = some w' ∧ SameRegs w w' ∧
      w'.split? sp.num = some (movedTo e sp (issueOf .brc e w sp).target14) ∧ OtherSplits w w' sp.num := by
  obtain ⟨t, w', ht, hjump⟩ := finish_jump_alone h hd hjoin hpc
  exact ⟨t, w', (exec_brc_all h hen hne hall hgood).trans (congrArg _ ht), hjump⟩

/-- A branch that divides the split. -/
theorem brc_divides (hne : (issueOf .brc e w sp).brcTaken ≠ 0) (hsome : (issueOf .brc e w sp).brcTaken ≠ sp.mask)
    (hgood : targetBad (issueOf .brc e w sp).target14 = none) (hlen : w.splits.length < 4) (htrap : w.trap = none)
    (hd : (w.splits.map Split.num).Nodup) (hj : NoJoin e sp)
    (hnext : (issueOf .brc e w sp).target14 ≠ sp.pc + BitVec.ofNat 64 (4 * e.form.words))
    (hpc : ∀ q ∈ w.splits, q.num ≠ sp.num → q.pc ≠ (issueOf .brc e w sp).target14) :
    ∃ (t : State), exec (.brc e) s = .next t ∧ OnlyWave s t w.uid ∧
      t.wave? w.uid = some (Wave.divided { w with latch := latchAfter .brc e w sp } sp (issueOf .brc e w sp).brcTaken
        (issueOf .brc e w sp).target14 (sp.pc + BitVec.ofNat 64 (4 * e.form.words))) := by
  obtain ⟨-, -, hp⟩ := issuer_some h.issuing
  obtain ⟨honly, hwave⟩ := issued_modWave h (issueOf .brc e w sp).brcWave (issueOf .brc e w sp).brcWave_uid
  refine ⟨_, exec_brc_some h hen hne hsome hgood, honly, hwave.trans ?_⟩
  rw [Issue.brcWave, if_pos (by simp [hlen, htrap]), Issue.nextPc, issueOf_len]
  exact congrArg some (Wave.divide_stays (w := { w with latch := latchAfter .brc e w sp }) hp hlen hd hj hnext hpc)

/-- A branch in stack order: in a handler, or with four splits. -/
theorem brc_stacks (hne : (issueOf .brc e w sp).brcTaken ≠ 0) (hsome : (issueOf .brc e w sp).brcTaken ≠ sp.mask)
    (hgood : targetBad (issueOf .brc e w sp).target14 = none) (hfull : w.trap.isSome = true ∨ 4 ≤ w.splits.length)
    (hjoin : (issueOf .brc e w sp).target14 ≠ (issueOf .brc e w sp).joinAddr) :
    ∃ (t : State) (w' : Wave), exec (.brc e) s = .next t ∧ OnlyWave s t w.uid ∧ t.wave? w.uid = some w' ∧ SameRegs w w' ∧
      w'.split? sp.num = some (sp.stacked (issueOf .brc e w sp).brcTaken (issueOf .brc e w sp).target14
        { ja := (issueOf .brc e w sp).joinAddr, rest := sp.mask &&& ~~~(issueOf .brc e w sp).brcTaken,
          pc := sp.pc + BitVec.ofNat 64 (4 * e.form.words), phase := 1, done := 0 }) ∧ OtherSplits w w' sp.num := by
  obtain ⟨-, -, hp⟩ := issuer_some h.issuing
  obtain ⟨honly, hwave⟩ := issued_modWave h (issueOf .brc e w sp).brcWave (issueOf .brc e w sp).brcWave_uid
  have hno : ¬(decide (w.splits.length < 4) && w.trap.isNone) = true := by
    rcases hfull with hfull | hfull
    · simp [Option.isSome_iff_ne_none.1 hfull]
    · simp; omega
  rw [Issue.brcWave, if_neg hno, Issue.nextPc, issueOf_len, issueOf_sp,
    Wave.pushEntry_stays (w := { w with latch := latchAfter .brc e w sp }) hp _ _ hjoin] at hwave
  exact ⟨_, _, exec_brc_some h hen hne hsome hgood, honly, hwave, ⟨rfl, rfl, rfl⟩, Wave.split?_modSplit_self hp _ fun _ _ => rfl,
    Wave.modSplit_others w sp.num _ fun _ _ => rfl⟩

end Brc

/-! ### `JOIN` (R119, R132) -/

@[simp] theorem issueOf_trap (op : Op) (e : Enc) (w : Wave) (sp : Split) : (issueOf op e w sp).w.trap = w.trap := by
  obtain ⟨l, hl⟩ := issueOf_wave op e w sp
  rw [hl]

/-- The issuing split once it waits at its `JOIN` of `len` words. -/
def Split.joinWaiting (len : Nat) (p : Split) : Split := { p with st := .jwait len, begun := false, held := none, issues := 0 }

/-- The waiting wave: it is released at once when every split waits. -/
def Wave.joinWaits (n len : Nat) (w : Wave) : Wave := (w.modSplit n (Split.joinWaiting len)).releaseJoin

/-- No split is released from JWAIT while one is READY. -/
theorem Wave.releaseJoin_ready {w : Wave} {q : Split} (hq : q ∈ w.splits) (hst : q.st = .ready) : w.releaseJoin = w := by
  have hnone : w.joinRelease? = none := by
    unfold Wave.joinRelease?
    refine if_pos (List.length_filterMap_lt_length_iff_exists.2 ⟨q, hq, ?_⟩)
    rw [hst]
  rw [Wave.releaseJoin, hnone]

theorem Wave.releaseJoin_uid (w : Wave) : w.releaseJoin.uid = w.uid := by
  unfold Wave.releaseJoin
  split
  · rfl
  · rw [Wave.boundary_uid]; rfl

section Join

variable {s : State} {e : Enc} {w : Wave} {sp : Split} (h : Issues s .join e w sp) (hen : Enabled .join e w sp)
include h hen

/-- `JOIN` completes in a handler. -/
theorem exec_join_handler (htrap : w.trap.isSome = true) :
    exec (.join e) s = .next (finish (issueOf .join e w sp) (.done (issued .join e s w sp))) := by
  rw [exec_join, execJoin, runOnce_next h _ (.inl hen), if_pos (by rw [issueOf_trap]; exact htrap)]

/-- Outside a handler a `JOIN` that merges with no split completes in a wave of one split, and waits otherwise. -/
theorem exec_join_unmerged (htrap : w.trap = none)
    (hmerge : ∀ l, ({ w with latch := l } : Wave).mergeAt sp.num = { w with latch := l }) :
    exec (.join e) s = .next (finish (issueOf .join e w sp)
      (if w.splits.length ≤ 1 then .done (issued .join e s w sp)
       else .gone ((issued .join e s w sp).modWave w.uid (Wave.joinWaits sp.num e.form.words)))) := by
  obtain ⟨-, hw, -⟩ := issuer_some h.issuing
  rw [exec_join, execJoin, runOnce_next h _ (.inl hen), if_neg (by rw [issueOf_trap, htrap]; decide)]
  simp only [issueOf_uid, issueOf_sp, issueOf_len, issued_wave hw, hmerge, Nat.lt_irrefl, if_false]
  rfl

theorem join_completes (hj : NoJoin e sp) (halone : w.trap.isSome = true ∨ w.splits = [sp]) :
    ∃ (t : State) (w' : Wave), exec (.join e) s = .next t ∧ Completed s t w w' sp (passed e sp) ∧
      NoVectorEffect .join e w w' sp := by
  obtain ⟨t, w', ht, hdone⟩ := finish_nothing h hj
  refine ⟨t, w', ?_, hdone⟩
  rw [← ht]
  cases htrap : w.trap with
  | some r => exact exec_join_handler h hen (by rw [htrap]; rfl)
  | none =>
    have hone : w.splits = [sp] := halone.resolve_left (by simp [htrap])
    obtain ⟨-, -, hp⟩ := issuer_some h.issuing
    rw [exec_join_unmerged h hen htrap fun l =>
      Wave.mergeAt_alone (w := { w with latch := l }) hp (by simp [hone]) (by simp [hone]), if_pos (by simp [hone])]

theorem join_waits (htrap : w.trap = none) (hd : (w.splits.map Split.num).Nodup)
    (hpc : ∀ q ∈ w.splits, q.num ≠ sp.num → q.pc ≠ sp.pc) (hready : ∃ q ∈ w.splits, q.num ≠ sp.num ∧ q.st = .ready) :
    ∃ (t : State) (w' : Wave), exec (.join e) s = .next t ∧ OnlyWave s t w.uid ∧ t.wave? w.uid = some w' ∧ SameRegs w w' ∧
      w'.split? sp.num = some (sp.joinWaiting e.form.words) ∧ OtherSplits w w' sp.num := by
  obtain ⟨-, -, hp⟩ := issuer_some h.issuing
  obtain ⟨q, hq, hqn, hqst⟩ := hready
  have hmany : ¬ w.splits.length ≤ 1 := fun hle => by
    obtain ⟨p, hp1⟩ := List.length_eq_one_iff.1 (Nat.le_antisymm hle (List.length_pos_of_mem hq))
    have hsp := Wave.split?_mem hp
    rw [hp1, List.mem_singleton] at hq hsp
    exact hqn (by rw [hq, hsp])
  have hstays : ∀ l, Wave.joinWaits sp.num e.form.words { w with latch := l } =
      ({ w with latch := l } : Wave).modSplit sp.num (Split.joinWaiting e.form.words) := fun l =>
    Wave.releaseJoin_ready (q := q) (List.mem_map.2 ⟨q, hq, if_neg hqn⟩) hqst
  obtain ⟨honly, hwave⟩ := issued_modWave h (Wave.joinWaits sp.num e.form.words) fun x => by
    rw [Wave.joinWaits, Wave.releaseJoin_uid]; rfl
  rw [hstays] at hwave
  refine ⟨_, _, ?_, honly, hwave, ⟨rfl, rfl, rfl⟩, Wave.split?_modSplit_self hp _ fun _ h => h,
    Wave.modSplit_others w sp.num _ fun _ h => h⟩
  rw [exec_join_unmerged h hen htrap fun l => Wave.mergeAt_alone (w := { w with latch := l }) hp hd hpc, if_neg hmany]
  rfl

end Join

/-! ### `NOP` at a join (R120) -/

/-- After a `NOP` the split acts on its stack at the next address, and nothing else of the wave changes. -/
theorem nop_boundary {s : State} {e : Enc} {w : Wave} {sp : Split} (h : Issues s .nop e w sp) (hd : (w.splits.map Split.num).Nodup) :
    ∃ (t : State) (w' : Wave), exec (.nop e) s = .next t ∧ OnlyWave s t w.uid ∧ t.wave? w.uid = some w' ∧
      w' = (w.modSplit sp.num fun _ => passed e sp).boundary sp.num := by
  obtain ⟨-, -, hp⟩ := issuer_some h.issuing
  obtain ⟨honly, hwave⟩ := issued_modWave h
    (fun x => (x.modSplit sp.num fun p => p.jumped (p.pc + BitVec.ofNat 64 (4 * e.form.words))).boundary sp.num)
    fun x => by rw [Wave.boundary_uid]; rfl
  rw [latchAfter_nop (nopFields_of_encErr h.encErr_none)] at hwave
  refine ⟨_, _, ?_, honly, hwave, ?_⟩
  · rw [exec_nop, execNop, runInstr_next h, finish_done_eq, issueOf_uid, issueOf_sp, issueOf_len]
  · rw [Wave.modSplit_const hd hp]
    rfl

/-! ### The obligation -/

/-- Settles O19: it holds. No part of a divided split, no transferred and no joining split meets another, so that nothing merges, and
each boundary acts as the top entry of its stack says. -/
theorem branchesDivideAndJoin : Obligations.BranchesDivideAndJoin := by
  unfold Obligations.BranchesDivideAndJoin
  refine ⟨?brc, ?join, ?boundary, ?nop⟩
  case brc =>
    intro s e w sp h hj hen hd i p taken next
    obtain ⟨-, -, hp⟩ := issuer_some h.issuing
    have htaken : i.brcTaken = taken := by simp only [Issue.brcTaken, i, issueOf_pred]; rfl
    rw [← htaken]
    refine ⟨brc_none h hen hj, fun hgood hjoin hpc => ⟨fun hne hall => brc_all h hen hne hall hgood hd hjoin hpc,
      fun hne hsome htrap hlen hnext => ?_, fun hne hsome hfull hja => ?_⟩⟩
    · obtain ⟨t, hexec, honly, hwave⟩ := brc_divides h hen hne hsome hgood hlen htrap hd hj hnext hpc
      obtain ⟨hself, hnew, hothers⟩ := Wave.divided_splits (taken := i.brcTaken) (target := i.target14) (next := next) hp hlen
      obtain ⟨hfree, hlow⟩ := Wave.freeSplit_free hlen
      exact ⟨t, _, sp.keptPart i.brcTaken next, sp.takenPart w.freeSplit i.brcTaken i.target14, hexec, honly, hwave,
        ⟨rfl, rfl, rfl⟩, hself, rfl, rfl, rfl, rfl, rfl, rfl, rfl,
        by simp [Wave.divided, Wave.modSplit], hothers, hfree, hlow, hnew, rfl, rfl, rfl, rfl, rfl, rfl, rfl⟩
    · obtain ⟨t, w', hexec, honly, hwave, hregs, hself, hothers⟩ := brc_stacks h hen hne hsome hgood hfull hja
      exact ⟨t, w', _, hexec, honly, hwave, hregs, hself, hothers, rfl, rfl, rfl, rfl, rfl, rfl, rfl⟩
  case join =>
    intro s e w sp h hen
    refine ⟨join_completes h hen, fun htrap hd hpc hready => ?_⟩
    obtain ⟨t, w', hexec, honly, hwave, hregs, hself, hothers⟩ := join_waits h hen htrap hd hpc hready
    exact ⟨t, w', _, hexec, honly, hwave, hregs, hself, hothers, rfl, rfl, rfl, rfl⟩
  case boundary =>
    exact fun w p x r hp hs hpc => ⟨fun h1 hne => Wave.boundary_exchange hs hpc hp h1 hne,
      fun h2 hr hmerge hd => Wave.boundary_unite hs hpc hp h2 hr hmerge hd⟩
  case nop => exact fun s e w sp x r h hd _ _ => nop_boundary h hd

end Sys2Proof.Machine
end

section
/-! `EXIT` of some threads keeps the services on which its split was parked, which a completed split no longer holds (R114, R134). -/

namespace Sys2Proof.Machine

/-! ### A split of two threads that has a service left over -/

/-- `EXIT` under p0 (R134). -/
def exitUnderP0 : Enc :=
  { form := .extended, d := 0, a := 0, ak := .vec, b := 0, bk := .vec, c := 0, ck := .vec, ty := 0, rnd := .ne, sat := false,
    opx := 0, mod := 0, le := false, ld := 0, nw := false, pg := 0, pn := false, imm := 0, lit := 0, p0 := 0, p1 := 0, p2 := 0,
    p3 := 0 }

/-- A READY split of threads 0 and 1 with an entry in `also`. -/
def leftoverSplit : Split := { freshSplit (BitVec.ofNat 64 placeVa) 3 32 with also := [.ready] }

/-- Its wave, in which p0 holds thread 0. -/
def leftoverWave : Wave := { placeWave 0 with splits := [leftoverSplit], p := [(0, 1)] }

/-- The state in which it issues. -/
def leftoverState : State := { State.reset with cur := some (0, 0), waves := [leftoverWave] }

theorem leftover_issues : Issues leftoverState .exit exitUnderP0 leftoverWave leftoverSplit where
  issuing := by decide
  legal := by decide
  score := by decide
  copies := by decide
  sound := by decide

/-- Thread 0 is enabled, and thread 1 stays in the split. -/
theorem leftover_enabled : enabledOf .exit exitUnderP0 leftoverWave leftoverSplit = 1 := by decide

/-- The model's `EXIT` leaves the entry with the split that goes on. -/
theorem leftover_exit : ((nextOf (exec (.exit exitUnderP0) leftoverState)).bind fun t => (t.wave? 0).bind fun w =>
    (w.split? 0).map Split.also) = some [.ready] := by decide

/-- Refutes O23: its first clause has the split of an `EXIT` that goes on as `passed`, with `also` empty; but
`Wave.exitThreads` clears all that a completed split no longer holds except `also`. -/
theorem not_exitYieldAndHaltComplete : ¬ Obligations.ExitYieldAndHaltComplete := by
  unfold Obligations.ExitYieldAndHaltComplete
  rintro ⟨⟨hexit, -⟩, -⟩
  obtain ⟨t, w', hexec, hc, -⟩ := hexit leftoverState exitUnderP0 leftoverWave leftoverSplit leftover_issues
    (by simp [NoJoin, leftoverSplit, freshSplit]) rfl rfl (by rw [leftover_enabled]; decide) (by rw [leftover_enabled]; decide)
  have halso := leftover_exit
  have hwave : t.wave? 0 = some w' := hc.wave
  have hsplit : w'.split? 0 = some (passed exitUnderP0 _) := hc.split
  rw [hexec, nextOf, Option.bind_some, hwave, Option.bind_some, hsplit] at halso
  exact absurd halso (by simp [passed])

end Sys2Proof.Machine
end

section
/-! The bitwise opcodes, `MOV` and the shifts (R149, R155). -/

namespace Sys2Proof.Machine

/-! ### Operands A and B of an integer opcode -/

theorem Issue.b_lt (i : Issue) (wide : Bool) (t : Nat) (h : i.imm wide < 2 ^ (if wide then 64 else 32)) :
    i.b wide t < 2 ^ (if wide then 64 else 32) := by
  unfold Issue.b
  split
  · cases wide
    · exact Nat.mod_lt _ (by decide)
    · exact i.e.lit.isLt
  · exact i.src_lt _ _ wide _ t h

/-! ### Whole registers and pairs -/

/-- The bitwise opcodes of R149 and `MOV`. -/
def bitOps : List Op := [.and, .or, .xor, .not, .andn, .mov]

/-- Their results on operands of `n` bits. -/
def bitFn (op : Op) (n a b : Nat) : Nat :=
  match op with
  | .and => a &&& b
  | .or => a ||| b
  | .xor => a ^^^ b
  | .not => 2 ^ n - 1 - a
  | .andn => a &&& (2 ^ n - 1 - b)
  | _ => b

theorem exec_bitOps {op : Op} (hop : op ∈ bitOps) (e : Enc) (s : State) :
    exec (Instr.ofOp e op) s = runInstr op e s fun i s => i.bitOp s (bitFn op i.opWidth) := by
  simp only [bitOps, List.mem_cons, List.not_mem_nil, or_false] at hop
  rcases hop with rfl | rfl | rfl | rfl | rfl | rfl <;> rfl

/-- An immediate operand of a bitwise opcode is the sign-extended one (R24). -/
theorem bitOps_imm_lt {op : Op} (hop : op ∈ bitOps) (e : Enc) (w : Wave) (sp : Split) (wide : Bool) :
    (issueOf op e w sp).imm wide < 2 ^ (if wide then 64 else 32) := by
  simp only [bitOps, List.mem_cons, List.not_mem_nil, or_false] at hop
  rcases hop with rfl | rfl | rfl | rfl | rfl | rfl <;> exact immSx_lt _ _

theorem ofNat_complement {n a : Nat} (ha : a < 2 ^ n) : BitVec.ofNat n (2 ^ n - 1 - a) = ~~~BitVec.ofNat n a := by
  apply BitVec.eq_of_toNat_eq
  rw [BitVec.toNat_not, BitVec.toNat_ofNat, BitVec.toNat_ofNat, Nat.mod_eq_of_lt ha, Nat.mod_eq_of_lt (by omega)]

/-- On numbers of `n` bits the results are those of R149 on their bits. -/
theorem ofNat_bitFn {op : Op} (hop : op ∈ bitOps) {n a b : Nat} (ha : a < 2 ^ n) (hb : b < 2 ^ n) :
    BitVec.ofNat n (bitFn op n a b) = bitSpec op (BitVec.ofNat n a) (BitVec.ofNat n b) := by
  simp only [bitOps, List.mem_cons, List.not_mem_nil, or_false] at hop
  rcases hop with rfl | rfl | rfl | rfl | rfl | rfl
  · exact BitVec.ofNat_and
  · exact BitVec.ofNat_or
  · exact BitVec.ofNat_xor
  · exact ofNat_complement ha
  · rw [bitFn, BitVec.ofNat_and, ofNat_complement hb]; rfl
  · rfl

/-- A bitwise opcode or `MOV` completes with its result of R149 or R155 in every enabled thread. -/
theorem bitOps_complete {op : Op} (hop : op ∈ bitOps) {s : State} {e : Enc} {w : Wave} {sp : Split} (h : Issues s op e w sp)
    (hj : NoJoin e sp) :
    let i := issueOf op e w sp
    ∃ (t : State) (w' : Wave), exec (Instr.ofOp e op) s = .next t ∧ t.wave? w.uid = some w' ∧
      ∀ t < 32, i.en.getLsbD t = true → ∀ wide, i.wideTy = wide → written e w' wide t =
        (bitSpec op (BitVec.ofNat (if wide then 64 else 32) (i.a wide t)) (BitVec.ofNat (if wide then 64 else 32) (i.b wide t))).toNat := by
  intro i
  obtain ⟨t, w', hrun, hc, -, hres⟩ := runInstr_vec_threadResults h hj i.wideTy
    (fun t => ⟨bitFn op i.opWidth (i.a i.wideTy t) (i.b i.wideTy t), 0⟩)
    (body := fun i s => i.bitOp s (bitFn op i.opWidth)) rfl
  refine ⟨t, w', (exec_bitOps hop e s).trans hrun, hc.wave, fun t ht hen wide hwide => ?_⟩
  subst hwide
  have himm := bitOps_imm_lt hop e w sp i.wideTy
  rw [hres.written t ht hen, ← ofNat_bitFn hop (i.a_lt _ t himm) (i.b_lt _ t himm), BitVec.toNat_ofNat]
  rfl

/-! ### Shifts -/

/-- The shifts of R149. -/
def shiftOps : List Op := [.shl, .shr, .sar]

/-- Their exact results on an element of `n` bits and an amount. -/
def shiftFn (op : Op) (sg : Bool) (n a k : Nat) : Int :=
  match op with
  | .shl => readInt sg n a * (2 ^ k : Nat)
  | .shr => (a / 2 ^ k : Nat)
  | _ => readInt true n a / (2 ^ k : Nat)

theorem exec_shiftOps {op : Op} (hop : op ∈ shiftOps) (e : Enc) (s : State) :
    exec (Instr.ofOp e op) s = runInstr op e s fun i s => i.shiftOp s (shiftFn op (intSigned i.e.ty.toNat)) := by
  simp only [shiftOps, List.mem_cons, List.not_mem_nil, or_false] at hop
  rcases hop with rfl | rfl | rfl <;> rfl

/-- The exact shift of an element is, modulo 2^n, the shift of its bits. -/
theorem ofInt_shiftFn {op : Op} (hop : op ∈ shiftOps) {n : Nat} (hn : 0 < n) (sg : Bool) (x k m : Nat) :
    BitVec.ofInt n (shiftFn op sg n (elem n x k) m) = shiftSpec op (lane n x k) m := by
  simp only [shiftOps, List.mem_cons, List.not_mem_nil, or_false] at hop
  rcases hop with rfl | rfl | rfl
  · have hpow : BitVec.ofNat n (2 ^ m) = BitVec.twoPow n m := BitVec.eq_of_toNat_eq (by
      rw [BitVec.toNat_ofNat, BitVec.toNat_twoPow])
    rw [shiftFn, shiftSpec, readInt_elem hn, BitVec.ofInt_mul, ofInt_laneInt, BitVec.ofInt_natCast, hpow,
      BitVec.shiftLeft_eq_mul_twoPow]
  · apply BitVec.eq_of_toNat_eq
    have hx := elem_lt n x k
    rw [shiftFn, shiftSpec, BitVec.ofInt_natCast, BitVec.toNat_ushiftRight, Nat.shiftRight_eq_div_pow, lane, BitVec.toNat_ofNat,
      BitVec.toNat_ofNat, Nat.mod_eq_of_lt hx, Nat.mod_eq_of_lt (Nat.lt_of_le_of_lt (Nat.div_le_self _ _) hx)]
  · simp only [shiftFn, shiftSpec, readInt_elem hn, laneInt, if_true, BitVec.sshiftRight, Int.shiftRight_eq_div_pow]

/-- The elements of an integer `TYPE` fill the register or pair of a shift (R68). -/
theorem intWidth_mul_intCount_of_shiftOps {op : Op} (hop : op ∈ shiftOps) (e : Enc) (w : Wave) (sp : Split) :
    intWidth e.ty.toNat * intCount e.ty.toNat = if (issueOf op e w sp).wideTy then 64 else 32 := by
  have hwide : (opSpec op).wide = (opSpec .iadd).wide := by
    simp only [shiftOps, List.mem_cons, List.not_mem_nil, or_false] at hop
    rcases hop with rfl | rfl | rfl <;> rfl
  have hpair : (issueOf op e w sp).wideTy = (issueOf .iadd e w sp).wideTy := congrArg (List.contains · e.ty.toNat) hwide
  rw [hpair]
  exact intWidth_mul_intCount (by decide) e w sp

/-- A shift without `SAT` completes, and each element of a result is the shift of R149. -/
theorem shiftOps_complete {op : Op} (hop : op ∈ shiftOps) {s : State} {e : Enc} {w : Wave} {sp : Split} (h : Issues s op e w sp)
    (hj : NoJoin e sp) (hsat : e.sat = false) :
    let i := issueOf op e w sp
    let n := intWidth e.ty.toNat
    ∃ (t : State) (w' : Wave), exec (Instr.ofOp e op) s = .next t ∧ t.wave? w.uid = some w' ∧
      ∀ t < 32, i.en.getLsbD t = true → ∀ k < intCount e.ty.toNat,
        lane n (written e w' i.wideTy t) k = shiftSpec op (lane n (i.a i.wideTy t) k) (i.shiftBy i.wideTy t k) := by
  intro i n
  let r (t k : Nat) : FRes := intElem e.sat (intSigned e.ty.toNat) n
    (shiftFn op (intSigned e.ty.toNat) n (elem n (i.a i.wideTy t) k) (i.shiftBy i.wideTy t k))
  obtain ⟨t, w', hrun, hc, -, hres⟩ := runInstr_vec_threadResults h hj i.wideTy
    (fun t => packRes n ((List.range (intCount e.ty.toNat)).map (r t)))
    (body := fun i s => i.shiftOp s (shiftFn op (intSigned i.e.ty.toNat))) rfl
  refine ⟨t, w', (exec_shiftOps hop e s).trans hrun, hc.wave, fun t ht hen k hk => ?_⟩
  have hbits : (r t k).bits % 2 ^ n = (r t k).bits := by
    refine Nat.mod_eq_of_lt ?_
    simp only [r, intElem, hsat]
    exact wrapInt_lt _ _
  calc lane n (written e w' i.wideTy t) k
      = BitVec.ofNat n (r t k).bits := by
        rw [lane, hres.written t ht hen, elem_packRes (r t) (intWidth_mul_intCount_of_shiftOps hop e w sp) hk, hbits]
    _ = BitVec.ofInt n (shiftFn op (intSigned e.ty.toNat) n (elem n (i.a i.wideTy t) k) (i.shiftBy i.wideTy t k)) := by
        simp only [r, hsat]
        exact ofNat_wrapInt _ _
    _ = _ := ofInt_shiftFn hop (intWidth_pos _) _ _ _ _

/-! ### The obligation -/

/-- Settles O9: it holds, for the bitwise opcodes on whole operands of the width of `TYPE`, and for the shifts element by element. -/
theorem bitwiseAndShiftResults : Obligations.BitwiseAndShiftResults := by
  unfold Obligations.BitwiseAndShiftResults
  refine ⟨?bitwise, ?shifts⟩
  case bitwise =>
    intro op hop s e w sp h hj i
    obtain ⟨t, w', hexec, hwave, hres⟩ := bitOps_complete hop h hj
    exact ⟨t, w', hexec, hwave, fun t ht hen => ⟨hres t ht hen false, hres t ht hen true⟩⟩
  case shifts => exact fun op hop s e w sp h hj hsat => shiftOps_complete hop h hj hsat

end Sys2Proof.Machine
end

section
/-! The special-function queue (R169, R170), and `WAITK` (R172, R229). -/

namespace Sys2Proof.Machine

/-! ### Issuing an outstanding write -/

theorem OnlyWave.setNextUid {s t : State} {u : Nat} (h : OnlyWave s t u) (n : Nat) :
    OnlyWave { s with nextUid := n } { t with nextUid := n } u :=
  ⟨congrArg (fun y : State => { y with nextUid := n }) h.rest, h.others, h.memory⟩

/-- A wave with one more outstanding write. -/
def Wave.withPend (q : Wave → Pend) (w : Wave) : Wave := { w with pend := w.pend ++ [q w] }

/-- The outstanding write that `addPend` adds (R39, R56). -/
def Issue.newPend (i : Issue) (s : State) (seq : Nat) (mask : Word) (dst : Dst) (wait : WaitClass) (body : PendBody) (w : Wave) :
    Pend :=
  { seq, sp := i.sp.num, sps := [i.w.copyOf i.sp.num], sup := s.waveSup w, mask, all := mask, dst, wait, body, waits := [], fails := [] }

theorem addPend_eq (s : State) (i : Issue) (seq : Nat) (mask : Word) (dst : Dst) (wait : WaitClass) (body : PendBody) :
    addPend s i seq mask dst wait body = s.modWave i.w.uid (Wave.withPend (i.newPend s seq mask dst wait body)) := rfl

/-- An instruction whose effect is one outstanding write goes on, and the unique numbers advance. -/
theorem finish_withPend {op : Op} {e : Enc} {s : State} {w : Wave} {sp : Split} (h : Issues s op e w sp) (hj : NoJoin e sp)
    (q : Wave → Pend) (n : Nat) :
    ∃ (t : State) (w' : Wave),
      finish (issueOf op e w sp) (.done ({ issued op e s w sp with nextUid := n }.modWave w.uid (Wave.withPend q))) = t ∧
      MemIssued e s t w w' sp ∧ w'.pend = w.pend ++ [q { w with latch := latchAfter op e w sp }] ∧ t.stores = s.stores := by
  obtain ⟨_, hw, hp⟩ := issuer_some h.issuing
  have huid : ∀ x : Wave, x.uid = w.uid → (x.withPend q).uid = w.uid := fun _ hx => hx
  have hadded : ({ issued op e s w sp with nextUid := n }.modWave w.uid (Wave.withPend q)).wave? w.uid =
      some (Wave.withPend q { w with latch := latchAfter op e w sp }) := by
    refine (State.wave?_modWave _ _ _ _ huid).trans ?_
    refine (congrArg (Option.map _) (issued_wave hw)).trans ?_
    rw [Option.map_some, if_pos rfl]
  obtain ⟨hfinish, w', hwave, hrest, hothers, hsplit⟩ := finish_done (i := issueOf op e w sp)
    (s := { issued op e s w sp with nextUid := n }.modWave w.uid (Wave.withPend q))
    (w := Wave.withPend q { w with latch := latchAfter op e w sp }) (p := sp)
    (by rw [issueOf_uid]; exact hadded) hp (by rw [issueOf_len]; exact hj)
  rw [issueOf_uid] at hfinish hwave
  rw [issueOf_sp, issueOf_len] at hsplit
  have honly := (((issued_only op e s w sp).setNextUid n).trans (OnlyWave.modWave _ w.uid _ huid)).trans hfinish
  refine ⟨_, w', rfl, ⟨?_, honly.others, hwave, ⟨?_, ?_, ?_⟩, ?_, hsplit, hothers, honly.memory⟩, ?_, ?_⟩
  · exact congrArg (fun y : State => { y with waves := s.waves, stores := s.stores, tlb := s.tlb, counts := s.counts,
                                              nextUid := s.nextUid, freeCtr := s.freeCtr }) honly.rest
  · exact (congrArg Wave.v hrest :)
  · exact (congrArg Wave.p hrest :)
  · exact (congrArg Wave.fp hrest :)
  · exact (congrArg (fun y : Wave => { y with splits := w.splits, latch := w.latch, pend := w.pend, tw := w.tw }) hrest :)
  · exact (congrArg Wave.pend hrest :)
  · exact (congrArg State.stores honly.rest :)

/-! ### `SFQ` -/

/-- The request of an `SFQ`: the operand values of each enabled thread (R169). -/
def Issue.sfqBody (i : Issue) : PendBody :=
  .sfq i.e.opx.toNat ((lanesOf i.en).map fun t => (t, BitVec.ofNat 32 (i.a false t), BitVec.ofNat 32 (i.b false t)))

theorem issueOf_lane (op : Op) (e : Enc) (w : Wave) (sp : Split) :
    (issueOf op e w sp).w.core = w.core ∧ (issueOf op e w sp).w.lane = w.lane := by
  obtain ⟨l, hl⟩ := issueOf_wave op e w sp
  rw [hl]
  exact ⟨rfl, rfl⟩

/-- An `SFQ` waits for room where its queue cannot hold its requests, and enters them otherwise (R170). -/
theorem exec_sfq_issued {s : State} {e : Enc} {w : Wave} {sp : Split} (h : Issues s .sfq e w sp) :
    let i := issueOf .sfq e w sp
    let s1 := issued .sfq e s w sp
    exec (.sfq e) s = .next (finish i (if 256 < s1.sfqUsed w.core w.lane + popMask i.en then .block .roomSfq s1
      else .done (addPend { s1 with nextUid := s1.nextUid + 1 } i s1.nextUid i.en (.vec e.d.toNat 1) (.token (tokenOf e)) i.sfqBody))) := by
  obtain ⟨hcore, hlane⟩ := issueOf_lane .sfq e w sp
  rw [exec_sfq, execSfq, runInstr_next h, hcore, hlane]
  rfl

theorem sfq_enters {s : State} {e : Enc} {w : Wave} {sp : Split} (h : Issues s .sfq e w sp) (hj : NoJoin e sp)
    (hroom : (issued .sfq e s w sp).sfqUsed w.core w.lane + popMask (issueOf .sfq e w sp).en ≤ 256) :
    ∃ (t : State) (w' : Wave) (p : Pend), exec (.sfq e) s = .next t ∧ MemIssued e s t w w' sp ∧ w'.pend = w.pend ++ [p] ∧
      t.stores = s.stores ∧ p.mask = (issueOf .sfq e w sp).en ∧ p.sp = sp.num ∧ p.dst = .vec e.d.toNat 1 ∧
      p.wait = .token (tokenOf e) ∧ p.body = (issueOf .sfq e w sp).sfqBody := by
  obtain ⟨t, w', ht, hissued, hpend, hstores⟩ := finish_withPend h hj _ _
  refine ⟨t, w', _, ?_, hissued, hpend, hstores, ?_⟩
  · rw [exec_sfq_issued h, if_neg (Nat.not_lt.2 hroom), addPend_eq, issueOf_uid]
    exact congrArg _ ht
  · exact ⟨rfl, rfl, rfl, rfl, rfl⟩

theorem sfq_waits {s : State} {e : Enc} {w : Wave} {sp : Split} (h : Issues s .sfq e w sp)
    (hfull : 256 < (issued .sfq e s w sp).sfqUsed w.core w.lane + popMask (issueOf .sfq e w sp).en) :
    WaitsOn (fun _ => s) w sp .roomSfq (exec (.sfq e) s) := by
  rw [exec_sfq_issued h, if_pos hfull]
  exact finish_block_waitsOn h _

/-! ### A step of the queue -/

/-- The first element that meets a test and another one is the first that meets the one, if it meets the other. -/
theorem find?_and_of_find? {α : Type} {p q : α → Bool} {l : List α} {a : α} (h : l.find? p = some a) (hq : q a = true) :
    l.find? (fun x => p x && q x) = some a := by
  obtain ⟨hp, as, bs, rfl, has⟩ := List.find?_eq_some_iff_append.1 h
  exact List.find?_eq_some_iff_append.2 ⟨by rw [hp, hq]; rfl, as, bs, rfl, fun x hx => by simp [has x hx]⟩

/-- A wave after a thread's request of its outstanding write `seq` to register `d` has its result (R84, R170). -/
def Wave.sfqDone (seq d thread : Nat) (r : FRes) (w : Wave) : Wave :=
  { (w.setV d thread (BitVec.ofNat 32 r.bits)).raise thread r.fl with pend := (w.clearPend seq thread).pend }

theorem trySfqRequestComplete_eq {s : State} {u seq thread : Nat} {w : Wave} {p : Pend} {d n fn th : Nat} {a b : Word}
    {args : List (Nat × Word × Word)} (hw : s.wave? u = some w) (hrun : w.halted = false)
    (hp : w.pend.find? (fun p => p.seq == seq) = some p) (hm : p.mask.getLsbD thread = true) (hd : p.dst = .vec d n)
    (hb : p.body = .sfq fn args) (ha : args.find? (fun a => a.1 == thread) = some (th, a, b)) :
    trySfqRequestComplete u seq thread s = some (s.modWave u (Wave.sfqDone seq d thread (sfqResult fn a.toNat b.toNat))) := by
  have hfind := find?_and_of_find? (q := fun p => p.mask.getLsbD thread) hp hm
  unfold trySfqRequestComplete
  simp only [hw, hfind, hd, hb, ha, hrun]
  rfl

theorem Wave.find?_clearPend {w : Wave} {seq : Nat} {p : Pend} (h : w.pend.find? (fun p => p.seq == seq) = some p) (thread : Nat) :
    (w.clearPend seq thread).pend.find? (fun p => p.seq == seq) =
      some { p with mask := p.mask &&& ~~~(1#32 <<< thread) } := by
  refine (find_map_key Pend.seq (fun q => { q with mask := q.mask &&& ~~~(1#32 <<< thread) }) seq seq w.pend fun _ hq => hq).trans ?_
  rw [h]
  simp

theorem Wave.sfqDone_rest (w : Wave) (seq d thread : Nat) (r : FRes) :
    { w.sfqDone seq d thread r with v := w.v, badV := w.badV, fp := w.fp, pend := w.pend } = w := rfl

theorem Wave.vreg_sfqDone (w : Wave) (seq d : Nat) {thread : Nat} (r : FRes) (hth : thread < 32) (k : Nat) {t : Nat} (ht : t < 32) :
    (w.sfqDone seq d thread r).vreg k t = if k = d ∧ t = thread then BitVec.ofNat 32 r.bits else w.vreg k t :=
  w.vreg_setV d thread k t _ hth ht

theorem Wave.fp_sfqDone (w : Wave) (seq d thread : Nat) (r : FRes) (t : Nat) :
    sget 0 (w.sfqDone seq d thread r).fp t = if t = thread then sget 0 w.fp t ||| r.fl else sget 0 w.fp t :=
  Wave.fp_raise (w.setV d thread (BitVec.ofNat 32 r.bits)) thread t r.fl

/-- R170: the step of the queue for a thread whose request is outstanding. -/
theorem sfqRequestComplete_done {s : State} {u seq thread : Nat} {w : Wave} {p : Pend} {d n fn th : Nat} {a b : Word}
    {args : List (Nat × Word × Word)} (hw : s.wave? u = some w) (hrun : w.halted = false)
    (hp : w.pend.find? (fun p => p.seq == seq) = some p) (hm : p.mask.getLsbD thread = true) (hd : p.dst = .vec d n)
    (hb : p.body = .sfq fn args) (ha : args.find? (fun a => a.1 == thread) = some (th, a, b)) :
    ∃ t : State, exec (.sfqRequestComplete u seq thread) s = .next t ∧ OnlyWave s t u ∧
      t.wave? u = some (w.sfqDone seq d thread (sfqResult fn a.toNat b.toNat)) := by
  have hu : ∀ x : Wave, x.uid = u → (x.sfqDone seq d thread (sfqResult fn a.toNat b.toNat)).uid = u := fun _ hx => hx
  refine ⟨_, ?_, OnlyWave.modWave s u _ hu, ?_⟩
  · rw [exec_sfqRequestComplete, execSfqRequestComplete, trySfqRequestComplete_eq hw hrun hp hm hd hb ha]
    rfl
  · rw [State.wave?_modWave _ _ _ _ hu, hw, Option.map_some, if_pos rfl]

/-! ### `WAITK` -/

/-- A wave without the outstanding writes that a `WAITK` completes (R172). -/
def Wave.completeWrites (l : List Nat) (w : Wave) : Wave := { w with pend := w.pend.filter fun p => !l.contains p.seq }

section Waitk

variable {s : State} {e : Enc} {w : Wave} {sp : Split}

theorem issueOf_gathFails (l : List Nat) : gathFails (issueOf .waitk e w sp).w l = gathFails w l ∧
    gathAgain (issueOf .waitk e w sp).w l = gathAgain w l := by
  obtain ⟨x, hx⟩ := issueOf_wave .waitk e w sp
  rw [hx]
  exact ⟨rfl, rfl⟩

/-- A `WAITK` waits for the writes that it covers, completes them, or reports the failures among them (R172, R229). -/
theorem exec_waitk_cases (h : Issues s .waitk e w sp) (hen : Enabled .waitk e w sp) :
    let i := issueOf .waitk e w sp
    let l := i.waitkSet
    let s1 := issued .waitk e s w sp
    (w.writesDone l = false → exec (.waitk e) s = .next (finish i (.block (.writes l) s1))) ∧
    (w.writesDone l = true → gathFails w l = [] →
      exec (.waitk e) s = .next (finish i (.done (s1.modWave w.uid (Wave.completeWrites l))))) ∧
    (w.writesDone l = true → gathFails w l ≠ [] → exec (.waitk e) s = .next (finish i
      (.trap (gathTrap (gathFails w l) (gathAgain w l)) (s1.modWave w.uid fun x => x.clearFails l)))) := by
  intro i l s1
  obtain ⟨hfails, hagain⟩ := issueOf_gathFails (e := e) (w := w) (sp := sp) l
  rw [exec_waitk, execWaitk, runOnce_next h _ (.inl hen)]
  dsimp only
  rw [issueOf_uid, issueOf_writesDone, hfails, hagain]
  refine ⟨fun hd => ?_, fun hd hf => ?_, fun hd hf => ?_⟩
  · rw [hd]; rfl
  · rw [hd, hf]; rfl
  · obtain ⟨x, r, hx⟩ := List.exists_cons_of_ne_nil hf
    rw [hd, hx]; rfl

theorem waitk_completes (h : Issues s .waitk e w sp) (hj : NoJoin e sp) (hen : Enabled .waitk e w sp)
    (hd : w.writesDone (issueOf .waitk e w sp).waitkSet = true) (hf : gathFails w (issueOf .waitk e w sp).waitkSet = []) :
    ∃ (t : State) (w' : Wave), exec (.waitk e) s = .next t ∧ OnlyWave s t w.uid ∧ GoesOn e w sp t w' ∧
      w'.pend = w.pend.filter fun p => !(issueOf .waitk e w sp).waitkSet.contains p.seq := by
  obtain ⟨-, hdone, -⟩ := exec_waitk_cases h hen
  obtain ⟨t, w', ht, honly, hwave, hw', hsplit⟩ :=
    finish_modWave h hj (Wave.completeWrites (issueOf .waitk e w sp).waitkSet) (fun _ => rfl) fun _ => rfl
  refine ⟨t, w', (hdone hd hf).trans (congrArg _ ht), honly, ⟨hwave, ⟨?_, ?_, ?_⟩, hsplit⟩, ?_⟩
  · exact (congrArg Wave.v hw' :)
  · exact (congrArg Wave.p hw' :)
  · exact (congrArg Wave.fp hw' :)
  · exact (congrArg Wave.pend hw' :)

theorem waitk_reports (h : Issues s .waitk e w sp) (hen : Enabled .waitk e w sp)
    (hd : w.writesDone (issueOf .waitk e w sp).waitkSet = true) (hf : gathFails w (issueOf .waitk e w sp).waitkSet ≠ []) :
    ∃ t1 : State, OnlyWave s t1 w.uid ∧ exec (.waitk e) s = .next (finish (issueOf .waitk e w sp)
      (.trap (gathTrap (gathFails w (issueOf .waitk e w sp).waitkSet) (gathAgain w (issueOf .waitk e w sp).waitkSet)) t1)) := by
  obtain ⟨-, -, hfailed⟩ := exec_waitk_cases h hen
  exact ⟨_, (issued_only .waitk e s w sp).trans (OnlyWave.modWave _ _ (Wave.clearFails · _) fun _ hx => hx), hfailed hd hf⟩

end Waitk

/-! ### The obligation -/

/-- Settles O32: it holds. `SFQ` and `WAITK` do one of the things that their tests choose between, and a step of the queue writes
what belongs to its thread. -/
theorem specialFunctionQueue : Obligations.SpecialFunctionQueue := by
  unfold Obligations.SpecialFunctionQueue
  refine ⟨?sfq, ?step, ?waitk⟩
  case sfq => exact fun s e w sp h hj => ⟨sfq_enters h hj, sfq_waits h⟩
  case step =>
    intro s u seq thread w p d n fn args th a b hw hrun hth hp hm hd hb ha r
    obtain ⟨t, hexec, honly, hwave⟩ := sfqRequestComplete_done hw hrun hp hm hd hb ha
    refine ⟨t, _, _, hexec, honly, hwave, Wave.sfqDone_rest .., ?_, ?_, fun t ht k hk => ?_, fun t ht => ?_, Wave.find?_clearPend hp thread, rfl⟩
    · rw [Wave.vreg_sfqDone _ _ _ _ hth _ hth, if_pos ⟨rfl, rfl⟩]
    · rw [Wave.fp_sfqDone, if_pos rfl]
    · rw [Wave.vreg_sfqDone _ _ _ _ hth _ ht, if_neg fun h => hk.elim (absurd h.1) (absurd h.2)]
    · rw [Wave.fp_sfqDone, if_neg ht]
  case waitk =>
    intro s e w sp h hj hen l
    obtain ⟨hwait, -, -⟩ := exec_waitk_cases h hen
    exact ⟨fun hd => hwait hd ▸ finish_block_waitsOn h _, waitk_completes h hj hen, waitk_reports h hen⟩

end Sys2Proof.Machine
end
